-- ==== Sys2Proof/Word.lean ====
section
/-! DEFINITION. Words, bytes and the sparse map that registers, lanes and units are kept in. -/

namespace Sys2Proof

/-- A byte of memory. -/
abbrev Byte := BitVec 8
/-- A 32-bit word: one lane's V register (R121). -/
abbrev W32 := BitVec 32
/-- A 64-bit word: a G register, an address, a lane mask (R121, R27). -/
abbrev W64 := BitVec 64
/-- A 128-bit word: a cursor, a Loupe record, a 16-byte sector (R121, R113, R78). -/
abbrev W128 := BitVec 128

/-- A sparse map from numbers to values, as plain data: keys rise, one entry a key. -/
abbrev Map (α : Type) := List (Nat × α)

namespace Map

/-- The entry at a key. -/
def find {α : Type} : Map α → Nat → Option α
  | [], _ => none
  | (k, v) :: t, n => if k = n then some v else find t n

/-- Write one entry, keeping the keys rising. -/
def put {α : Type} : Map α → Nat → α → Map α
  | [], n, x => [(n, x)]
  | (k, v) :: t, n, x =>
    if n < k then (n, x) :: (k, v) :: t
    else if n = k then (n, x) :: t
    else (k, v) :: put t n x

/-- Remove the entry at a key. -/
def del {α : Type} : Map α → Nat → Map α
  | [], _ => []
  | (k, v) :: t, n => if k = n then del t n else (k, v) :: del t n

/-- The entry at a key, or the value every absent key stands for. -/
def getD {α : Type} (m : Map α) (n : Nat) (dflt : α) : α := (m.find n).getD dflt

/-- Write a value, and drop the entry when the value is what an absent key stands for. -/
def set {α : Type} [DecidableEq α] (m : Map α) (n : Nat) (dflt x : α) : Map α :=
  if x = dflt then m.del n else m.put n x

/-- The keys. -/
def keys {α : Type} (m : Map α) : List Nat := m.map Prod.fst

/-- The values. -/
def vals {α : Type} (m : Map α) : List α := m.map Prod.snd

end Map

end Sys2Proof
end

