-- ==== Sys2Proof/Machine/Float.lean ====
section
/-! DEFINITION. Number formats and exact arithmetic (R53-R65, R73): decoding of floating-point codes,
one rounding function, the IEEE operations over exact values, the correctly rounded functions, and
conversion between formats. -/

namespace Sys2Proof.Machine

/-! ## Flags (R56) -/

def flIV : W32 := 0x001
def flDZ : W32 := 0x002
def flOF : W32 := 0x004
def flUF : W32 := 0x008
def flNX : W32 := 0x010
def flI4R : W32 := 0x100
def flZSAT : W32 := 0x200
def flISAT : W32 := 0x400
def flALN : W32 := 0x800
def flFMT : W32 := 0x1000

/-- A condition's flag when it arises. -/
def flIf (b : Bool) (f : W32) : W32 := if b then f else 0

/-! ## Formats (R54) -/

/-- A floating-point format: exponent and fraction widths, bias, and whether it has infinities. -/
structure Fmt where
  eb : Nat
  fb : Nat
  bias : Nat
  inf : Bool
  deriving DecidableEq, Repr

/-- The floating format of an R87 code: 6 E4M3, 7 E5M2, 8 BF16, 9 FP16, 10 FP32, else FP64. -/
def fmtOf (code : Nat) : Fmt :=
  match code with
  | 6 => ⟨4, 3, 7, false⟩
  | 7 => ⟨5, 2, 15, true⟩
  | 8 => ⟨8, 7, 127, true⟩
  | 9 => ⟨5, 10, 15, true⟩
  | 10 => ⟨8, 23, 127, true⟩
  | _ => ⟨11, 52, 1023, true⟩

/-- Width of a format. -/
def Fmt.width (f : Fmt) : Nat := 1 + f.eb + f.fb

/-- Code of the largest finite magnitude. -/
def Fmt.maxFin (f : Fmt) : Nat := if f.inf then (2 ^ f.eb - 1) * 2 ^ f.fb - 1 else 2 ^ (f.eb + f.fb) - 2

/-- Code of +infinity; for E4M3, which has none, of its NaN. -/
def Fmt.infCode (f : Fmt) : Nat := if f.inf then (2 ^ f.eb - 1) * 2 ^ f.fb else 2 ^ (f.eb + f.fb) - 1

/-- The canonical quiet NaN (R54). -/
def Fmt.nan (f : Fmt) : Nat :=
  if f.inf then (2 ^ f.eb - 1) * 2 ^ f.fb + 2 ^ (f.fb - 1) else 2 ^ (f.eb + f.fb) - 1

/-- A code with its sign. -/
def Fmt.signed (f : Fmt) (neg : Bool) (mag : Nat) : Nat := if neg then 2 ^ (f.eb + f.fb) + mag else mag

/-- Exponent of the smallest quantum: 1 - bias - fraction bits. -/
def Fmt.qmin (f : Fmt) : Int := 1 - (f.bias : Int) - f.fb

/-- A decoded value: NaN (signalling or quiet), infinity, or ± m × 2^e. -/
inductive Fl where
  | nan (sig : Bool)
  | inf (neg : Bool)
  | fin (neg : Bool) (m : Nat) (e : Int)
  deriving DecidableEq, Repr, Inhabited

/-- Decode a code of a format (R54). -/
def decFl (f : Fmt) (code : Nat) : Fl :=
  let neg := (code / 2 ^ (f.eb + f.fb)) % 2 = 1
  let ex := (code / 2 ^ f.fb) % 2 ^ f.eb
  let fr := code % 2 ^ f.fb
  if f.inf && ex = 2 ^ f.eb - 1 then
    if fr = 0 then .inf neg else .nan (fr < 2 ^ (f.fb - 1))
  else if !f.inf && ex = 2 ^ f.eb - 1 && fr = 2 ^ f.fb - 1 then .nan false
  else if ex = 0 then .fin neg fr f.qmin
  else .fin neg (2 ^ f.fb + fr) (f.qmin + ex - 1)

/-- Is a code of a format subnormal, zero excluded? -/
def isSubnormal (f : Fmt) (code : Nat) : Bool :=
  (code / 2 ^ f.fb) % 2 ^ f.eb = 0 && code % 2 ^ f.fb != 0

/-! ## Rounding (R55, R57, R58) -/

/-- Rounding modes, in the order of MODE.RM (R55). -/
inductive Rm where
  | rne | rtz | ru | rd
  deriving DecidableEq, Repr, Inhabited

/-- The mode of a code 0-3. -/
def rmOf (n : Nat) : Rm :=
  match n with
  | 1 => .rtz
  | 2 => .ru
  | 3 => .rd
  | _ => .rne

/-- Is a magnitude with a remainder rounded away from zero? `half` compares the remainder with one
half: lt, eq or gt; `odd` tells the parity of the truncated magnitude. -/
def roundUp (rm : Rm) (neg inexact : Bool) (half : Ordering) (odd : Bool) : Bool :=
  match rm with
  | .rne => match half with
    | .lt => false
    | .gt => true
    | .eq => odd
  | .rtz => false
  | .ru => inexact && !neg
  | .rd => inexact && neg

/-- Round (m + sticky) × 2^e to an integer multiple of 2^q: the multiple, and whether it is
inexact. -/
def roundMag (rm : Rm) (neg : Bool) (m : Nat) (e q : Int) (st : Bool) : Nat × Bool :=
  if q ≤ e then (m * 2 ^ (e - q).toNat + (if roundUp rm neg st .lt false then 1 else 0), st)
  else
    let k := (q - e).toNat
    let r := m % 2 ^ k
    let t := m / 2 ^ k
    let inex := r != 0 || st
    let half : Ordering :=
      if 2 * r < 2 ^ k then .lt else if 2 * r = 2 ^ k && !st then .eq else .gt
    (if roundUp rm neg inex half (t % 2 = 1) then t + 1 else t, inex)

/-- The outcome of rounding a finite value to a format: the magnitude's code, whether it lies beyond
the largest finite value, is inexact, and is tiny after rounding (R58). -/
structure Rounded where
  mag : Nat
  ovf : Bool
  inexact : Bool
  tiny : Bool
  deriving DecidableEq, Repr

/-- Round (m + sticky) × 2^e to a format with an unbounded range above. -/
def roundFmt (f : Fmt) (rm : Rm) (neg : Bool) (m : Nat) (e : Int) (st : Bool) : Rounded :=
  if m = 0 && !st then ⟨0, false, false, false⟩
  else
    let ex : Int := (Nat.log2 m : Int) + e
    let qn : Int := ex - f.fb
    let q : Int := if qn < f.qmin then f.qmin else qn
    let (r, inex) := roundMag rm neg m e q st
    let (ru, _) := roundMag rm neg m e qn st
    let code := (q - f.qmin).toNat * 2 ^ f.fb + r
    let tiny := decide (qn < f.qmin) && !(qn + 1 = f.qmin && ru = 2 ^ (f.fb + 1))
    ⟨code, decide (f.maxFin < code), inex, tiny⟩

/-- Does IEEE 754 deliver infinity on an overflow in this mode? -/
def overInf (rm : Rm) (neg : Bool) : Bool :=
  match rm with
  | .rne => true
  | .rtz => false
  | .ru => !neg
  | .rd => neg

/-- The result of vector arithmetic from an exact value (R58): code and flags. -/
def finish (f : Fmt) (rm : Rm) (ftz : Bool) (neg : Bool) (m : Nat) (e : Int) (st : Bool) :
    Nat × W32 :=
  let r := roundFmt f rm neg m e st
  if r.ovf then
    (f.signed neg (if overInf rm neg then f.infCode else f.maxFin), flOF ||| flNX)
  else if ftz && r.mag != 0 && decide (r.mag < 2 ^ f.fb) then (f.signed neg 0, flUF ||| flNX)
  else (f.signed neg r.mag, flIf r.inexact flNX ||| flIf (r.inexact && r.tiny) flUF)

/-- `finish` of a signed exact value, with the sign of a zero given. -/
def finishInt (f : Fmt) (rm : Rm) (ftz : Bool) (x : Int) (e : Int) (zneg : Bool) : Nat × W32 :=
  if x = 0 then (f.signed zneg 0, 0)
  else finish f rm ftz (decide (x < 0)) x.natAbs e false

/-! ## IEEE operations (R58-R60, R166) -/

def Fl.isNan : Fl → Bool
  | .nan _ => true
  | _ => false

def Fl.isSig : Fl → Bool
  | .nan s => s
  | _ => false

def Fl.neg : Fl → Bool
  | .nan _ => false
  | .inf n => n
  | .fin n _ _ => n

def Fl.isZero : Fl → Bool
  | .fin _ 0 _ => true
  | _ => false

/-- Invert the sign. -/
def Fl.negate : Fl → Fl
  | .nan s => .nan s
  | .inf n => .inf (!n)
  | .fin n m e => .fin (!n) m e

def signInt (neg : Bool) (m : Nat) : Int := if neg then -(m : Int) else m

/-- Read an input: a subnormal is a zero of its sign under DAZ (R58). -/
def readFl (f : Fmt) (daz : Bool) (code : Nat) : Fl :=
  match decFl f code with
  | .fin n m e => if daz && isSubnormal f code then .fin n 0 e else .fin n m e
  | x => x

/-- The sum of two finite values as an exact signed multiple of a power of two. -/
def addExact (n1 : Bool) (m1 : Nat) (e1 : Int) (n2 : Bool) (m2 : Nat) (e2 : Int) : Int × Int :=
  let e := if e1 ≤ e2 then e1 else e2
  (signInt n1 (m1 * 2 ^ (e1 - e).toNat) + signInt n2 (m2 * 2 ^ (e2 - e).toNat), e)

/-- The sign of an exactly zero sum (R166). -/
def zeroSign (rm : Rm) (n1 n2 : Bool) : Bool := if n1 = n2 then n1 else rm = .rd

/-- a + b, rounded once. -/
def flAdd (f : Fmt) (rm : Rm) (ftz : Bool) (a b : Fl) : Nat × W32 :=
  match a, b with
  | .nan s, b => (f.nan, flIf (s || b.isSig) flIV)
  | _, .nan s => (f.nan, flIf s flIV)
  | .inf n1, .inf n2 => if n1 = n2 then (f.signed n1 f.infCode, 0) else (f.nan, flIV)
  | .inf n, .fin _ _ _ => (f.signed n f.infCode, 0)
  | .fin _ _ _, .inf n => (f.signed n f.infCode, 0)
  | .fin n1 m1 e1, .fin n2 m2 e2 =>
    let (x, e) := addExact n1 m1 e1 n2 m2 e2
    finishInt f rm ftz x e (zeroSign rm n1 n2)

/-- a × b, rounded once. -/
def flMul (f : Fmt) (rm : Rm) (ftz : Bool) (a b : Fl) : Nat × W32 :=
  match a, b with
  | .nan s, b => (f.nan, flIf (s || b.isSig) flIV)
  | _, .nan s => (f.nan, flIf s flIV)
  | .inf n1, b => if b.isZero then (f.nan, flIV) else (f.signed (n1 != b.neg) f.infCode, 0)
  | a, .inf n2 => if a.isZero then (f.nan, flIV) else (f.signed (a.neg != n2) f.infCode, 0)
  | .fin n1 m1 e1, .fin n2 m2 e2 =>
    if m1 * m2 = 0 then (f.signed (n1 != n2) 0, 0)
    else finish f rm ftz (n1 != n2) (m1 * m2) (e1 + e2) false

/-- a × b + c, exact, rounded once. -/
def flFma (f : Fmt) (rm : Rm) (ftz : Bool) (a b c : Fl) : Nat × W32 :=
  let sig := a.isSig || b.isSig || c.isSig
  let bad := match a, b with
    | .inf _, y => y.isZero
    | x, .inf _ => x.isZero
    | _, _ => false
  if bad then (f.nan, flIV)
  else if a.isNan || b.isNan || c.isNan then (f.nan, flIf sig flIV)
  else
    let n := a.neg != b.neg
    match a, b, c with
    | .fin _ m1 e1, .fin _ m2 e2, .fin n3 m3 e3 =>
      let (x, e) := addExact n (m1 * m2) (e1 + e2) n3 m3 e3
      finishInt f rm ftz x e (zeroSign rm n n3)
    | .fin _ _ _, .fin _ _ _, .inf n3 => (f.signed n3 f.infCode, 0)
    | _, _, .inf n3 => if n = n3 then (f.signed n f.infCode, 0) else (f.nan, flIV)
    | _, _, _ => (f.signed n f.infCode, 0)

/-- Compare two values that are not NaN; zeros compare equal. -/
def flCmp (a b : Fl) : Ordering :=
  match a, b with
  | .inf n1, .inf n2 => if n1 = n2 then .eq else if n1 then .lt else .gt
  | .inf n1, _ => if n1 then .lt else .gt
  | _, .inf n2 => if n2 then .gt else .lt
  | .fin n1 m1 e1, .fin n2 m2 e2 =>
    let (x, _) := addExact n1 m1 e1 (!n2) m2 e2
    if x = 0 then .eq else if x < 0 then .lt else .gt
  | _, _ => .eq

/-- Is a taken as the smaller of two values that are not NaN, with -0 below +0? -/
def flLess (a b : Fl) : Bool :=
  match flCmp a b with
  | .lt => true
  | .gt => false
  | .eq => a.neg && !b.neg

/-- FMIN and FMAX (R60, R167) on codes already read under DAZ. -/
def flMinMax (f : Fmt) (mx leg : Bool) (ca cb : Nat) (a b : Fl) : Nat × W32 :=
  let iv := flIf (a.isSig || b.isSig) flIV
  if leg then
    if a.isNan || b.isNan then (f.nan, iv)
    else match flCmp a b with
      | .eq => (ca, iv)
      | .lt => (if mx then cb else ca, iv)
      | .gt => (if mx then ca else cb, iv)
  else if a.isNan && b.isNan then (f.nan, iv)
  else if a.isNan then (cb, iv)
  else if b.isNan then (ca, iv)
  else (if flLess a b then (if mx then cb else ca)
        else if flLess b a then (if mx then ca else cb) else ca, iv)

/-! ## Correctly rounded functions (R62, R168) -/

/-- Integer square root, one bit a step. -/
def isqrtAux (m : Nat) : Nat → Nat → Nat
  | 0, r => r
  | k + 1, r => isqrtAux m k (if (r + 2 ^ k) * (r + 2 ^ k) ≤ m then r + 2 ^ k else r)

/-- Integer square root. -/
def isqrt (m : Nat) : Nat := isqrtAux m (Nat.log2 m / 2 + 1) 0

/-- a / b, rounded once. -/
def flDiv (f : Fmt) (rm : Rm) (ftz : Bool) (a b : Fl) : Nat × W32 :=
  match a, b with
  | .nan s, b => (f.nan, flIf (s || b.isSig) flIV)
  | _, .nan s => (f.nan, flIf s flIV)
  | .inf _, .inf _ => (f.nan, flIV)
  | .inf n, b => (f.signed (n != b.neg) f.infCode, 0)
  | a, .inf n => (f.signed (a.neg != n) 0, 0)
  | .fin n1 m1 e1, .fin n2 m2 e2 =>
    let n := n1 != n2
    if m2 = 0 then
      if m1 = 0 then (f.nan, flIV) else (f.signed n f.infCode, flDZ)
    else if m1 = 0 then (f.signed n 0, 0)
    else
      let k : Nat := 128
      let q := m1 * 2 ^ k / m2
      finish f rm ftz n q (e1 - e2 - (k : Int)) (m1 * 2 ^ k % m2 != 0)

/-- The square root, rounded once. -/
def flSqrt (f : Fmt) (rm : Rm) (ftz : Bool) (a : Fl) : Nat × W32 :=
  match a with
  | .nan s => (f.nan, flIf s flIV)
  | .inf n => if n then (f.nan, flIV) else (f.infCode, 0)
  | .fin n m e =>
    if m = 0 then (f.signed n 0, 0)
    else if n then (f.nan, flIV)
    else
      let par := (e % 2).toNat
      let m' := m * 2 ^ (par + 256)
      let r := isqrt m'
      finish f rm ftz false r ((e - par - 256) / 2) (r * r != m')

/-- The reciprocal square root, rounded once. -/
def flRsqrt (f : Fmt) (rm : Rm) (ftz : Bool) (a : Fl) : Nat × W32 :=
  match a with
  | .nan s => (f.nan, flIf s flIV)
  | .inf n => if n then (f.nan, flIV) else (0, 0)
  | .fin n m e =>
    if m = 0 then (f.signed n f.infCode, flDZ)
    else if n then (f.nan, flIV)
    else
      let par := (e % 2).toNat
      let m' := m * 2 ^ par
      let k : Nat := 256
      let r := isqrt (2 ^ (2 * k) / m')
      finish f rm ftz false r (-(k : Int) - (e - par) / 2) (r * r * m' != 2 ^ (2 * k))

/-- Fraction bits of the fixed-point values used for exponentials and logarithms: far more than any
FP32 rounding needs, since the exact values are irrational away from the exact cases. -/
def fixBits : Nat := 320

/-- Sum of t_k, t_0 = x^0, t_(k+1) = t_k × x / (k + 1), in fixed point. -/
def expAux (x : Nat) : Nat → Nat → Nat → Nat → Nat
  | 0, _, _, acc => acc
  | fuel + 1, k, t, acc => expAux x fuel (k + 1) (t * x / 2 ^ fixBits / (k + 1))
      (acc + t)

/-- e^x for fixed-point x in [0, 1]. -/
def expFix (x : Nat) : Nat := expAux x 80 0 (2 ^ fixBits) 0

/-- Sum of 1 / (k × 2^k). -/
def ln2Aux : Nat → Nat → Nat → Nat
  | 0, _, acc => acc
  | fuel + 1, k, acc => ln2Aux fuel (k + 1) (acc + 2 ^ fixBits / (k * 2 ^ k))

/-- ln 2 in fixed point. -/
def ln2Fix : Nat := ln2Aux 330 1 0

/-- Sum of z^(2k+1) / (2k+1). -/
def atanhAux (z2 : Nat) : Nat → Nat → Nat → Nat → Nat
  | 0, _, _, acc => acc
  | fuel + 1, k, t, acc => atanhAux z2 fuel (k + 1) (t * z2 / 2 ^ fixBits) (acc + t / (2 * k + 1))

/-- log2 of m / 2^s in [1, 2), in fixed point. -/
def log2Fix (m s : Nat) : Nat :=
  let z := (m - 2 ^ s) * 2 ^ fixBits / (m + 2 ^ s)
  2 * atanhAux (z * z / 2 ^ fixBits) 110 0 z 0 * 2 ^ fixBits / ln2Fix

/-- 2^x, rounded once. -/
def flExp2 (f : Fmt) (rm : Rm) (ftz : Bool) (a : Fl) : Nat × W32 :=
  match a with
  | .nan s => (f.nan, flIf s flIV)
  | .inf n => (if n then 0 else f.infCode, 0)
  | .fin n m e =>
    if m = 0 then finish f rm ftz false 1 0 false
    else if 9 < (Nat.log2 m : Int) + e then
      if n then finish f rm ftz false 1 (-1024) true else finish f rm ftz false 1 1024 true
    else
      let x : Int := signInt n (if 0 ≤ e + fixBits then m * 2 ^ (e + fixBits).toNat
        else m / 2 ^ (-(e + fixBits)).toNat)
      let i : Int := x / (2 ^ fixBits : Int)
      let fr : Nat := (x % (2 ^ fixBits : Int)).toNat
      if fr = 0 then finish f rm ftz false 1 i false
      else finish f rm ftz false (expFix (fr * ln2Fix / 2 ^ fixBits) / 2 ^ 40)
        (i - (fixBits : Int) + 40) true

/-- log2 x, rounded once. -/
def flLog2 (f : Fmt) (rm : Rm) (ftz : Bool) (a : Fl) : Nat × W32 :=
  match a with
  | .nan s => (f.nan, flIf s flIV)
  | .inf n => if n then (f.nan, flIV) else (f.infCode, 0)
  | .fin n m e =>
    if m = 0 then (f.signed true f.infCode, flDZ)
    else if n then (f.nan, flIV)
    else
      let s := Nat.log2 m
      let ex : Int := s + e
      if m = 2 ^ s then finishInt f rm ftz ex 0 false
      else
        let v : Int := ex * (2 ^ fixBits : Int) + (log2Fix m s : Int)
        finish f rm ftz (decide (v < 0))
          (if v < 0 then (v.natAbs - 1) / 2 ^ 40 else v.natAbs / 2 ^ 40)
          (-(fixBits : Int) + 40) true

/-! ## Conversions (R63-R65, R170-R172) -/

/-- Range of an integer format of R87 (R53). -/
def intRange (code : Nat) : Int × Int :=
  match code with
  | 0 => (-7, 7)
  | 1 => (-128, 127)
  | 2 => (0, 255)
  | 3 => (-32768, 32767)
  | 4 => (-2147483648, 2147483647)
  | _ => (-9223372036854775808, 9223372036854775807)

/-- Bits of an integer format. -/
def intBits (code : Nat) : Nat :=
  match code with
  | 0 => 4 | 1 => 8 | 2 => 8 | 3 => 16 | 4 => 32 | _ => 64

/-- Bits of any format of R87. -/
def fmtW (code : Nat) : Nat :=
  if code ≤ 5 then intBits code else if code = 12 then 32 else (fmtOf code).width

/-- An integer format's value; INT4S 1000b reads as 0 with I4R (R53). -/
def intVal (code : Nat) (bits : Nat) : Int × W32 :=
  let w := intBits code
  let u := bits % 2 ^ w
  if code = 0 && u = 8 then (0, flI4R)
  else if code = 2 then (u, 0)
  else (if u < 2 ^ (w - 1) then (u : Int) else (u : Int) - 2 ^ w, 0)

/-- A value of any floating or integer format. -/
def readFmt (code : Nat) (bits : Nat) : Fl × W32 :=
  if code ≤ 5 then
    let (x, fl) := intVal code bits
    (.fin (decide (x < 0)) x.natAbs 0, fl)
  else (decFl (fmtOf code) (bits % 2 ^ fmtW code), 0)

/-- Two's complement bits of an integer. -/
def intCode (w : Nat) (x : Int) : Nat := (x % (2 ^ w : Int)).toNat

/-- Limit an integer. -/
def clampInt (lo hi x : Int) : Int := if x < lo then lo else if hi < x then hi else x

/-- Convert a value to a floating format (R63, R172). -/
def toFloat (code : Nat) (rm : Rm) (sat : Bool) (v : Fl) : Nat × W32 :=
  let f := fmtOf code
  match v with
  | .nan s => (f.nan, flIf s flIV)
  | .inf n =>
    if sat then (f.signed n f.maxFin, flISAT)
    else if f.inf then (f.signed n f.infCode, 0) else (f.nan, flIV)
  | .fin n m e =>
    let r := roundFmt f rm n m e false
    if r.ovf then
      if sat then (f.signed n f.maxFin, flISAT)
      else if overInf rm n then
        (if f.inf then f.signed n f.infCode else f.nan, flOF ||| flNX)
      else (f.signed n f.maxFin, flOF ||| flNX)
    else (f.signed n r.mag, flIf r.inexact flNX ||| flIf (r.inexact && r.tiny) flUF)

/-- Convert a value to an integer format by the float → integer rows of R63. -/
def toInt (code : Nat) (rm : Rm) (sat : Bool) (v : Fl) : Nat × W32 :=
  let (lo, hi) := intRange code
  let w := intBits code
  let clampFl := if sat then flISAT else if code = 0 then flISAT ||| flIV else flIV
  match v with
  | .nan _ => (0, flIV)
  | .inf n => (intCode w (if n then lo else hi), clampFl)
  | .fin n m e =>
    let (r, inex) := roundMag rm n m e 0 false
    let x := signInt n r
    if x < lo ∨ hi < x then (intCode w (clampInt lo hi x), clampFl)
    else (intCode w x, flIf inex flNX)

/-- Integer to integer (R63, R172). -/
def intToInt (code : Nat) (sat : Bool) (x : Int) : Nat × W32 :=
  let (lo, hi) := intRange code
  let w := intBits code
  if lo ≤ x ∧ x ≤ hi then (intCode w x, 0)
  else if sat || code = 0 then (intCode w (clampInt lo hi x), flISAT)
  else (intCode w x, 0)

/-- The TRIAD32 word of an integer (R64). -/
def triadOf (x : Int) : Nat :=
  (x % 255).toNat + (x % 256).toNat * 2 ^ 8 + (x % 257).toNat * 2 ^ 16

/-- Mixed-radix reconstruction (R65) of three residues. -/
def triadVal (x255 x256 x257 : Nat) : Int :=
  let a2 : Nat := (((x255 : Int) - x256) % 256).toNat
  let a3 : Nat := (((x257 : Int) - x255 + 2 * a2) * 129 % 257).toNat
  let u : Int := x255 + 255 * a2 + 65280 * a3
  if 8388480 ≤ u then u - 16776960 else u

/-- TRIAD32 to INT32 with the field checks (R65). -/
def triadRead (w : Nat) : Int × W32 :=
  let f255 := w % 256
  let f256 := w / 2 ^ 8 % 256
  let f257 := w / 2 ^ 16 % 512
  let bad := f255 = 255 || 256 < f257 || w / 2 ^ 25 % 128 != 0
  (triadVal (if f255 = 255 then 0 else f255) f256 (if 256 < f257 then f257 % 257 else f257),
    flIf bad flFMT)

/-- `CVT` of one element (R170-R172): source bits to destination bits and flags. `rm` is the mode
when one applies. -/
def convert (dst src : Nat) (rm : Rm) (sat : Bool) (bits : Nat) : Nat × W32 :=
  if dst = 12 then (triadOf (intVal 4 bits).1, 0)
  else if src = 12 then
    let (x, fl) := triadRead (bits % 2 ^ 32)
    (intCode 32 x, fl)
  else if dst ≤ 5 && src ≤ 5 then
    let (x, fl) := intVal src bits
    let (r, fl2) := intToInt dst sat x
    (r, fl ||| fl2)
  else
    let (v, fl) := readFmt src bits
    let (r, fl2) := if dst ≤ 5 then toInt dst rm sat v else toFloat dst rm sat v
    (r, fl ||| fl2)

/-- An element's bits count as zero for the zero detectors of R73; a TRIAD32 element is zero when its
value by R65 is. -/
def isZeroElem (code : Nat) (bits : Nat) : Bool :=
  if code = 12 then (triadRead (bits % 2 ^ 32)).1 = 0
  else if code ≤ 5 then bits % 2 ^ fmtW code = 0
  else bits % 2 ^ (fmtW code - 1) = 0

/-- The exact product of a value and an FP32 scale, as a value (R72, R286): NaN rules of IEEE 754
multiplication, with IV for 0 × ∞. -/
def scaleVal (v t : Fl) : Fl × W32 :=
  match v, t with
  | .nan s, t => (.nan s, flIf (s || t.isSig) flIV)
  | v, .nan s => (.nan s, flIf (s || v.isSig) flIV)
  | .inf n, t => if t.isZero then (.nan false, flIV) else (.inf (n != t.neg), 0)
  | v, .inf n => if v.isZero then (.nan false, flIV) else (.inf (v.neg != n), 0)
  | .fin n1 m1 e1, .fin n2 m2 e2 => (.fin (n1 != n2) (m1 * m2) (e1 + e2), 0)

end Sys2Proof.Machine
end

