-- ==== Sys2Proof/Machine/Bytes.lean ====
section
/-! DEFINITION. Bytes, words and fields: little-endian values (R4), bit fields, lane masks. -/

namespace Sys2Proof.Machine

/-- The n bytes of a number, least significant first (R4). -/
def bytesOf : Nat → Nat → List Byte
  | 0, _ => []
  | n + 1, x => BitVec.ofNat 8 x :: bytesOf n (x / 256)

/-- The number that bytes spell, least significant first (R4). -/
def natOf : List Byte → Nat
  | [] => 0
  | b :: t => b.toNat + 256 * natOf t

/-- Bits [lo + n - 1 : lo] of a number. -/
def fld (x lo n : Nat) : Nat := x / 2 ^ lo % 2 ^ n

/-- One bit of a number. -/
def bitN (x i : Nat) : Bool := x / 2 ^ i % 2 = 1

/-- Sign-extended value of the low n bits. -/
def sgnN (x n : Nat) : Int :=
  if x % 2 ^ n < 2 ^ (n - 1) then (x % 2 ^ n : Nat) else ((x % 2 ^ n : Nat) : Int) - 2 ^ n

/-- n copies of an element. -/
def rep {α : Type} (n : Nat) (x : α) : List α := List.replicate n x

/-- Numbers from a to a + n - 1. -/
def span (a n : Nat) : List Nat := (List.range n).map (a + ·)

/-- The element of a list at an index, or a default. -/
def nth {α : Type} (l : List α) (i : Nat) (d : α) : α := (l[i]?).getD d

/-- Replace the element at an index. -/
def setNth {α : Type} : List α → Nat → α → List α
  | [], _, _ => []
  | _ :: t, 0, y => y :: t
  | x :: t, n + 1, y => x :: setNth t n y

/-- One bit of a lane mask. -/
def lane (m : W64) (l : Nat) : Bool := m.getLsbD l

/-- The mask of a list of lanes. -/
def maskOf (ls : List Nat) : W64 := ls.foldl (fun m l => m ||| (1#64 <<< l)) 0

/-- Set or clear one bit of a lane mask. -/
def setLane (m : W64) (l : Nat) (b : Bool) : W64 :=
  if b then m ||| (1#64 <<< l) else m &&& ~~~(1#64 <<< l)

/-- The least element of a list under a key, the first on a tie. -/
def minBy {α : Type} (key : α → Nat) : List α → Option α
  | [] => none
  | x :: t => match minBy key t with
    | none => some x
    | some y => if key y < key x then some y else some x

/-- Insert into a list that rises by a key, after its equals. -/
def insertBy {α : Type} (key : α → Nat) (x : α) : List α → List α
  | [] => [x]
  | y :: t => if key x < key y then x :: y :: t else y :: insertBy key x t

/-- A list in rising order of a key, stable. -/
def sortBy {α : Type} (key : α → Nat) (l : List α) : List α := l.foldl (fun acc x => insertBy key x acc) []

/-- Remove repeats, keeping the first of each. -/
def nubNat : List Nat → List Nat
  | [] => []
  | x :: t => x :: (nubNat t).filter (· != x)

end Sys2Proof.Machine
end

