-- ==== Sys2Proof/Syntax.lean ====
section
/-! DEFINITION. One constructor of `Instr` per row of spec/opcode_table.json: the wave
instructions, the copy-engine commands, and the steps of the package's other units. -/

namespace Sys2Proof

/-- The guard of a wave instruction (R124). -/
inductive Guard where
  | always
  | p (n : BitVec 6) (neg : Bool)
  | gp (n : BitVec 4) (neg : Bool)
  deriving DecidableEq, Repr, Inhabited

/-- The fields of a wave instruction's word (R123), pulled out once: the form W, the broadcast
bit S, the guard, the function within OP, the operand fields, the type and modifier byte M, and
word 1 when X = 1. Named readings of M, C and word 1 stand in Machine/Encoding.lean. -/
structure WOp where
  grp : Bool
  sB : Bool
  guard : Guard
  fn : BitVec 5
  d : BitVec 8
  a : BitVec 8
  b : BitVec 8
  c : BitVec 8
  m : BitVec 8
  ext : Option (BitVec 64)
  deriving DecidableEq, Repr, Inhabited

/-- Causes of a copy-engine fault (R295, R387). -/
inductive CeCause where
  | unimpl | illegal | fetch | xlat (low : BitVec 8) | canon | bound | align
  | descInvalid | box | conv | block | operand | bar | gsub | space | mem (low : BitVec 8)
  | race (n : BitVec 8)
  deriving DecidableEq, Repr, Inhabited

/-- Three-operand copy command, register form: E[d] := E[a] op E[b] (R276). -/
structure Ce3 where
  d : BitVec 5
  a : BitVec 5
  b : BitVec 5
  deriving DecidableEq, Repr, Inhabited

/-- Copy command with a 9-bit immediate (R276). -/
structure CeI where
  d : BitVec 5
  a : BitVec 5
  i : BitVec 9
  deriving DecidableEq, Repr, Inhabited

/-- Copy command with an extension word (R276). -/
structure CeX where
  d : BitVec 5
  a : BitVec 5
  x : BitVec 32
  deriving DecidableEq, Repr, Inhabited

/-- Copy branch on two registers, offset OFF14 (R278). -/
structure CeBr where
  a : BitVec 5
  b : BitVec 5
  off : BitVec 14
  deriving DecidableEq, Repr, Inhabited

/-- Copy branch with the offset in the extension word; `imm` is the operand form I (R278). -/
structure CeBrX where
  imm : Bool
  a : BitVec 5
  b : BitVec 5
  x : BitVec 32
  deriving DecidableEq, Repr, Inhabited

/-- Scalar load or store (R280): data register, base, the index register when I = 0, size code,
SX, SP, and the displacement when X = 1. -/
structure CeMem where
  d : BitVec 5
  a : BitVec 5
  b : Option (BitVec 5)
  z : BitVec 2
  sx : Bool
  sp : Bool
  x : Option (BitVec 32)
  deriving DecidableEq, Repr, Inhabited

/-- Descriptor load (R281). -/
structure CeDld where
  k : BitVec 3
  a : BitVec 5
  b : Option (BitVec 5)
  sp : Bool
  x : Option (BitVec 32)
  deriving DecidableEq, Repr, Inhabited

/-- An issue slot (R41, R46): the core (die × 64 + physical core), the quarter, the slot's form,
and the core cycles that have passed since this core's last issue slot. -/
structure Slot where
  core : Nat
  quarter : Nat
  vec : Bool
  dt : Nat
  deriving DecidableEq, Repr, Inhabited

/-- A register write of the host (R316, R378): the context whose window is written (0 for the
package-level registers of BAR0), the byte offset, and the value. -/
structure RegWrite where
  ctx : Nat
  off : Nat
  val : BitVec 64
  deriving DecidableEq, Repr, Inhabited

/-- A host access through BAR2 (R379): the function, the offset in the aperture, the size, and
for a write the bytes. -/
structure Bar2 where
  fn : Nat
  off : Nat
  size : Nat
  data : List Byte
  deriving DecidableEq, Repr, Inhabited

/-- An inbound RDMA request (R386): the key, the device PA, the bytes, and for an atomic its
compare and operand values; `cas` tells CmpSwap from FetchAdd. -/
structure Rdma where
  qp : BitVec 12
  rkey : BitVec 32
  pa : Nat
  size : Nat
  data : List Byte
  cas : Bool
  cmp : BitVec 64
  opd : BitVec 64
  deriving DecidableEq, Repr, Inhabited

/-- THE instruction set: one constructor per row of spec/opcode_table.json. -/
inductive Instr where
  -- an issue slot of a quarter
  | waveIssue (o : Slot)
  -- identity and capability
  | getid (o : WOp) | getcap (o : WOp)
  -- integer, logic, predicate
  | iadd (o : WOp) | isub (o : WOp) | ineg (o : WOp) | iabs (o : WOp)
  | imul (o : WOp) | imad (o : WOp) | imin (o : WOp) | imax (o : WOp)
  | and (o : WOp) | or (o : WOp) | xor (o : WOp) | not (o : WOp) | andn (o : WOp)
  | bool3 (o : WOp) | shl (o : WOp) | shr (o : WOp) | sar (o : WOp) | shf (o : WOp)
  | bfe (o : WOp) | bfi (o : WOp) | popc (o : WOp) | clz (o : WOp) | brev (o : WOp)
  | mov (o : WOp) | movi (o : WOp) | sel (o : WOp) | icmp (o : WOp) | pbool (o : WOp)
  | idp4 (o : WOp) | idp2 (o : WOp)
  -- floating point and conversion
  | fadd (o : WOp) | fsub (o : WOp) | fmul (o : WOp) | ffma (o : WOp)
  | fmin (o : WOp) | fmax (o : WOp) | fcmp (o : WOp)
  | frcp (o : WOp) | frsq (o : WOp) | fsqrt (o : WOp) | fdiv (o : WOp)
  | fexp2 (o : WOp) | flog2 (o : WOp) | cvt (o : WOp) | fneg (o : WOp) | fabs (o : WOp)
  -- control
  | bra (o : WOp) | braIndirect (o : WOp) | call (o : WOp) | callIndirect (o : WOp)
  | ret (o : WOp) | cvgPush (o : WOp) | cvgJoin (o : WOp) | exmGet (o : WOp) | exmSet (o : WOp)
  | yield (o : WOp) | end_ (o : WOp) | trap (o : WOp)
  -- cross-lane
  | rdfirst (o : WOp) | rdlane (o : WOp) | wrlane (o : WOp) | bcast (o : WOp)
  | lperm (o : WOp) | poll (o : WOp) | lred (o : WOp) | sameMask (o : WOp) | sameAll (o : WOp)
  -- mode and flags
  | getmode (o : WOp) | setmode (o : WOp) | getflags (o : WOp) | setflags (o : WOp)
  | clrflags (o : WOp)
  -- memory
  | ldg (o : WOp) | stg (o : WOp) | atg (o : WOp) | redg (o : WOp) | redgRedir (o : WOp)
  | redgUpdate (idx : Nat)
  | pref (o : WOp) | lds (o : WOp) | sts (o : WOp) | ats (o : WOp) | ldc (o : WOp)
  | fenceRel (o : WOp) | fenceAcq (o : WOp) | fenceAr (o : WOp) | icinv (o : WOp)
  -- queues and barriers
  | qbind (o : WOp) | qbindInit (o : WOp) | qpush (o : WOp) | qpop (o : WOp) | qtry (o : WOp)
  | qstat (o : WOp) | barInit (o : WOp) | barArr (o : WOp) | barWait (o : WOp) | barExp (o : WOp)
  -- engines and launches
  | ceStart (o : WOp) | ceWait (o : WOp) | gthr (o : WOp) | sctr (o : WOp)
  | gatherUnitAccept (idx : Nat) | gatherSector (idx : Nat) | scatterSector (idx : Nat)
  | launch (o : WOp)
  -- matrix array
  | mldb (o : WOp) | mma (o : WOp) | mst (o : WOp) | mz (o : WOp)
  | matrixArrayExecute (core : Nat)
  -- cursors, append cursors, volumes
  | curOpen (o : WOp) | curNext (o : WOp) | curSeek (o : WOp) | curDesc (o : WOp)
  | curGet (o : WOp) | curTest (o : WOp) | curCoit (o : WOp)
  | appOpen (o : WOp) | appPut (o : WOp) | appClose (o : WOp)
  | vld (o : WOp) | vst (o : WOp) | vprobe (o : WOp)
  -- Filigree
  | fgCfg (o : WOp) | fgLoad (o : WOp) | fgSeed (o : WOp) | fgClamp (o : WOp) | fgFree (o : WOp)
  | fgSweep (o : WOp) | fgRead (o : WOp) | fgCnt (o : WOp)
  | filExecCfg (die : Nat) | filExecLoad (die : Nat) | filExecSeed (die : Nat)
  | filExecClamp (die : Nat) | filExecFree (die : Nat) | filSweepColour (die : Nat)
  | filExecRead (die : Nat) | filExecCnt (die : Nat) | filCompletionPush (die : Nat)
  -- system
  | sysrd (o : WOp) | syswr (o : WOp) | rtt (o : WOp) | rttSkip (o : WOp) | rttGo (o : WOp)
  | clbInv (o : WOp) | tlbInvVa (o : WOp) | tlbInvCtx (o : WOp)
  | pmap (o : WOp) | poolUnitRequest (ctx : Nat) | pmapRec (o : WOp)
  -- caches
  | wcbEntryTimeout (core sector : Nat) | l2VictimWriteback (die line : Nat)
  -- copy engine: integer commands
  | ceAdd (o : Ce3) | ceAddImm (o : CeI) | ceAddExt (o : CeX)
  | ceSub (o : Ce3) | ceSubImm (o : CeI) | ceSubExt (o : CeX)
  | ceMul (o : Ce3) | ceMulImm (o : CeI) | ceMulExt (o : CeX)
  | ceAnd (o : Ce3) | ceAndImm (o : CeI) | ceAndExt (o : CeX)
  | ceOr (o : Ce3) | ceOrImm (o : CeI) | ceOrExt (o : CeX)
  | ceXor (o : Ce3) | ceXorImm (o : CeI) | ceXorExt (o : CeX)
  | ceShl (o : Ce3) | ceShlImm (o : CeI) | ceShlExt (o : CeX)
  | ceShr (o : Ce3) | ceShrImm (o : CeI) | ceShrExt (o : CeX)
  | ceSar (o : Ce3) | ceSarImm (o : CeI) | ceSarExt (o : CeX)
  | ceMin (o : Ce3) | ceMinImm (o : CeI) | ceMinExt (o : CeX)
  | ceMax (o : Ce3) | ceMaxImm (o : CeI) | ceMaxExt (o : CeX)
  | li (d : BitVec 5) (i : BitVec 9) | liExt (d : BitVec 5) (x : BitVec 32)
  | lih (d : BitVec 5) (x : BitVec 32) | getl (d : BitVec 5) (k : BitVec 2)
  -- copy engine: control
  | beq (o : CeBr) | beqImm (o : CeBr) | beqExt (o : CeBrX)
  | bne (o : CeBr) | bneImm (o : CeBr) | bneExt (o : CeBrX)
  | blt (o : CeBr) | bltImm (o : CeBr) | bltExt (o : CeBrX)
  | bge (o : CeBr) | bgeImm (o : CeBr) | bgeExt (o : CeBrX)
  | bltu (o : CeBr) | bltuImm (o : CeBr) | bltuExt (o : CeBrX)
  | bgeu (o : CeBr) | bgeuImm (o : CeBr) | bgeuExt (o : CeBrX)
  | jmp (off : BitVec 14) | jmpExt (x : BitVec 32)
  | loop (k : BitVec 2) (a : BitVec 5) (i : BitVec 9)
  | loopImm (k : BitVec 2) (x : BitVec 32) (i : BitVec 9)
  | endl (k : BitVec 2) (i : BitVec 9)
  -- copy engine: memory and descriptors
  | ld (o : CeMem) | ldBase (o : CeMem) | ldDisp (o : CeMem)
  | st (o : CeMem) | stBase (o : CeMem) | stDisp (o : CeMem)
  | dld (o : CeDld) | dldBase (o : CeDld) | dldDisp (o : CeDld)
  | dset (k : BitVec 3) (f a : BitVec 5) | dsetExt (k : BitVec 3) (f : BitVec 5) (x : BitVec 32)
  | addr (d a : BitVec 5) (k : BitVec 3) (chk : Bool)
  | xfer (a : BitVec 5) (sp : Bool) | xferSector (eng slot idx : Nat)
  | gsub (a : BitVec 5) (sctr : Bool)
  -- copy engine: synchronisation
  | waitx (o : Ce3) | waitxCur (d a : BitVec 5) | arrive (d a : BitVec 5) | arriveN (o : Ce3)
  | sig (a b : BitVec 5) | ceFence | halt | nop
  | ceIllegal (cause : CeCause) (w0 w1 : BitVec 32) (addr : Nat)
  -- queues of the host
  | queueDoorbell (ctx q : Nat) | queueLineTaken (ctx q : Nat) (data : List Byte)
  | bindWrite (ctx q : Nat) (val : BitVec 64) | bindClearEffect (ctx q : Nat)
  | frontEndReadLaunch (io : Nat) | frontEndReadCancel (io : Nat)
  | frontEndReadReplace (io : Nat) | frontEndReadCopy (io : Nat)
  -- Clasp
  | claspAdmit (entry : Nat) | gangPlace (entry : Nat) | gangPreempt (gang : Nat)
  | gangRestore (gang : Nat) | gangRetire (gang : Nat) | cancelTakeEffect (io : Nat)
  -- contexts, partitions, grants
  | ctxCreate (val : BitVec 64) | ctxDestroy (val : BitVec 64)
  | pmodeWrite (val : BitVec 64) | pmodeChangeComplete
  | fgGrantWrite (die : Nat) (val : BitVec 64) | fgGrantEffect (die : Nat)
  | hostTlbInvVa (ctx : Nat) | hostTlbInvCtx (ctx : Nat)
  | engcmdResume (ctx : Nat) (token : BitVec 32) | engcmdSkip (ctx : Nat) (token : BitVec 32)
  | engcmdDiscard (ctx : Nat) (token : BitVec 32)
  | dbgHoldWrite (ctx : Nat) (val : BitVec 64) | watchdogExpiry (ctx : Nat)
  | eventRecordWrite (ctx : Nat) | dieLost (die : Nat)
  -- host and peers
  | hostBar2Read (o : Bar2) | hostBar2Write (o : Bar2)
  | peerRdmaRead (o : Rdma) | peerRdmaWrite (o : Rdma) | peerRdmaAtomic (o : Rdma)
  -- bring-up, power, security
  | functionReady (bit : Nat) (trained : BitVec 64)
  | islandWrite (n : Nat) (val : BitVec 64) | islandTransitionComplete (n : Nat)
  | facetIdleGate (core : Nat) | facetWakeComplete (core : Nat) | chainTokenPass (die : Nat)
  | sgLoadFirmware | sgReadCertificates | sgAttest | pkgrst (val : BitVec 64)
  | registerWrite (o : RegWrite)
  | uncorrectableSoftError (pa : Nat)
  deriving DecidableEq, Repr, Inhabited

end Sys2Proof
end

