-- ==== Sys2Proof/Machine/Encoding.lean ====
section
/-! DEFINITION. The fields of a wave instruction's word (R123), the opcode map (R133), and for each
opcode and function the shape its entry gives: the M values, the forms, the guards, the used
fields, the register operands and the operand values that decoding checks (R124-R135). -/

namespace Sys2Proof

/-- The fields of word 0 (R123), with word 1 (zero when X = 0). -/
structure RawW where
  op : BitVec 8
  x : Bool
  w : Bool
  s : Bool
  guard : BitVec 7
  gn : Bool
  fn : BitVec 5
  d : BitVec 8
  a : BitVec 8
  b : BitVec 8
  c : BitVec 8
  m : BitVec 8
  ext : BitVec 64
  deriving DecidableEq, Repr, Inhabited

/-- One bit as a one-bit vector. -/
def bit1 (b : Bool) : BitVec 1 := if b then 1#1 else 0#1

/-- Word 0 of the fields, bit 0 of OP lowest (R123). -/
def RawW.word0 (r : RawW) : BitVec 64 :=
  r.m ++ r.c ++ r.b ++ r.a ++ r.d ++ r.fn ++ bit1 r.gn ++ r.guard ++ bit1 r.s ++ bit1 r.w
    ++ bit1 r.x ++ r.op

/-- The fields of word 0 (R123). -/
def rawOf (w0 w1 : BitVec 64) : RawW where
  op := w0.extractLsb' 0 8
  x := w0.getLsbD 8
  w := w0.getLsbD 9
  s := w0.getLsbD 10
  guard := w0.extractLsb' 11 7
  gn := w0.getLsbD 18
  fn := w0.extractLsb' 19 5
  d := w0.extractLsb' 24 8
  a := w0.extractLsb' 32 8
  b := w0.extractLsb' 40 8
  c := w0.extractLsb' 48 8
  m := w0.extractLsb' 56 8
  ext := if w0.getLsbD 8 then w1 else 0

/-- What decoding of a wave instruction depends on beside its words: the wave's `.vregs`, its
width, its privilege and whether it is in its trap handler (R135). -/
structure DecodeCtx where
  vregs : Nat
  w64 : Bool
  sup : Bool
  inTrap : Bool
  deriving DecidableEq, Repr, Inhabited

/-- A rejected word (R135, R137): UNIMPL or ILLEGAL, the DETAIL code, and the bounds of the
offending field. -/
structure DecodeTrap where
  unimpl : Bool
  detail : Nat
  flo : Nat
  fhi : Nat
  deriving DecidableEq, Repr, Inhabited

/-- The answer of a check on one field: accepted, reserved-for-minor, or illegal, with the field. -/
inductive FieldRes where
  | ok
  | unimpl (lo hi : Nat)
  | illegal (lo hi : Nat)
  deriving DecidableEq, Repr, Inhabited

/-- The fate of a value of OP (R133). -/
inductive OpFate where
  | assigned | minor | illegal
  deriving DecidableEq, Repr

/-- R133: the 256 values of OP. -/
def opFate (op : BitVec 8) : OpFate :=
  let n := op.toNat
  if n = 0x00 then .illegal
  else if n ≤ 0x0C then .assigned
  else if n ≤ 0x2F then .minor
  else if n ≤ 0x3F then .illegal
  else if n ≤ 0x46 then .assigned
  else if n ≤ 0x6F then .minor
  else if n ≤ 0x7F then .illegal
  else if n ≤ 0x8A then .assigned
  else if n ≤ 0x9D then .minor
  else if n = 0x9E then .assigned
  else if n = 0x9F then .illegal
  else if n ≤ 0xA9 then .assigned
  else if n ≤ 0xB7 then .minor
  else if n ≤ 0xBF then .illegal
  else if n ≤ 0xC4 then .assigned
  else if n ≤ 0xCD then .minor
  else if n ≤ 0xCF then .illegal
  else if n ≤ 0xD3 then .assigned
  else if n ≤ 0xDD then .minor
  else if n ≤ 0xDF then .illegal
  else if n ≤ 0xE5 then .assigned
  else if n ≤ 0xED then .minor
  else if n ≤ 0xEF then .illegal
  else if n = 0xF0 then .assigned
  else if n ≤ 0xF6 then .minor
  else if n = 0xF7 then .illegal
  else if n ≤ 0xFC then .assigned
  else if n = 0xFD then .minor
  else .illegal

/-- R133: the system opcodes. -/
def isSystemOp (op : BitVec 8) : Bool := 0xF8 ≤ op.toNat && op.toNat ≤ 0xFC

/-! ## The guard (R124) -/

/-- The guard a GUARD and GN field name, when R124 assigns the value. -/
def guardOf (g : BitVec 7) (gn : Bool) : Option Guard :=
  let n := g.toNat
  if n < 48 then some (.p (BitVec.ofNat 6 n) gn)
  else if 64 ≤ n ∧ n < 80 then some (.gp (BitVec.ofNat 4 (n - 64)) gn)
  else if n = 127 ∧ gn = false then some .always
  else none

/-- The GUARD field of a guard. -/
def Guard.sel : Guard → BitVec 7
  | .always => 127#7
  | .p n _ => BitVec.ofNat 7 n.toNat
  | .gp n _ => BitVec.ofNat 7 (64 + n.toNat)

/-- The GN field of a guard. -/
def Guard.gn : Guard → Bool
  | .always => false
  | .p _ neg => neg
  | .gp _ neg => neg

/-! ## Named readings of an operand record's fields -/

/-- TYPE, M[3:0] (R129). -/
def WOp.ty (o : WOp) : Nat := (o.m.extractLsb' 0 4).toNat
/-- SAT, M[4] (R129). -/
def WOp.sat (o : WOp) : Bool := o.m.getLsbD 4
/-- RND or the modifier bits, M[7:5] (R129). -/
def WOp.rnd (o : WOp) : Nat := (o.m.extractLsb' 5 3).toNat
/-- The 8-bit table F = FN + 32 × M[7:5] of BOOL3 and PBOOL (R155, R164). -/
def WOp.table (o : WOp) : BitVec 8 := o.m.extractLsb' 5 3 ++ o.fn
/-- OFF24, bits [63:40], as a signed count of words (R173). -/
def WOp.off24 (o : WOp) : BitVec 64 := (o.m ++ o.c ++ o.b).signExtend 64
/-- The access size in bytes (R131). -/
def WOp.sz (o : WOp) : Nat := 2 ^ (o.m.extractLsb' 0 3).toNat
/-- SGN, M[3] (R131). -/
def WOp.sgn (o : WOp) : Bool := o.m.getLsbD 3
/-- SX, M[4] (R131). -/
def WOp.sx (o : WOp) : Bool := o.m.getLsbD 4
/-- ORD, M[6:5]: 0 plain, 1 acquire, 2 release, 3 both (R131). -/
def WOp.ord (o : WOp) : Nat := (o.m.extractLsb' 5 2).toNat
/-- NA, M[7] (R131). -/
def WOp.na (o : WOp) : Bool := o.m.getLsbD 7
/-- The low 32 bits of word 1. -/
def WOp.imm32 (o : WOp) : BitVec 32 := (o.ext.getD 0).extractLsb' 0 32
/-- Word 1. -/
def WOp.imm64 (o : WOp) : BitVec 64 := o.ext.getD 0
/-- The bytes this instruction occupies: 8, or 16 with word 1 (R123). -/
def WOp.len (o : WOp) : Nat := if o.ext.isSome then 16 else 8

/-- TYPE codes that hold 64-bit elements: int64, uint64, fp64 (R147). -/
def ty64 (t : Nat) : Bool := t = 2 || t = 3 || t = 9

/-! ## Shapes -/

/-- The classes of register operand (R122, R125); the number is the size of the group. -/
inductive RegClass where
  | v (n : Nat) | g (n : Nat)
  | predAny | predLane | predGroup
  | predC (grp true127 : Bool)
  | cursor | queue | tile
  deriving DecidableEq, Repr

/-- One register operand: the field's lowest bit, its value, the class its entry gives. -/
structure RegUse where
  lo : Nat
  val : BitVec 8
  cls : RegClass
  deriving DecidableEq, Repr

/-- R122, R125: does the field name a register of the class? -/
def RegUse.valid (vregs : Nat) (u : RegUse) : Bool :=
  let n := u.val.toNat
  match u.cls with
  | .v k => n % k = 0 && n + k ≤ vregs
  | .g k => n % k = 0 && n + k ≤ 64
  | .predAny => n < 48 || (64 ≤ n && n < 80)
  | .predLane => n < 48
  | .predGroup => 64 ≤ n && n < 80
  | .predC grp t127 =>
    let p := n % 128
    (t127 && p = 127) || (64 ≤ p && p < 80) || (!grp && p < 48)
  | .cursor => n < 16
  | .queue => n < 16
  | .tile => n < 2

/-- What an entry gives for one OP and FN. -/
structure Shape where
  build : WOp → Instr
  mOk : RawW → FieldRes
  forms : RawW → Bool
  only127 : Bool := false
  trapIll : Bool := false
  useD : RawW → Bool := fun _ => true
  useA : RawW → Bool := fun _ => true
  useB : RawW → Bool := fun _ => true
  useC : RawW → Bool := fun _ => true
  extMask : RawW → BitVec 64 := fun _ => 0
  regs : RawW → List RegUse
  stat : DecodeCtx → RawW → FieldRes := fun _ _ => .ok

def yes (_ : RawW) : Bool := true
def no (_ : RawW) : Bool := false

/-- TYPE of a raw word. -/
def RawW.ty (r : RawW) : Nat := (r.m.extractLsb' 0 4).toNat

/-- The group of registers one value of TYPE takes: a pair of V for 64-bit elements (R122, R147),
one G register in the group-wide form. -/
def RawW.val (r : RawW) (w64 : Bool) : RegClass :=
  if r.w then .g 1 else if w64 then .v 2 else .v 1

def RawW.useOf (r : RawW) (c : RegClass) : RegUse := ⟨24, r.d, c⟩
def RawW.useA (r : RawW) (c : RegClass) : RegUse := ⟨32, r.a, c⟩
def RawW.useB (r : RawW) (c : RegClass) : RegUse := ⟨40, r.b, c⟩
def RawW.useC (r : RawW) (c : RegClass) : RegUse := ⟨48, r.c, c⟩

/-- M is zero. -/
def mZero (r : RawW) : FieldRes := if r.m = 0 then .ok else .illegal 56 63

/-- M has no bit outside a mask. -/
def mMask (mask : BitVec 8) (r : RawW) : FieldRes :=
  if r.m &&& ~~~mask = 0 then .ok else .illegal 56 63

/-- M under R129: the accepted TYPEs, where SAT is offered, and which values of M[7:5] are. M[7:5] is RND
for the floating types alone (log 86). -/
def mArith (types : List Nat) (rounds : Bool) (ok : Nat → Bool → Nat → Bool) (r : RawW) :
    FieldRes :=
  let md := (r.m.extractLsb' 5 3).toNat
  if 12 ≤ r.ty then .unimpl 56 63
  else if rounds && 8 ≤ r.ty && 5 ≤ md then .unimpl 56 63
  else if types.contains r.ty && ok r.ty (r.m.getLsbD 4) md then .ok
  else .illegal 56 63

def formsPlain (r : RawW) : Bool := !r.x && !r.s
def formsSX (r : RawW) : Bool := (!r.x && !r.s) || (!r.w && r.s && !r.x) || (r.x && !r.s)
def formsS (r : RawW) : Bool := (!r.x && !r.s) || (!r.w && r.s && !r.x)
def formsG (r : RawW) : Bool := !r.x && r.w && !r.s
def formsGX (r : RawW) : Bool := r.w && !r.s
def formsV (r : RawW) : Bool := !r.x && !r.w && !r.s
def formsMem (r : RawW) : Bool := !r.w
def formsLdc (r : RawW) : Bool := !(r.w && r.s)

/-- Operand B of an arithmetic form: a register of the type, a broadcast G register (S), or the
immediate of word 1 (X), when the field is zero (R126, R127). -/
def RawW.srcB (r : RawW) (w64 : Bool) : List RegUse :=
  if r.x then [] else if r.s then [r.useB (.g 1)] else [r.useB (r.val w64)]

/-- The bits of word 1 an arithmetic immediate uses (R127). -/
def immMask (w64 : Bool) : BitVec 64 :=
  if w64 then 0xFFFFFFFFFFFFFFFF#64 else 0xFFFFFFFF#64

/-- d, a, b of one type (R148). -/
def shAB (mk : WOp → Instr) (m : RawW → FieldRes) : Shape where
  build := mk
  mOk := m
  forms := formsSX
  useB := fun r => !r.x
  useC := fun _ => false
  extMask := fun r => immMask (ty64 r.ty)
  regs := fun r => [r.useOf (r.val (ty64 r.ty)), r.useA (r.val (ty64 r.ty))] ++ r.srcB (ty64 r.ty)

/-- d, a, b, c of one type (R148). -/
def shABC (mk : WOp → Instr) (m : RawW → FieldRes) : Shape where
  build := mk
  mOk := m
  forms := formsSX
  useB := fun r => !r.x
  extMask := fun r => immMask (ty64 r.ty)
  regs := fun r => [r.useOf (r.val (ty64 r.ty)), r.useA (r.val (ty64 r.ty))] ++ r.srcB (ty64 r.ty)
    ++ [r.useC (r.val (ty64 r.ty))]

/-- d, a of one type (R148). -/
def shA (mk : WOp → Instr) (m : RawW → FieldRes) : Shape where
  build := mk
  mOk := m
  forms := formsPlain
  useB := fun _ => false
  useC := fun _ => false
  regs := fun r => [r.useOf (r.val (ty64 r.ty)), r.useA (r.val (ty64 r.ty))]

def tyInt : List Nat := [0, 1, 2, 3, 4, 5, 6, 7]
def tyWord : List Nat := [0, 1, 2, 3]
def tyFloat : List Nat := [8, 9, 10, 11]

def okNone (_ : Nat) (sat : Bool) (md : Nat) : Bool := !sat && md = 0
def okSat (_ : Nat) (_ : Bool) (md : Nat) : Bool := md = 0
def okRnd (_ : Nat) (sat : Bool) (md : Nat) : Bool := !sat && md ≤ 4
def okAnyMod (_ : Nat) (sat : Bool) (_ : Nat) : Bool := !sat
/-- IMUL: `.hi` (M[5]) on types 0-3 only, and no SAT with it (R148). -/
def okImul (t : Nat) (sat : Bool) (md : Nat) : Bool := md = 0 || (md = 1 && t ≤ 3 && !sat)
/-- IMAD: `.wide` (M[6]) on types 0-1 only, and no SAT with it (R148). -/
def okImad (t : Nat) (sat : Bool) (md : Nat) : Bool := md = 0 || (md = 2 && t ≤ 1 && !sat)
/-- SHF: `.l` (M[5]) and the amount bit (M[6]) (R148). -/
def okShf (_ : Nat) (sat : Bool) (md : Nat) : Bool := !sat && md ≤ 3
/-- IDP4, IDP2: SAT and `.mixb` (M[5]) (R148). -/
def okIdp (_ : Nat) (_ : Bool) (md : Nat) : Bool := md ≤ 1

/-- IMAD, whose `.wide` form names C and D as 64-bit groups (R152). -/
def shImad : Shape where
  build := .imad
  mOk := mArith tyWord false okImad
  forms := formsSX
  useB := fun r => !r.x
  extMask := fun r => immMask (ty64 r.ty)
  regs := fun r =>
    let t := ty64 r.ty
    let wide := t || r.m.getLsbD 6
    [r.useOf (r.val wide), r.useA (r.val t)] ++ r.srcB t ++ [r.useC (r.val wide)]

/-- SHF: C is a register, or the amount itself when M[6] = 1 (R157). -/
def shShf : Shape where
  build := .shf
  mOk := mArith tyWord false okShf
  forms := formsSX
  useB := fun r => !r.x
  extMask := fun r => immMask (ty64 r.ty)
  regs := fun r =>
    let t := ty64 r.ty
    [r.useOf (r.val t), r.useA (r.val t)] ++ r.srcB t
      ++ (if r.m.getLsbD 6 then [] else [r.useC (r.val t)])

/-- MOV d, b (R160). -/
def shMov : Shape where
  build := .mov
  mOk := mArith [0, 1, 2, 3, 4, 5, 6, 7, 8, 9, 10, 11] false okNone
  forms := formsS
  useA := fun _ => false
  useC := fun _ => false
  regs := fun r => [r.useOf (r.val (ty64 r.ty))] ++ r.srcB (ty64 r.ty)

/-- MOVI d, imm: word 1, or the C field for types 0-3 (R148, R160). -/
def shMovi : Shape where
  build := .movi
  mOk := mArith [0, 1, 2, 3, 4, 5, 6, 7, 8, 9, 10, 11] false okNone
  forms := fun r => !r.s && (r.x || r.ty ≤ 3)
  useA := fun _ => false
  useB := fun _ => false
  useC := fun r => !r.x
  extMask := fun r => immMask (ty64 r.ty)
  regs := fun r => [r.useOf (r.val (ty64 r.ty))]

/-- SEL d, a, b, pc (R161). -/
def shSel : Shape where
  build := .sel
  mOk := mArith [0, 1, 2, 3, 4, 5, 6, 7, 8, 9, 10, 11] false okNone
  forms := formsSX
  useB := fun r => !r.x
  extMask := fun r => immMask (ty64 r.ty)
  regs := fun r =>
    let t := ty64 r.ty
    [r.useOf (r.val t), r.useA (r.val t)] ++ r.srcB t ++ [r.useC (.predC r.w false)]

/-- A predicate destination: P in the vector form, GP in the group-wide form (R147). -/
def RawW.predDst (r : RawW) : RegClass := if r.w then .predGroup else .predLane
/-- A predicate source: P or GP in the vector form, GP in the group-wide form (R147). -/
def RawW.predSrc (r : RawW) : RegClass := if r.w then .predGroup else .predAny

/-- ICMP and FCMP (R162). -/
def shCmp (mk : WOp → Instr) (types : List Nat) : Shape where
  build := mk
  mOk := mArith types false okNone
  forms := formsSX
  useB := fun r => !r.x
  extMask := fun r => immMask (ty64 r.ty)
  regs := fun r =>
    let t := ty64 r.ty
    [r.useOf r.predDst, r.useA (r.val t)] ++ r.srcB t ++ [r.useC (.predC r.w true)]

/-- PBOOL (R164). -/
def shPbool : Shape where
  build := .pbool
  mOk := mArith [0] false okAnyMod
  forms := formsPlain
  regs := fun r => [r.useOf r.predDst, r.useA r.predSrc, r.useB r.predSrc, r.useC r.predSrc]

/-- IDP4 and IDP2 (R165). -/
def shIdp (mk : WOp → Instr) (types : List Nat) : Shape :=
  shABC mk (mArith types false okIdp)

/-- Is the format code one of the floats 6-11 (R87)? -/
def fmtFloat (f : Nat) : Bool := 6 ≤ f && f ≤ 11
/-- Bits of an element of a format (R53, R54, R64). -/
def fmtBits (f : Nat) : Nat :=
  match f with
  | 0 => 4 | 1 => 8 | 2 => 8 | 3 => 16 | 4 => 32 | 5 => 64
  | 6 => 8 | 7 => 8 | 8 => 16 | 9 => 16 | 10 => 32 | 11 => 64 | _ => 32

/-- The format pairs CVT accepts (R171). -/
def cvtPair (dst src : Nat) : Bool :=
  dst != src && ((dst ≤ 11 && src ≤ 11) || (dst = 12 && src = 4) || (dst = 4 && src = 12))

/-- Rows of R171 whose FN[2:0] may only be 0. -/
def cvtNoRnd (dst src : Nat) : Bool :=
  (dst ≤ 5 && src ≤ 5) || dst = 12 || src = 12

/-- M of CVT: the destination and source codes (R130, R171). With both codes reserved the trap record
names the destination's field (log 96). -/
def mCvt (r : RawW) : FieldRes :=
  let dst := (r.m.extractLsb' 0 4).toNat
  let src := (r.m.extractLsb' 4 4).toNat
  if 13 ≤ dst then .unimpl 56 59
  else if 13 ≤ src then .unimpl 60 63
  else if cvtPair dst src then .ok
  else .illegal 56 63

/-- CVT (R130, R170). -/
def shCvt : Shape where
  build := .cvt
  mOk := mCvt
  forms := formsPlain
  useB := fun _ => false
  useC := fun _ => false
  regs := fun r => [r.useOf (r.val (fmtBits (r.m.extractLsb' 0 4).toNat = 64)),
    r.useA (r.val (fmtBits (r.m.extractLsb' 4 4).toNat = 64))]

/-! ### Control and lanes -/

def mAny (_ : RawW) : FieldRes := .ok

/-- A control instruction of OP 0x80-0x86 (R174). -/
def shCtl (mk : WOp → Instr) (forms : RawW → Bool) (off d a c only127 : Bool) : Shape where
  build := mk
  mOk := if off then mAny else mZero
  forms := forms
  only127 := only127
  useD := fun _ => d
  useA := fun _ => a
  useB := fun _ => off
  useC := fun _ => off || c
  regs := fun r => (if d then [r.useOf (.g 1)] else []) ++ (if a then [r.useA (.g 1)] else [])

/-- YIELD and END in supervisor mode are ILLEGAL with DETAIL 8 (R175). -/
def userOnly (cx : DecodeCtx) (_ : RawW) : FieldRes :=
  if cx.sup then .illegal 0 7 else .ok

/-- G[A], or word 1 with X = 1 (R139, R174). -/
def shSetter (mk : WOp → Instr) (mask : BitVec 64) : Shape where
  build := mk
  mOk := mZero
  forms := formsGX
  useD := fun _ => false
  useA := fun r => !r.x
  useB := fun _ => false
  useC := fun _ => false
  extMask := fun _ => mask
  regs := fun r => if r.x then [] else [r.useA (.g 1)]

/-- G[D] := a wave register (R139, R174). -/
def shGetter (mk : WOp → Instr) : Shape where
  build := mk
  mOk := mZero
  forms := formsG
  useA := fun _ => false
  useB := fun _ => false
  useC := fun _ => false
  regs := fun r => [r.useOf (.g 1)]

/-- M of a cross-lane move: M[3:0] is 0x0 or 0x2, and M[4] where the lane operand is offered
(R185, R186). -/
def mLane (lane : Bool) (r : RawW) : FieldRes :=
  if (r.ty = 0 || r.ty = 2) && (r.m.extractLsb' 5 3) = 0 && (lane || !r.m.getLsbD 4) then .ok
  else .illegal 56 63

/-- V group of a lane operand (R185). -/
def RawW.laneV (r : RawW) : RegClass := if r.ty = 2 then .v 2 else .v 1

/-- A lane number in C must lie below the width (R186). -/
def laneStat (cx : DecodeCtx) (r : RawW) : FieldRes :=
  if !r.m.getLsbD 4 && (if cx.w64 then 64 else 32) ≤ r.c.toNat then .illegal 48 55 else .ok

/-- RDLANE, WRLANE, BCAST (R186). -/
def shLane (mk : WOp → Instr) (forms : RawW → Bool) (dG aG trapIll : Bool) : Shape where
  build := mk
  mOk := mLane true
  forms := forms
  trapIll := trapIll
  useB := fun r => r.m.getLsbD 4
  useC := fun r => !r.m.getLsbD 4
  regs := fun r => [r.useOf (if dG then .g 1 else r.laneV), r.useA (if aG then .g 1 else r.laneV)]
    ++ (if r.m.getLsbD 4 then [r.useB (.g 1)] else [])
  stat := laneStat

/-- RDFIRST (R186). -/
def shRdfirst : Shape where
  build := .rdfirst
  mOk := mLane false
  forms := formsG
  trapIll := true
  useB := fun _ => false
  useC := fun _ => false
  regs := fun r => [r.useOf (.g 1), r.useA r.laneV]

/-- LPERM: the lane numbers are one register of 32-bit numbers, a G register, or word 1
(R186, R188). -/
def shLperm : Shape where
  build := .lperm
  mOk := mLane false
  forms := fun r => !r.w && !(r.x && r.s)
  trapIll := true
  useB := fun r => !r.x
  useC := fun _ => false
  extMask := fun _ => 0xFFFFFFFF#64
  regs := fun r => [r.useOf r.laneV, r.useA r.laneV]
    ++ (if r.x then [] else if r.s then [r.useB (.g 1)] else [r.useB (.v 1)])

/-- POLL (R186). -/
def shPoll (dst : RegClass) : Shape where
  build := .poll
  mOk := mZero
  forms := formsG
  trapIll := true
  useB := fun _ => false
  useC := fun _ => false
  regs := fun r => [r.useOf dst, r.useA .predAny]

/-- M of LRED (R190): the operation by FN, 4 `.add` to 9 `.xor`. -/
def mLred (r : RawW) : FieldRes :=
  let md := (r.m.extractLsb' 5 3).toNat
  let isF := r.ty = 8 || r.ty = 9
  let sat := r.m.getLsbD 4
  let add := r.fn.toNat = 4
  if 12 ≤ r.ty then .unimpl 56 63
  else if 8 ≤ r.ty && add && 5 ≤ md then .unimpl 56 63
  else if !(r.ty ≤ 3 || isF) then .illegal 56 63
  else if isF && 7 ≤ r.fn.toNat then .illegal 56 63
  else if sat && !(add && !isF) then .illegal 56 63
  else if md != 0 && !(add && isF) then .illegal 56 63
  else .ok

/-- LRED (R186, R190). -/
def shLred : Shape where
  build := .lred
  mOk := mLred
  forms := formsG
  trapIll := true
  useB := fun _ => false
  useC := fun _ => false
  regs := fun r => [r.useOf (.g 1), r.useA (if ty64 r.ty then .v 2 else .v 1)]

def shSameMask : Shape where
  build := .sameMask
  mOk := mLane false
  forms := formsV
  trapIll := true
  useB := fun _ => false
  useC := fun _ => false
  regs := fun r => [r.useOf (.v 2), r.useA r.laneV]

def shSameAll : Shape where
  build := .sameAll
  mOk := mLane false
  forms := formsG
  trapIll := true
  useB := fun _ => false
  useC := fun _ => false
  regs := fun r => [r.useOf .predGroup, r.useA r.laneV]

/-! ### GETID and GETCAP (R20-R25) -/

/-- Selectors of GETID marked 64-bit (R23). -/
def idSel64 (n : Nat) : Bool := (0x0D ≤ n && n ≤ 0x10) || n = 0x14

def idStat (cap : Bool) (_ : DecodeCtx) (r : RawW) : FieldRes :=
  let n := r.c.toNat
  if 0x80 ≤ n then .illegal 48 55
  else if !cap && n = 0 && r.w then .illegal 48 55
  else if (!cap && 0x16 ≤ n) || (cap && 0x1C ≤ n) then .unimpl 48 55
  else .ok

def shId (mk : WOp → Instr) (cap : Bool) : Shape where
  build := mk
  mOk := mZero
  forms := formsPlain
  useA := fun _ => false
  useB := fun _ => false
  regs := fun r => [r.useOf (r.val (!cap && idSel64 r.c.toNat))]
  stat := idStat cap

/-! ### Memory (R131, R192, R193) -/

/-- M of a memory instruction: accepted ORD values, whether SX and NA may be 1, and whether the
size is checked per operation instead (R192). -/
def mMem (ords : List Nat) (sx na : Bool) (sizes : List Nat) (r : RawW) : FieldRes :=
  let sz := (r.m.extractLsb' 0 3).toNat
  if 5 ≤ sz then .unimpl 56 63
  else if !(ords.contains (r.m.extractLsb' 5 2).toNat) then .illegal 56 63
  else if r.m.getLsbD 4 && !(sx && sz ≤ 1) then .illegal 56 63
  else if r.m.getLsbD 7 && !na then .illegal 56 63
  else if !(sizes.contains sz) then .illegal 56 63
  else .ok

/-- The V group a size takes (R193). -/
def sizeV (sz : Nat) : RegClass := if sz = 4 then .v 4 else if sz = 3 then .v 2 else .v 1

/-- Base, offset: A is a G register; B is a V register, or a G register when S = 1 or W = 1. -/
def RawW.memRegs (r : RawW) : List RegUse :=
  [r.useA (.g 1), r.useB (if r.s || r.w then .g 1 else .v 1)]

def RawW.szc (r : RawW) : Nat := (r.m.extractLsb' 0 3).toNat

def shMem (mk : WOp → Instr) (m : RawW → FieldRes) (dst : RawW → List RegUse) : Shape where
  build := mk
  mOk := m
  forms := formsMem
  useC := fun r => !r.x
  extMask := fun _ => 0xFFFFFFFF#64
  regs := fun r => dst r ++ r.memRegs

def allSizes : List Nat := [0, 1, 2, 3, 4]

/-- Size codes of an atomic operation (R198). -/
def atomSizes (op : Nat) : List Nat :=
  if op ≤ 1 then [2, 3, 4] else if op = 11 || op = 12 then [2] else [2, 3]

/-- The V group of an ATG or ATS (R199); `.cas` with a size that R198 does not list takes a pair (log 127). -/
def atomGroup (op sz : Nat) : RegClass :=
  if op = 1 then (if sz = 4 then .v 8 else if sz = 3 then .v 4 else .v 2) else sizeV sz

def atomStat (op : Nat) (_ : DecodeCtx) (r : RawW) : FieldRes :=
  if (atomSizes op).contains r.szc then .ok else .illegal 56 58

def shAtom (mk : WOp → Instr) (op : Nat) : Shape :=
  { shMem mk (mMem [0, 1, 2, 3] false false allSizes)
      (fun r => [r.useOf (atomGroup op r.szc)]) with stat := atomStat op }

/-- REDG (R201, R202): data as R193 gives it, also at a size that R198 does not list (log 127); a quad with
`.redir`. -/
def shRed (mk : WOp → Instr) (op : Nat) (redir : Bool) : Shape :=
  { shMem mk (mMem [0, 2] false false allSizes)
      (fun r => [r.useOf (if redir then .v 4 else sizeV r.szc)])
    with stat := atomStat op }

def shPref : Shape :=
  { shMem .pref (mMem [0] false false allSizes) (fun _ => []) with useD := no }

def shLdc : Shape :=
  { shMem .ldc (mMem [0] true false allSizes)
      (fun r => [r.useOf (if r.w then (if r.szc = 4 then .g 2 else .g 1) else sizeV r.szc)])
    with forms := formsLdc }

/-! ### Group-wide instructions of 0xA9, 0xC0-0xC4, 0xD0-0xD3, 0xF0, 0xF8-0xFC -/

/-- A group-wide instruction with the fields its entry uses (R205). -/
def shGrp (mk : WOp → Instr) (m : RawW → FieldRes) (regs : RawW → List RegUse)
    (d a : Bool) (b c : RawW → Bool) : Shape where
  build := mk
  mOk := m
  forms := formsG
  useD := fun _ => d
  useA := fun _ => a
  useB := b
  useC := c
  regs := regs


/-- The group a queue entry takes (R207). -/
def RawW.entry (r : RawW) : RegClass :=
  let big := r.m.getLsbD 0
  if r.w then (if big then .g 2 else .g 1) else (if big then .v 4 else .v 2)

def shQueue (mk : WOp → Instr) (regs : RawW → List RegUse) (d a c : Bool) : Shape where
  build := mk
  mOk := mMask 1
  forms := formsPlain
  useD := fun _ => d
  useA := fun _ => a
  useC := fun _ => c
  regs := regs

/-- The cursor operand: a C register in the wave form, a V quad in the lane form (R241). -/
def RawW.cur (r : RawW) : RegClass := if r.w then .cursor else .v 4

def shCur (mk : WOp → Instr) (m : RawW → FieldRes) (regs : RawW → List RegUse)
    (d : Bool) (a : RawW → Bool) (b c : Bool) : Shape where
  build := mk
  mOk := m
  forms := formsPlain
  useD := fun _ => d
  useA := a
  useB := fun _ => b
  useC := fun _ => c
  regs := regs

/-- M of CUR.GET: `.raw` with `.addr` is ILLEGAL (R241). -/
def mCurGet (r : RawW) : FieldRes :=
  if r.m &&& ~~~3#8 = 0 && r.m != 3 then .ok else .illegal 56 63

/-- M of CUR.COIT: M[0] `.union`, M[7:4] the GP of the wave form (R241). -/
def mCoit (r : RawW) : FieldRes :=
  if r.m &&& 0x0E#8 = 0 && (r.w || r.m.extractLsb' 4 4 = 0) then .ok else .illegal 56 63

/-- M of APP.PUT: the zero test (7 reserved-for-minor) and `.fib` (R255). -/
def mAppPut (r : RawW) : FieldRes :=
  if r.m.extractLsb' 0 3 = 7 then .unimpl 56 63
  else if r.m &&& ~~~0x0F#8 = 0 then .ok else .illegal 56 63

/-- M of VLD and VST: M[1:0] below 3 (R258). -/
def mVol (r : RawW) : FieldRes := if r.m.toNat < 3 then .ok else .illegal 56 63

def RawW.volGroup (r : RawW) : RegClass :=
  if r.m = 2 then .v 4 else if r.m = 1 then .v 2 else .v 1

/-- M of SYSRD and SYSWR: M[3:0] SRN[11:8], M[4] indexed, M[7:5] zero (R317). -/
def mSys (r : RawW) : FieldRes := if r.m &&& 0xE0#8 = 0 then .ok else .illegal 56 63

/-- What decoding finds for OP and FN (R134). -/
inductive FnRes where
  | shape (s : Shape)
  | minor
  | illegal

/-- FN of CVT: a row that allows rounding 0 only refuses the rest (R171); elsewhere rounding FN[2:0] of
5-7 is reserved-for-minor, and FN[4] is zero (R130). A word that breaks both is reserved-for-minor
(log 96). -/
def cvtFn (fn : BitVec 5) (m : BitVec 8) : FnRes :=
  let rnd := (fn.extractLsb' 0 3).toNat
  let dst := (m.extractLsb' 0 4).toNat
  let src := (m.extractLsb' 4 4).toNat
  if rnd != 0 && cvtPair dst src && cvtNoRnd dst src then .illegal
  else if 5 ≤ rnd then .minor
  else if fn.getLsbD 4 then .illegal
  else .shape shCvt

/-- The shape of each OP and FN (R133, R134, R148, R174, R186, R192, R198, R203, R207, R230, R241,
R258, R262, R264, R317, R350, R354, R361). An out-of-range word-1 immediate of `BAR.INIT` or `BAR.EXP` names the
whole of word 1, 64-127, as the bits that hold the value (R137; log 134). -/
def shapeOf (op : BitVec 8) (fn : BitVec 5) (m : BitVec 8) : FnRes :=
  let f := fn.toNat
  match op.toNat with
  | 0x01 =>
    if f = 0 then .shape (shAB .iadd (mArith tyInt false okSat))
    else if f = 1 then .shape (shAB .isub (mArith tyInt false okSat))
    else if f = 2 then .shape (shA .ineg (mArith tyInt false okSat))
    else if f = 3 then .shape (shA .iabs (mArith [0, 2, 4, 6] false okSat))
    else .minor
  | 0x02 =>
    if f = 0 then .shape (shAB .imul (mArith [0, 1, 2, 3, 4, 5] false okImul))
    else if f = 1 then .shape shImad else .minor
  | 0x03 =>
    if f = 0 then .shape (shAB .imin (mArith tyInt false okNone))
    else if f = 1 then .shape (shAB .imax (mArith tyInt false okNone)) else .minor
  | 0x04 =>
    if f = 0 then .shape (shAB .and (mArith tyWord false okNone))
    else if f = 1 then .shape (shAB .or (mArith tyWord false okNone))
    else if f = 2 then .shape (shAB .xor (mArith tyWord false okNone))
    else if f = 3 then .shape (shA .not (mArith tyWord false okNone))
    else if f = 4 then .shape (shAB .andn (mArith tyWord false okNone)) else .minor
  | 0x05 => .shape (shABC .bool3 (mArith tyWord false okAnyMod))
  | 0x06 =>
    if f = 0 then .shape (shAB .shl (mArith tyWord false okNone))
    else if f = 1 then .shape (shAB .shr (mArith tyWord false okNone))
    else if f = 2 then .shape (shAB .sar (mArith tyWord false okNone))
    else if f = 3 then .shape shShf else .minor
  | 0x07 =>
    if f = 0 then .shape (shAB .bfe (mArith tyWord false okNone))
    else if f = 1 then .shape (shABC .bfi (mArith tyWord false okNone))
    else if f = 2 then .shape (shA .popc (mArith tyWord false okNone))
    else if f = 3 then .shape (shA .clz (mArith tyWord false okNone))
    else if f = 4 then .shape (shA .brev (mArith tyWord false okNone)) else .minor
  | 0x08 => if f = 0 then .shape shMov else if f = 1 then .shape shMovi else .minor
  | 0x09 => if f = 0 then .shape shSel else .minor
  | 0x0A => if f % 16 < 6 then .shape (shCmp .icmp tyWord) else .minor
  | 0x0B => .shape shPbool
  | 0x0C =>
    if f = 0 then .shape (shIdp .idp4 [6, 7])
    else if f = 1 then .shape (shIdp .idp2 [4, 5]) else .minor
  | 0x40 =>
    if f = 0 then .shape (shAB .fadd (mArith tyFloat true okRnd))
    else if f = 1 then .shape (shAB .fsub (mArith tyFloat true okRnd))
    else if f = 2 then .shape (shAB .fmul (mArith tyFloat true okRnd)) else .minor
  | 0x41 => if f = 0 then .shape (shABC .ffma (mArith tyFloat true okRnd)) else .minor
  | 0x42 =>
    if f = 0 then .shape (shAB .fmin (mArith tyFloat false okNone))
    else if f = 1 then .shape (shAB .fmax (mArith tyFloat false okNone)) else .minor
  | 0x43 => if f % 16 < 14 then .shape (shCmp .fcmp [8, 9]) else .minor
  | 0x44 =>
    if f = 0 then .shape (shA .frcp (mArith [8] true okRnd))
    else if f = 1 then .shape (shA .frsq (mArith [8] true okRnd))
    else if f = 2 then .shape (shA .fsqrt (mArith [8, 9] true okRnd))
    else if f = 3 then .shape (shAB .fdiv (mArith [8, 9] true okRnd))
    else if f = 4 then .shape (shA .fexp2 (mArith [8] true okRnd))
    else if f = 5 then .shape (shA .flog2 (mArith [8] true okRnd)) else .minor
  | 0x45 => cvtFn fn m
  | 0x46 =>
    if f = 0 then .shape (shA .fneg (mArith tyFloat false okNone))
    else if f = 1 then .shape (shA .fabs (mArith tyFloat false okNone)) else .minor
  | 0x80 =>
    if f = 0 then .shape (shCtl .bra formsPlain true false false false false)
    else if f = 1 then .shape (shCtl .braIndirect formsPlain false false true false false)
    else .minor
  | 0x81 =>
    if f = 0 then .shape { shCtl .call formsG true true false false false with useA := no }
    else if f = 1 then .shape (shCtl .callIndirect formsG false true true false false)
    else if f = 2 then .shape (shCtl .ret formsG false false true false false) else .minor
  | 0x82 =>
    if f = 0 then .shape (shCtl .cvgPush formsG true false false false true)
    else if f = 1 then .shape (shCtl .cvgJoin formsG false false false false true) else .minor
  | 0x83 =>
    if f = 0 then .shape (shGetter .exmGet)
    else if f = 1 then .shape (shSetter .exmSet 0xFFFFFFFFFFFFFFFF#64) else .minor
  | 0x84 =>
    if f = 0 then .shape { shCtl .yield formsG true true true false true with stat := userOnly }
    else .minor
  | 0x85 =>
    if f = 0 then .shape { shCtl .end_ formsPlain false false false false false with stat := userOnly }
    else .minor
  | 0x86 =>
    if f = 0 then .shape (shCtl .trap formsG false false false true false) else .minor
  | 0x87 =>
    if f = 0 then .shape shRdfirst
    else if f = 1 then .shape (shLane .rdlane formsG true false false)
    else if f = 2 then .shape (shLane .wrlane formsG false true false)
    else if f = 3 then .shape (shLane .bcast formsV false false true) else .minor
  | 0x88 => if f ≤ 3 then .shape shLperm else .minor
  | 0x89 =>
    if f = 0 || f = 1 || f = 3 then .shape (shPoll .predGroup)
    else if f = 2 then .shape (shPoll (.g 1))
    else if f ≤ 9 then .shape shLred
    else if f = 10 then .shape shSameMask
    else if f = 11 then .shape shSameAll else .minor
  | 0x8A =>
    if f = 0 then .shape (shGetter .getmode)
    else if f = 1 then .shape (shSetter .setmode 0xFFFFFFFF#64)
    else if f = 2 then .shape (shGetter .getflags)
    else if f = 3 then .shape (shSetter .setflags 0xFFFFFFFF#64)
    else if f = 4 then .shape (shSetter .clrflags 0xFFFFFFFF#64) else .minor
  | 0x9E =>
    if f = 0 then .shape (shId .getid false)
    else if f = 1 then .shape (shId .getcap true) else .minor
  | 0xA0 =>
    if f = 0 then .shape (shMem .ldg (mMem [0, 1] true true allSizes)
      (fun r => [r.useOf (sizeV r.szc)])) else .minor
  | 0xA1 =>
    if f = 0 then .shape (shMem .stg (mMem [0, 2] false false allSizes)
      (fun r => [r.useOf (sizeV r.szc)])) else .minor
  | 0xA2 => if f ≤ 14 then .shape (shAtom .atg f) else .minor
  | 0xA3 =>
    if f % 16 ≤ 1 then .illegal
    else if f % 16 = 15 then .minor
    else if f < 16 then .shape (shRed .redg f false)
    else .shape (shRed .redgRedir (f - 16) true)
  | 0xA4 => if f ≤ 1 then .shape shPref else .minor
  | 0xA5 =>
    if f = 0 then .shape (shMem .lds (mMem [0, 1] true false allSizes)
      (fun r => [r.useOf (sizeV r.szc)])) else .minor
  | 0xA6 =>
    if f = 0 then .shape (shMem .sts (mMem [0, 2] false false allSizes)
      (fun r => [r.useOf (sizeV r.szc)])) else .minor
  | 0xA7 => if f ≤ 14 then .shape (shAtom .ats f) else .minor
  | 0xA8 => if f = 0 then .shape shLdc else .minor
  | 0xA9 =>
    if f = 0 then .shape (shGrp .fenceRel mZero (fun _ => []) false false no no)
    else if f = 1 then .shape (shGrp .fenceAcq mZero (fun _ => []) false false no no)
    else if f = 2 then .shape (shGrp .fenceAr mZero (fun _ => []) false false no no)
    else if f = 3 then .shape (shGrp .icinv mZero (fun _ => []) false false no no) else .minor
  | 0xC0 =>
    if f = 0 then .shape (shGrp .qbind mZero (fun r => [r.useOf .queue, r.useA (.g 1)]) true true no no)
    else if f = 1 then .shape (shGrp .qbindInit mZero
      (fun r => [r.useOf .queue, r.useA (.g 1), r.useB (.g 1)]) true true yes no)
    else if f = 2 then .shape (shQueue .qpush (fun r => [r.useA r.entry, r.useB .queue]) false true false)
    else if f = 3 then .shape (shQueue .qpop (fun r => [r.useOf r.entry, r.useB .queue]) true false false)
    else if f = 4 then .shape (shQueue .qtry
      (fun r => [r.useOf r.entry, r.useB .queue, r.useC r.predDst]) true false true)
    else if f = 5 then .shape (shGrp .qstat mZero (fun r => [r.useOf (.g 1), r.useB .queue]) true false yes no)
    else .minor
  | 0xC1 =>
    if f = 0 then .shape { shGrp .barInit mZero
        (fun r => r.useA (.g 1) :: (if r.x then [] else [r.useB (.g 1)])) false true
        (fun r => !r.x) no with
        forms := formsGX
        extMask := fun _ => 0xFFFFFFFFFFFFFFFF#64
        stat := fun _ r => if r.x && (r.ext = 0 || 0x10000#64 ≤ r.ext) then .illegal 64 127 else .ok }
    else if f = 1 then .shape (shGrp .barArr (mMask 1)
      (fun r => [r.useOf (.g 1), r.useA (.g 1)] ++ (if r.m = 1 then [r.useB (.g 1)] else []))
      true true (fun r => r.m = 1) no)
    else if f = 2 then .shape (shGrp .barWait (mMask 1)
      (fun r => [r.useOf (.g 1), r.useA (.g 1)] ++ (if r.m = 1 then [] else [r.useB (.g 1)]))
      true true (fun r => r.m != 1) no)
    else if f = 3 then .shape { shGrp .barExp (fun r => if r.m.toNat < 3 then .ok else .illegal 56 63)
        (fun r => r.useA (.g 1) :: (if r.x then [] else [r.useB (.g 1)])) false true
        (fun r => !r.x) no with
        forms := formsGX
        extMask := fun _ => 0xFFFFFFFFFFFFFFFF#64
        stat := fun _ r =>
          if r.x && (if r.m = 2 then 0x10000#64 else 0x1000000#64) ≤ r.ext then .illegal 64 127 else .ok }
    else .minor
  | 0xC2 =>
    if f = 0 then .shape (shGrp .ceStart mZero (fun r => [r.useOf (.g 1), r.useA (.g 8)]) true true no no)
    else if f = 1 then .shape (shGrp .ceWait mZero (fun r => [r.useOf (.g 1), r.useA (.g 1)]) true true no no)
    else .minor
  | 0xC3 =>
    if f = 0 then .shape (shGrp .gthr mZero (fun r => [r.useA (.g 1)]) false true no no)
    else if f = 1 then .shape (shGrp .sctr mZero (fun r => [r.useA (.g 1)]) false true no no)
    else .minor
  | 0xC4 =>
    if f = 0 then .shape (shGrp .launch mZero (fun r => [r.useOf (.g 1), r.useA (.g 1)]) true true no no)
    else .minor
  | 0xD0 =>
    if f = 0 then .shape (shGrp .mldb (mMask 3)
      (fun r => [r.useA (.g 1), r.useB (.g 1), r.useC (.g 1)]) false true yes yes) else .minor
  | 0xD1 =>
    if f = 0 then .shape { shGrp .mma (mMask 3)
        (fun r => [r.useOf .tile, r.useA (.g 1), r.useB (.g 1), r.useC (.g 1)]) true true yes yes with
        forms := formsGX
        extMask := fun _ => 0xFFFFFFFF#64 }
    else .minor
  | 0xD2 =>
    if f = 0 then .shape (shGrp .mst (mMask 15)
      (fun r => [r.useOf .tile, r.useA (.g 1), r.useB (.g 1), r.useC (.g 1)]) true true yes yes)
    else .minor
  | 0xD3 =>
    if f = 0 then .shape (shGrp .mz (mMask 3) (fun r => [r.useOf .tile]) true false no no) else .minor
  | 0xE0 =>
    if f = 0 then .shape (shCur .curOpen mZero (fun r => [r.useOf r.cur, r.useA (.g 1),
      r.useB (r.val false)]) true (fun _ => true) true false)
    else if f = 1 then .shape (shCur .curNext (mMask 1) (fun r => [r.useOf (.v 4)]
      ++ (if r.w then [r.useA .predGroup] else [])
      ++ [r.useB r.cur, r.useC .predLane]) true (fun r => r.w) true true)
    else if f = 2 then .shape (shCur .curSeek mZero (fun r => [r.useOf r.predDst, r.useA r.cur,
      r.useB (r.val true)]) true (fun _ => true) true false)
    else if f = 3 then .shape (shCur .curDesc mZero (fun r => [r.useOf r.cur, r.useA r.cur,
      r.useB (r.val true), r.useC (.g 1)]) true (fun _ => true) true true)
    else if f = 4 then .shape (shCur .curGet mCurGet (fun r => [r.useOf (if r.w then .g 2 else .v 4),
      r.useA r.cur]) true (fun _ => true) false false)
    else if f = 5 then .shape (shCur .curTest mZero (fun r => [r.useOf r.predDst, r.useA r.cur])
      true (fun _ => true) false false)
    else .minor
  | 0xE1 =>
    if f = 0 then .shape (shCur .curCoit mCoit (fun r => [r.useOf (.v 8), r.useA r.cur, r.useB r.cur,
      r.useC .predLane]) true (fun _ => true) true true) else .minor
  | 0xE2 =>
    if f = 0 then .shape (shCur .appOpen mZero (fun r => [r.useOf r.cur, r.useA (r.val true)])
      true (fun _ => true) false false)
    else if f = 1 then .shape { shCur .appPut mAppPut (fun r => [r.useOf r.cur, r.useB (.v 4)])
      true (fun _ => false) true false with useA := no }
    else if f = 2 then .shape { shCur .appClose mZero (fun r => [r.useOf r.cur])
      true (fun _ => false) false false with useA := no }
    else .minor
  | 0xE3 =>
    if f = 0 then .shape { shGrp .vld mVol (fun r => [r.useOf r.volGroup, r.useA (.g 1), r.useB (.v 2)])
      true true yes no with forms := formsV } else .minor
  | 0xE4 =>
    if f = 0 then .shape { shGrp .vst mVol (fun r => [r.useOf r.volGroup, r.useA (.g 1), r.useB (.v 2)])
      true true yes no with forms := formsV } else .minor
  | 0xE5 =>
    if f = 0 then .shape { shGrp .vprobe mZero (fun r => [r.useOf .predLane, r.useA (.g 1), r.useB (.v 2)])
      true true yes no with forms := formsV } else .minor
  | 0xF0 =>
    if f = 4 then .shape (shGrp .fgFree mZero (fun r => [r.useB .queue]) false false yes no)
    else if f = 6 then .shape (shGrp .fgRead mZero
      (fun r => [r.useA (.g 1), r.useB .queue, r.useC (.g 1)]) false true yes yes)
    else if f = 7 then .shape (shGrp .fgCnt (mMask 1)
      (fun r => [r.useA (.g 1), r.useB .queue, r.useC (.g 1)]) false true yes yes)
    else if f ≤ 5 then
      .shape (shGrp (if f = 0 then .fgCfg else if f = 1 then .fgLoad else if f = 2 then .fgSeed
        else if f = 3 then .fgClamp else .fgSweep) mZero
        (fun r => [r.useA (.g 1), r.useB .queue]) false true yes no)
    else .minor
  | 0xF8 =>
    if f = 0 then .shape (shGrp .sysrd mSys
      (fun r => r.useOf (.g 1) :: (if r.m.getLsbD 4 then [r.useB (.g 1)] else []))
      true false (fun r => r.m.getLsbD 4) yes)
    else if f = 1 then .shape (shGrp .syswr mSys
      (fun r => r.useA (.g 1) :: (if r.m.getLsbD 4 then [r.useB (.g 1)] else []))
      false true (fun r => r.m.getLsbD 4) yes)
    else .minor
  | 0xF9 =>
    if f = 0 then .shape (shGrp .rtt mZero (fun _ => []) false false no no)
    else if f = 1 then .shape { shGrp .rttSkip mZero (fun _ => []) false false no no with
      stat := fun cx _ => if cx.inTrap then .ok else .illegal 19 23 }
    else if f = 2 then .shape { shGrp .rttGo mZero (fun r => [r.useA (.g 1)]) false true no no with
      stat := fun cx _ => if cx.inTrap then .ok else .illegal 19 23 }
    else .minor
  | 0xFA =>
    if f = 0 then .shape (shGrp .clbInv (mMask 3) (fun r => [r.useA (.g 1)]) false true no no) else .minor
  | 0xFB =>
    if f = 0 then .shape (shGrp .tlbInvVa mZero (fun r => [r.useA (.g 1)]) false true no no)
    else if f = 1 then .shape (shGrp .tlbInvCtx mZero (fun _ => []) false false no no)
    else .minor
  | 0xFC =>
    if f = 0 then .shape { shGrp .pmap mZero (fun r => [r.useOf (.v 1), r.useB (.v 2)]) true false yes no
      with forms := formsV }
    else if f = 1 then .shape { shGrp .pmapRec mZero (fun r => [r.useOf (.v 2)]) true false no yes with
      forms := formsV
      stat := fun _ r => if 7 < r.c.toNat then .illegal 48 55 else .ok }
    else .minor
  | _ => .minor

/-! ## The checks after FN (R135) -/

/-- The first field, lowest-numbered first, that holds a non-zero unused bit. -/
def unusedField (sh : Shape) (r : RawW) : Option (Nat × Nat) :=
  if !sh.useD r && r.d != 0 then some (24, 31)
  else if !sh.useA r && r.a != 0 then some (32, 39)
  else if !sh.useB r && r.b != 0 then some (40, 47)
  else if !sh.useC r && r.c != 0 then some (48, 55)
  else if r.ext &&& ~~~(sh.extMask r) != 0 then some (96, 127)
  else none

/-- The operand field that names no register of its class: the first in the order D, A, B, C where several
fail (log 90). -/
def badRegister (vregs : Nat) : List RegUse → Option Nat
  | [] => none
  | u :: t => if u.valid vregs then badRegister vregs t else some u.lo

/-- Does the guard violate R124 for this W, or what the entry allows? -/
def guardOk (sh : Shape) (r : RawW) : Bool :=
  match guardOf r.guard r.gn with
  | none => false
  | some .always => true
  | some (.gp _ _) => !sh.only127
  | some (.p _ _) => !r.w && !sh.only127

/-- R135 from the M check on, in its order. -/
def checkShape (cx : DecodeCtx) (sh : Shape) (r : RawW) : Option DecodeTrap :=
  match sh.mOk r with
  | .unimpl lo hi => some ⟨true, 3, lo, hi⟩
  | .illegal lo hi => some ⟨false, 3, lo, hi⟩
  | .ok =>
    if !sh.forms r then some ⟨false, 6, 8, 10⟩
    else if !guardOk sh r then some ⟨false, 4, 11, 18⟩
    else if cx.inTrap && (!r.w || sh.trapIll) then some ⟨false, 10, 8, 10⟩
    else match unusedField sh r with
      | some (lo, hi) => some ⟨false, 9, lo, hi⟩
      | none =>
        match badRegister cx.vregs (sh.regs r) with
        | some lo => some ⟨false, 5, lo, lo + 7⟩
        | none =>
          match sh.stat cx r with
          | .illegal lo hi => some ⟨false, 8, lo, hi⟩
          | .unimpl lo hi => some ⟨true, 8, lo, hi⟩
          | .ok => none

/-- The operand record of a word. -/
def RawW.toWOp (r : RawW) (g : Guard) : WOp where
  grp := r.w
  sB := r.s
  guard := g
  fn := r.fn
  d := r.d
  a := r.a
  b := r.b
  c := r.c
  m := r.m
  ext := if r.x then some r.ext else none

/-- The fields of an operand record under an opcode. -/
def WOp.toRaw (o : WOp) (op : BitVec 8) : RawW where
  op := op
  x := o.ext.isSome
  w := o.grp
  s := o.sB
  guard := o.guard.sel
  gn := o.guard.gn
  fn := o.fn
  d := o.d
  a := o.a
  b := o.b
  c := o.c
  m := o.m
  ext := o.ext.getD 0

end Sys2Proof
end

