-- ==== Sys2Proof/Config.lean ====
section
/-! DEFINITION. What one package fixes and the spec does not give (fuses, set indexes), and the free
values: constants without a body, applied to a counter or to the operands, so that no proof can see
them. -/

namespace Sys2Proof.Config

/-- A free 64-bit value, one per draw: what the far side of a link answers to a load (log 14). -/
opaque freeWord : Nat → BitVec 64

/-- How the far side of a host or peer link answers the nth request: 0 completes, 1 Unsupported
Request, 2 Completer Abort, 3 completion timeout, 4 remote-access NAK, 5 retries exhausted (R380,
R385, R387; log 14). -/
opaque linkAnswer : Nat → Nat

/-- The byte that the nth read finds at a physical address where R322 and R376 put no memory (log 74). -/
opaque absentByte : Nat → Nat → BitVec 8

/-- Which unit of the package, or of the world outside it, is offered the nth move when the agenda
names none (log 2). -/
opaque nextMove : Nat → Instr

/-- Whether the nth move is offered to a copy engine instead, and to which (log 2). -/
opaque nextEngine : Nat → Option Nat

/-- The noise comparator sample of a p-bit in ENTROPY mode (R268; log 12). -/
opaque entropy : Nat → BitVec 16

/-- The set of an L2 slice in which a line lies, modulo the 128 sets of R85, which gives no index (log
11). -/
opaque l2Set : Nat → Nat

/-- Whether, and which, line leaves an L2 set when one is allocated (R85, R86; log 11). -/
opaque l2Victim : Nat → Nat

/-- Which entry of a full write-combining buffer drains (R82 says 'an entry'; log 11). -/
opaque wcbVictim : Nat → Nat

/-- Which sector, if any, leaves an L1 when one is allocated (R16 gives the size and no replacement
rule; log 11). -/
opaque l1Victim : Nat → Nat

/-- Do both signatures of a signed object verify (R402, R404; log 10)? -/
opaque signaturesVerify : List Byte → Bool

/-- Security version that a firmware image declares (R404; log 10). -/
opaque imageVersion : List Byte → BitVec 16

/-- Where the 64 KiB pages of a window kind of HBM lie (1 the pair windows, 2 the one-die windows), as pages
of the four-die window: R322 says that the windows overlay the same HBM, each by its own permutation of
pages, and does not print the permutations (log 15). -/
opaque hbmPage : Nat → Equiv.Perm (Fin 6291456)

/-- Modulo 2, whether a wave that is asked to stop stops at its nth issue slot, 0, or had issued the instruction
there (R363; log 4). -/
opaque walkPending : Nat → Nat

/-- Is a delivered firmware image well formed (R403 names a result for it; log 10)? -/
opaque imageFormed : List Byte → Bool

/-- The Ed25519 signature of the device over a message (R402, R405; log 10). -/
opaque signEd25519 : List Byte → List Byte

/-- The ML-DSA-65 signature of the device over a message (R402, R405; log 10). -/
opaque signMlDsa65 : List Byte → List Byte

/-- The certificate chains of both identities (R404; log 10). -/
opaque certificates : List Byte

/-- SHA-384 of the running firmware image (R405; log 10). -/
opaque sha384 : List Byte → List Byte

/-- Rated power of an island of a kind at an operating point, in units of 10 mW (R397; log 6). -/
opaque oppTab : Nat → Nat → BitVec 16

/-- Which of a die's two HBM stacks holds a PA, 0 or 1 (R394 numbers the stacks and gives no map;
log 47). -/
opaque stackOf : Nat → Nat

/-- Cores enabled at manufacture on each die (R323): all 36 (log 5). -/
def harvest : Nat → BitVec 36 := fun _ => 0xFFFFFFFFF#36

/-- Fused power cap of an island, in units of 10 mW (R397): 0 (log 6). -/
def islandCap : Nat → BitVec 16 := fun _ => 0#16

/-- Fused minimum firmware security version (R403): 0 (log 9). -/
def svnMin : BitVec 16 := 0#16

end Sys2Proof.Config
end

