-- ==== Sys2Proof/Machine/State.lean ====
section
/-! DEFINITION. The state of the package as plain data: memory, waves, gangs, copy engines, cores,
dies, contexts, queues, Clasp's windows, and the package's registers; the reasons a step stops; and
the machine right after package reset. -/

namespace Sys2Proof.Machine

/-! ## Why a step stops -/

/-- Faults of the step: none. Every event of the spec that stops a wave, a program or a context leads to a
next state. -/
inductive Fault where
  deriving DecidableEq, Repr

/-- Refusals of the step. -/
inductive Refusal where
  /-- No meaning yet: the instruction is rejected by name. Safe. -/
  | notModelled (mnemonic : String)
  /-- A wave instruction is given to the machine while no wave is at its issue slot. Safe: no step
  of the package issues an instruction without a wave (R41). -/
  | noWave
  /-- A copy command is given to the machine while no engine program is at its turn. Safe. -/
  | noProgram
  /-- A step of a unit is asked for while the unit has nothing of that kind to do, or the host names
  an object that does not exist. Safe: the package never takes that step then. -/
  | notEnabled (step : String)
  deriving DecidableEq, Repr

/-! ## Waves -/

/-- An entry of the convergence stack (R29): `kind` 0 JOIN, 1 PATH, 2 RJOIN. -/
structure StackEnt where
  mask : W64
  pc : W64
  kind : BitVec 2
  deriving DecidableEq, Repr, Inhabited

/-- The kinds of wait of R43, with the codes of R367. -/
inductive WaitKind where
  | pop | push | barrier | yield | copy | claim | footprint | fgList
  deriving DecidableEq, Repr, Inhabited

/-- The wait state of a wave (R27, R43, R367): the object (a scratch offset, a handle, a core or die,
or a job), the awaited generation (for a footprint wait, what frees it: 0 the job `obj`, 1 a program
slot and 2 a footprint entry of core `obj`, 3 a gather unit of die `obj`), the arrival ordinal, the
waiting instruction with its words, and whether STEP covered the wave at that instruction's issue slot
(R371). -/
structure Wait where
  kind : WaitKind
  obj : Nat
  gen : Nat
  ord : Nat
  insn : Instr
  w0 : W64
  w1 : W64
  steps : Bool
  deriving DecidableEq, Repr, Inhabited

/-- A translation as a last-page register or a TLB holds it (R348, R349): the context, VA[54:16] and
PA[51:16] of one 64 KiB page, and the leaf's fields; `cover` is how many bits of VA[54:16] the leaf
leaves free (0, 13 or 26), for invalidation. -/
structure PageEnt where
  ctx : Nat
  vpn : Nat
  ppn : Nat
  r : Bool
  w : Bool
  x : Bool
  share : Nat
  ap : Nat
  rc : Bool
  extsig : Bool
  d : Bool
  cover : Nat
  deriving DecidableEq, Repr, Inhabited

/-- A walker instruction recorded at a pre-emption (R363, R367). -/
structure WalkRec where
  pc : W64
  w0 : W64
  w1 : W64
  exm : W64
  deriving DecidableEq, Repr, Inhabited

/-- The registers of a wave (R121): `v` is keyed by register × 64 + lane; an absent entry is 0, and
an absent `q` is unbound. -/
structure Regs where
  v : Map W32
  g : Map W64
  p : Map W64
  gp : BitVec 16
  c : Map W128
  q : Map W32
  mode : W32
  flags : W32
  deriving DecidableEq, Repr, Inhabited

/-- The trap side of a wave: the privilege and handler bits of WSTAT, the trap record, the lanes'
fault records, and the last-page registers (R349, R352, R359, R367); the walker instructions recorded at
a pre-emption (R363), and, keyed by C register, the level descriptors that the walker read when it opened the
wave's cursors (R90) and the index at which the fibre of each begins (R247). `resume` is the PC at which the
wave goes on once the recorded walker instructions have re-issued (R363, R364). -/
structure WaveSys where
  sup : Bool
  inTrap : Bool
  inLane : Bool
  bpSupp : Bool
  stepPend : Bool
  hdepth : Nat
  trec : BitVec 512
  frec : Map (BitVec 512)
  lastPage : Map PageEnt
  walk : List WalkRec
  resume : Option W64
  levels : Map (BitVec 512)
  starts : Map Nat
  deriving DecidableEq, Repr, Inhabited

/-- A wave (R26, R27): who it is, its execution state, and its pending stops. `ready` is the core
cycle since which it has been ready, or at which it last issued (R46); `poolPend` counts its PMAP
lanes that the pool unit has not served (R355); `fresh` until its first issue (R96); `pointed` that the
instruction at PC waits with its release point made (R96, R264). -/
structure Wave where
  gang : Nat
  wg : Nat
  wid : Nat
  w64 : Bool
  vregs : Nat
  quarter : Nat
  pc : W64
  exm : W64
  live : W64
  park : W64
  rpl : W64
  stop : W64
  hretPc : W64
  hretExm : W64
  stack : List StackEnt
  wait : Option Wait
  regs : Regs
  sys : WaveSys
  ready : Nat
  poolPend : Nat
  fresh : Bool
  pointed : Bool
  preempt : Bool
  cancel : Bool
  stopped : Bool
  deriving DecidableEq, Repr, Inhabited

/-! ## Kernels, footprints, gangs -/

/-- A footprint template (R335). -/
structure FpTemplate where
  base : W64
  len : BitVec 48
  wr : Bool
  barg : Bool
  larg : Bool
  used : Bool
  deriving DecidableEq, Repr, Inhabited

/-- A kernel descriptor as accepted (R334, R407). -/
structure KDesc where
  va : W64
  w64 : Bool
  gang : Nat
  l1fuse : Bool
  vregs : Nat
  scrkb : Nat
  qbmask : BitVec 16
  mode : W32
  copyLen : Nat
  entry : W64
  handler : W64
  code : W64
  codeLen : Nat
  constLen : Nat
  copy : W64
  const : W64
  fts : List FpTemplate
  deriving DecidableEq, Repr, Inhabited

/-- A footprint range: bytes [base, base + len), written or read, scratch or global. -/
structure Range where
  base : Nat
  len : Nat
  wr : Bool
  sp : Bool
  deriving DecidableEq, Repr, Inhabited

/-- A footprint registered on a core (R110): the job that holds it. `job` numbers every started
engine job of the package. -/
structure FpReg where
  job : Nat
  gang : Nat
  ranges : List Range
  deriving DecidableEq, Repr, Inhabited

/-- Where a gang is in its life: resident, resident with a pre-emption pending (R363), or in an image. -/
inductive GangPhase where
  | resident | stopping | saved
  deriving DecidableEq, Repr, Inhabited

/-- A gang that has been placed (R13, R340): the launch it belongs to, its index, the cores it
holds (die × 64 + physical core) in GANGWG order, its scratch allocation, and when it was placed. `fgHome`
records that its context owned the Filigree of a die it was resident on (R324); `bars` holds the offsets at which BAR.INIT has made barrier objects. -/
structure Gang where
  launch : Nat
  ctx : Nat
  dev : Nat
  gangId : Nat
  cores : List Nat
  waves : Nat
  scr : Nat
  scratch : Map Byte
  placedAt : Nat
  phase : GangPhase
  fgHome : Bool
  bars : List Nat
  deriving DecidableEq, Repr, Inhabited

/-! ## Copy engines -/

/-- Who started a copy program or a gather job: the context, the gang (none for a COPY record), the
wave slot and segment its accesses are charged to (R114), and the launch. -/
structure Owner where
  ctx : Nat
  dev : Nat
  gang : Option Nat
  slot : Option (Nat × Nat)
  launch : Nat
  deriving DecidableEq, Repr, Inhabited

/-- One destination sector of a transfer (R288): its space, its address ÷ 16, and the box elements
that lie in it. -/
structure XSector where
  sp : Bool
  sec : Nat
  elems : List Nat
  deriving DecidableEq, Repr, Inhabited

/-- A started `XFER` (R283): the command block, the two descriptors as they were, the barrier it
counts on (none with NC), the command's address and words, and the sectors still to perform.
`packed` holds the packed elements and bitmap of a compressing transfer once they are formed: space,
address, byte, and the bits of the byte to write. `culprit` marks the faulted transfer that the fault
record names (R296), `told` that its barrier has the fault's CEF, and `busy` lists the lines into which the
transfer has open sector writes, each by VA ÷ 128 and PA ÷ 128 (R86). -/
structure Xfer where
  block : BitVec 1024
  src : BitVec 512
  dst : BitVec 512
  bar : Option Nat
  cpc : W64
  word : BitVec 32
  todo : List XSector
  packed : Option (List (Bool × Nat × Byte × Byte))
  faulted : Bool
  culprit : Bool
  told : Bool
  busy : List (Nat × Nat)
  deriving DecidableEq, Repr, Inhabited

/-- A copy program in an engine slot (R272, R370). `st`: 0 free, 1 running, 2 waiting in WAITX, 3
faulted, 4 halted, 5 GSUB to re-issue, 6 held by DBG.HOLD, 7 cancelled (R222 tells it from
halted), 8 faulted with earlier transfers still in flight, whose writes the report of the fault follows
(R109, R294); `fbars` are the barriers that the faulting command counts on. -/
structure Prog where
  st : Nat
  e : Map W64
  d : Map (BitVec 512)
  l : Map W64
  cpc : W64
  dbar : W32
  seq : Nat
  frec : BitVec 320
  fbars : List Nat
  fblock : BitVec 512
  job : Nat
  ord : Nat
  waitObj : Nat
  waitGen : Nat
  waitReg : Nat
  lo : W64
  len : Nat
  owner : Owner
  xfers : List Xfer
  token : Nat
  discarded : Bool
  deriving DecidableEq, Repr, Inhabited

/-- A copy engine (R221, R272): its start count, its slots, and the slot that issued last. -/
structure Engine where
  starts : Nat
  slots : Map Prog
  last : Nat
  deriving DecidableEq, Repr, Inhabited

/-- A gather or scatter job (R223-R227): its block, whether it scatters, the core whose footprint it
holds, once accepted the gather unit, and the program whose `GSUB` waits for acceptance. `next` is the
next data sector, `index` the row number of its position, `rows` the table rows already read in
the current run, and `busy` the lines into which it has open sector writes, each by VA ÷ 128 and PA ÷ 128
(R86). -/
structure GJob where
  job : Nat
  block : BitVec 512
  sctr : Bool
  owner : Owner
  core : Nat
  unit : Nat
  accepted : Bool
  held : Bool
  next : Nat
  index : Nat
  rows : Map (List Byte)
  busy : List (Nat × Nat)
  prog : Option (Nat × Nat)
  deriving DecidableEq, Repr, Inhabited

/-! ## Cores -/

/-- A matrix instruction issued and not yet executed (R237): the issuing wave and its gang, the operand
record and the operands it read. `blk` is the format block, read at issue (R231). -/
structure MatJob where
  wave : Nat
  gang : Nat
  op : Instr
  ga : W64
  gb : W64
  gc : W64
  blk : BitVec 256
  deriving DecidableEq, Repr

/-- One column of a B panel (R369): its blocks' exponents, scale exponents and special marks, and the
limbs of its 128 elements. -/
structure PanelCol where
  exps : List Int
  scales : List Int
  special : List Bool
  limbs : List (List Int)
  deriving DecidableEq, Repr, Inhabited

/-- A core's B panel (R232, R369). -/
structure Panel where
  fmt : Nat
  len : Nat
  scaled : Bool
  n : Nat
  cols : Map PanelCol
  deriving DecidableEq, Repr, Inhabited

/-- A 16-byte sector as a cache holds it: its bytes, which of them are newer than home, the effective
scope with which its line was tagged at fill, the dies of the accessing device (a mask of physical dies, which
fixes the home by R84), and since when it is held. -/
structure Sector where
  data : W128
  mask : BitVec 16
  share : Nat
  dev : Nat
  since : Nat
  deriving DecidableEq, Repr, Inhabited

/-- A core (R16-R18, R46, R81-R83): cycle counter and slots, matrix array with its claims and queue,
Facet gating, and the caches (`mcache` the walker's metadata cache, `ccache` the constant cache by
sector). `slots` is keyed by quarter × 2 + (1 for the vector slot) and holds the
last issued resident position, the cycle of that issue, and the cycle at which the slot frees; `tried` by
resident position, the cycle at which the instruction of a wave last could not go on. `claim`
names the WAVESLOT that holds the array's claim, or 2^14 more of a discarded wave whose matrix instructions have
yet to run (R229, R237). -/
structure Core where
  cycle : Nat
  slots : Map (Nat × Nat × Nat)
  tried : Map Nat
  fused : Option Nat
  z : Map W32
  panel : Panel
  claim : Option Nat
  matq : List MatJob
  lastMat : Nat
  fgated : Bool
  wcb : Map Sector
  l1 : Map Sector
  tlb : Map PageEnt
  icache : Map W64
  mcache : Map W64
  ccache : Map W128
  clb : Map Nat
  fps : List FpReg
  deriving DecidableEq, Repr

/-! ## Dies -/

/-- A p-bit of a Filigree (R263, R267). -/
structure PBit where
  s : Bool
  h : BitVec 16
  cpl : List (Nat × BitVec 8)
  colour : Nat
  clamp : Bool
  count : Nat
  deriving DecidableEq, Repr, Inhabited

/-- A command in a Filigree's list (R264, R370): its operands, the queue of its completion, who
appended it; `status` is set once it has executed and its completion waits to be pushed. For an `FG.SWEEP`,
`left` is how many sweeps remain and `colour` the next colour of the current one (R263, R271). -/
structure FgCmd where
  fn : Nat
  ga : W64
  gc : W64
  clr : Bool
  queue : Nat
  seq : Nat
  owner : Owner
  status : Option (Nat × Nat)
  left : Nat
  colour : Nat
  deriving DecidableEq, Repr, Inhabited

/-- A die's Filigree (R263, R324, R370); `users` lists the gangs that have appended to the array as it stands,
in whose images it is saved, and `kept` those of them that have been saved since (R271, log 111). -/
structure Filigree where
  owner : Nat
  pendOwner : Option Nat
  nb : Nat
  ncol : Nat
  det : Bool
  beta : BitVec 16
  key : W64
  sweep : W64
  bits : Map PBit
  cmds : List FgCmd
  appended : Nat
  users : List Nat
  kept : List Nat
  deriving DecidableEq, Repr, Inhabited

/-- A compute die: the remote partition (R85) with its lines keyed by sector (PA ÷ 16), the dirty
sectors of DDR lines homed here (R377), the victim buffer (R86), the shared TLB, and Chain mode (R401), where
`chainRun` counts the instructions started since the token came. -/
structure Die where
  remote : Map Sector
  ddr : Map Sector
  victim : Map Sector
  tlb : Map PageEnt
  fil : Filigree
  chainEn : BitVec 9
  chainHold : BitVec 16
  chainTok : Nat
  chainRun : Nat
  lost : Bool
  deriving DecidableEq, Repr, Inhabited

/-! ## Contexts, queues, windows -/

/-- A hardware heap record (R357). -/
structure Heap where
  ring4 : W64
  ring32 : W64
  log4 : BitVec 4
  log32 : BitVec 4
  head4 : W32
  tail4 : W32
  head32 : W32
  tail32 : W32
  deriving DecidableEq, Repr, Inhabited

/-- The debug block (R371). -/
structure Dbg where
  ctl : BitVec 5
  lid : W64
  who : BitVec 40
  bp : List (BitVec 61)
  deriving DecidableEq, Repr, Inhabited

/-- A host queue of a context (R326-R332): its BIND word, whether an unbind waits and the DADDR written
with it, what the front end last saw of its descriptor, and the levels now open. `barrier` is the phase
whose completion the next read waits for. -/
structure Queue where
  v : Bool
  daddr : Nat
  unbind : Bool
  nextDaddr : Nat
  ring : Nat
  log2n : Nat
  tail : W32
  head : W32
  job : Nat
  phase : Nat
  graph : Nat
  barrier : Nat
  deriving DecidableEq, Repr, Inhabited

/-- A graph, phase or job (R331, R332), or a launch, keyed by identifier: its level 1-4, its device, its
parent level, how many parts have not completed, whether it has been ended, and the record that ended it:
the status of its refusal, its DONE address, and the cause of a copy fault. `stopped` says that a cancel,
a failure or a die loss covers it whole; `cancelled` that some launch within it was cancelled. -/
structure Level where
  level : Nat
  dev : Nat
  parent : Nat
  open_ : Nat
  ended : Bool
  complete : Bool
  stopped : Bool
  cancelled : Bool
  lost : Bool
  refused : Nat
  done : Option W64
  cause : Nat
  deriving DecidableEq, Repr, Inhabited

/-- An entry of Clasp's window (R338-R341): a launch or a COPY of a context's device. `edges` are the
launches (`false`, by `order`) and engine jobs (`true`) it waits for; `nextGang` the first gang never
placed; `places` the position that last received each gang, by GANGID; `live` the gangs placed and not retired,
images included; `held` that DBG.HOLD held the child at its acceptance (R372). -/
structure Entry where
  ctx : Nat
  dev : Nat
  id : Nat
  graph : Nat
  phase : Nat
  job : Nat
  parents : List Nat
  copy : Bool
  prio : Nat
  coop : Bool
  wgw : Nat
  gangs : Nat
  kd : KDesc
  args : List Byte
  ranges : List Range
  edges : List (Bool × Nat)
  queue : Option Nat
  child : Bool
  held : Bool
  admitted : Bool
  nextGang : Nat
  places : Map Nat
  live : Nat
  prog : W64
  einit : List W64
  fblock : BitVec 512
  order : Nat
  cancelled : Bool
  deriving DecidableEq, Repr, Inhabited

/-- An event record that waits to be written (R374). -/
structure Event where
  kind : Nat
  token : Nat
  launch : Nat
  gangId : Nat
  gangWg : Nat
  slot : Nat
  payload : List Byte
  deriving DecidableEq, Repr, Inhabited

/-- Registers of a context's window that the host writes (R350, R365, R373, R374, R383). -/
structure CtxRegs where
  wdog : BitVec 48
  holdCe : Bool
  holdGu : Bool
  holdChild : Bool
  invVa : W64
  lkBase : W64
  lkSlot : BitVec 20
  lkSlots : BitVec 16
  evBase : W64
  evLog : BitVec 4
  evHead : W32
  evTail : W32
  evVec : BitVec 12
  evEn : Bool
  dbg : Dbg
  deriving DecidableEq, Repr, Inhabited

/-- A context (R320): its record, its counters, its queues, its heaps keyed by 8 × die + heap, its
levels, the records of its device-side queues, its events, and whether it has failed or a die it
uses is lost. -/
structure Ctx where
  view : Nat
  part : Nat
  root : Nat
  kit : W64
  kitn : Nat
  tcode : W64
  tlen : Nat
  pool : Nat
  pooln : Nat
  poolUsed : Nat
  nextId : Nat
  regs : CtxRegs
  heaps : Map Heap
  queues : Map Queue
  levels : Map Level
  devq : List Entry
  events : List Event
  nextToken : Nat
  failed : Bool
  poisoned : Bool
  deriving DecidableEq, Repr, Inhabited

/-- A cancel that has been asked for and not yet ordered (R343, R388): the context, the level 1-4
and its identifier, and the queue whose descriptor asked, which gets CSTAT. -/
structure CancelReq where
  io : Nat
  ctx : Nat
  level : Nat
  target : Nat
  queue : Option Nat
  deriving DecidableEq, Repr, Inhabited

/-- An update of a `REDG` that the atomic place has not performed (R108): the wave that issued it, its
gang, core, context and device's dies, the place and operation, the operand, and for a redirect the
scratch offset of the old value and the barrier. -/
structure Redg where
  wave : Nat
  gang : Nat
  core : Nat
  ctx : Nat
  dm : Nat
  pa : Nat
  sz : Nat
  fn : Nat
  ap : Nat
  share : Nat
  rc : Bool
  val : W64
  redir : Option (Nat × Nat)
  deriving DecidableEq, Repr, Inhabited

/-- A lane's request at a pool unit (R355); `late` when a later instruction of the wave has written the register
that would take its status. -/
structure PoolReq where
  ctx : Nat
  wave : Nat
  lane : Nat
  dst : Nat
  va : W64
  late : Bool
  deriving DecidableEq, Repr, Inhabited

/-- A saved gang (R363-R370): the gang, its waves and what was saved beside them, and the arena slot
that holds the image. -/
structure Image where
  gang : Gang
  waves : List Wave
  engines : List Engine
  zs : List (Map W32)
  panels : List Panel
  claims : List (Option Nat)
  fps : List (List FpReg)
  fil : Option Filigree
  slot : Nat
  deriving DecidableEq, Repr

/-! ## Package registers -/

/-- An island's command and status (R397). -/
structure Island where
  opp : BitVec 4
  st : BitVec 2
  fgate : Bool
  idle : BitVec 16
  cap : BitVec 16
  oppNow : BitVec 4
  stNow : BitVec 2
  busy : Bool
  ref : Bool
  deriving DecidableEq, Repr, Inhabited

/-- The Signet mailbox and its firmware (R403-R405). -/
structure Signet where
  addr : W64
  len : W32
  busy : Bool
  result : BitVec 4
  svnMin : BitVec 16
  svnCur : BitVec 16
  image : List Byte
  deriving DecidableEq, Repr, Inhabited

/-- What the package sends to the world: an MSI-X message (function, vector), or an RDMA operation of a
peer window (R385): the queue-pair record, the remote key, the remote address, and its size, bytes or
operands. -/
inductive OutMsg where
  | msix (fn vec : Nat)
  | peerRead (qp key addr size : Nat)
  | peerWrite (qp key addr : Nat) (data : List Byte)
  | peerAtomic (qp key addr : Nat) (cas : Bool) (cmp opd : W64)
  deriving DecidableEq, Repr, Inhabited

/-- An answer to the host or a peer: `status` 0 completes, 1 Unsupported Request, 2 Completer Abort,
4 remote-access NAK. -/
structure Resp where
  status : Nat
  data : List Byte
  deriving DecidableEq, Repr, Inhabited

/-- Registers of the package (R318-R324, R378, R384-R386, R390, R394-R403). Tables of records are
keyed by their number; an absent record is zero. `ctxBusy` is CTXSTAT.BUSY, and `bar2` log2 of the size
of BAR2, which the host sets through Resizable BAR. -/
structure Pkg where
  cur : Nat
  busy : Bool
  refused : Bool
  next : Nat
  harv : List (BitVec 36)
  ctxResult : BitVec 4
  ctxBusy : Bool
  ready : BitVec 30
  apBase : W64
  bar2 : Nat
  ddr : List (BitVec 11)
  cxl : List Bool
  ioLost : List Bool
  peers : Map (BitVec 256)
  inbound : Map (BitVec 256)
  ports : Map (BitVec 512)
  qps : Map (BitVec 512)
  islands : Map Island
  signet : Signet
  ph : Map (BitVec 16)
  phPend : Map (List Nat)
  feHost : Map Nat
  feDev : Map Nat
  deriving DecidableEq, Repr, Inhabited

/-! ## The whole -/

/-- Who moves: an event row of the table, or an engine's next command. -/
inductive Act where
  | ev (i : Instr)
  | engine (key : Nat)
  deriving DecidableEq, Repr

/-- The package. `mem` is physical memory, HBM, DDR and the host window (R322, R376), keyed by physical
address; a byte of HBM has one key, its address in the four-die window. `walkc` holds the walkers' cached
table pointers (R348), keyed by die, context and entry address.
`waves` is keyed by WAVESLOT (R23), `cores` by die × 64 + physical core, `engines` by the same for
cores and by 1,024 + 32 × io + e for I/O dies, `gangs` by a running number. `curseg` is keyed by
WAVESLOT (R114). `agenda`, `cur`, `curE`, `issued`, `insn` and `free` are the model's own: who
moves next, the wave or program at its turn, the instruction just issued and its words, and the
free-value counter. -/
structure State where
  mem : List Host.Cell
  poison : List Nat
  walkc : Map W64
  waves : Map Wave
  gangs : Map Gang
  entries : List Entry
  images : Map Image
  cores : Map Core
  dies : Map Die
  engines : Map Engine
  gjobs : List GJob
  redgs : List Redg
  poolReqs : List PoolReq
  cancels : List CancelReq
  ctxs : Map Ctx
  curseg : Map (BitVec 10)
  pkg : Pkg
  nextGang : Nat
  nextJob : Nat
  nextOrder : Nat
  hostResp : List Resp
  outbox : List OutMsg
  agenda : List Act
  cur : Option Nat
  curE : Option (Nat × Nat)
  issued : Option Instr
  insn : W64 × W64
  free : Nat
  deriving DecidableEq, Repr

/-! ## Reset -/

/-- A panel as placement leaves it: zero, recorded as INT8 with L = 32 and no scale table (R229). -/
def Panel.zero : Panel := { fmt := 1, len := 0, scaled := false, n := 0, cols := [] }

/-- A core after package reset: caches empty, array zero, Facets awake. -/
def Core.init : Core where
  cycle := 0
  slots := []
  tried := []
  fused := none
  z := []
  panel := Panel.zero
  claim := none
  matq := []
  lastMat := 0
  fgated := false
  wcb := []
  l1 := []
  tlb := []
  icache := []
  mcache := []
  ccache := []
  clb := []
  fps := []

/-- A Filigree with no configuration and no owner (R263, R324). -/
def Filigree.init : Filigree where
  owner := 0
  pendOwner := none
  nb := 0
  ncol := 0
  det := false
  beta := 0
  key := 0
  sweep := 0
  bits := []
  cmds := []
  appended := 0
  users := []
  kept := []

/-- A die after package reset: every cluster in Chain mode (R401), no owner of its Filigree. -/
def Die.init : Die where
  remote := []
  ddr := []
  victim := []
  tlb := []
  fil := Filigree.init
  chainEn := 0x1FF#9
  chainHold := 0x0010#16
  chainTok := 15
  chainRun := 0
  lost := false

/-- An engine with no program (R272). -/
def Engine.init : Engine := { starts := 0, slots := [], last := 7 }

/-- An island after package reset (R397). -/
def Island.init (n : Nat) : Island where
  opp := 15#4
  st := 0
  fgate := false
  idle := 0
  cap := Config.islandCap n
  oppNow := 15#4
  stNow := 0
  busy := false
  ref := false

/-- The package's registers after package reset: PMODE 0, nothing ready but the Signet root (R404),
no context, every table zero. -/
def Pkg.init : Pkg where
  cur := 0
  busy := false
  refused := false
  next := 0
  harv := [Config.harvest 0, Config.harvest 1, Config.harvest 2, Config.harvest 3]
  ctxResult := 0
  ctxBusy := false
  ready := 2#30
  apBase := 0
  bar2 := 52
  ddr := [0, 0]
  cxl := [false, false]
  ioLost := [false, false]
  peers := []
  inbound := []
  ports := []
  qps := []
  islands := []
  signet := { addr := 0, len := 0, busy := false, result := 0, svnMin := Config.svnMin,
              svnCur := 0, image := [] }
  ph := []
  phPend := []
  feHost := []
  feDev := []

/-- The registers of a context's window at its creation (R357, R365, R371-R374, R383). -/
def CtxRegs.init : CtxRegs where
  wdog := 0x000080000000#48
  holdCe := false
  holdGu := false
  holdChild := false
  invVa := 0
  lkBase := 0
  lkSlot := 0
  lkSlots := 0
  evBase := 0
  evLog := 0
  evHead := 0
  evTail := 0
  evVec := 0
  evEn := false
  dbg := { ctl := 0, lid := 0, who := 0, bp := [0, 0, 0, 0] }

/-- The machine right after package reset (R406): no context, no wave, no program; HBM zero; every
register of the package at its reset value. -/
def State.reset : State where
  mem := []
  poison := []
  walkc := []
  waves := []
  gangs := []
  entries := []
  images := []
  cores := []
  dies := []
  engines := []
  gjobs := []
  redgs := []
  poolReqs := []
  cancels := []
  ctxs := []
  curseg := []
  pkg := Pkg.init
  nextGang := 0
  nextJob := 0
  nextOrder := 0
  hostResp := []
  outbox := []
  agenda := []
  cur := none
  curE := none
  issued := none
  insn := (0, 0)
  free := 0

end Sys2Proof.Machine
end

