-- ==== Sys2Proof/Machine/Ops.lean ====
section
/-! DEFINITION. The named operations over the state: reading and writing each record, lanes and
registers of a wave, retirement, taking a trap (R359, R360), failing a context (R374), parking
(R33, R352), segments (R114, R116), and the return from the handlers (R36, R37, R362). -/

namespace Sys2Proof.Machine

/-- The outcome of a step. -/
abbrev Out := Host.Outcome State Fault Refusal

/-! ## Records of the state -/

def State.setWave (s : State) (k : Nat) (w : Wave) : State := { s with waves := s.waves.put k w }
def State.core (s : State) (c : Nat) : Core := s.cores.getD c Core.init
def State.setCore (s : State) (c : Nat) (x : Core) : State := { s with cores := s.cores.put c x }
def State.die (s : State) (d : Nat) : Die := s.dies.getD d Die.init
def State.setDie (s : State) (d : Nat) (x : Die) : State := { s with dies := s.dies.put d x }
def State.engine (s : State) (e : Nat) : Engine := s.engines.getD e Engine.init
def State.setEngine (s : State) (e : Nat) (x : Engine) : State :=
  { s with engines := s.engines.put e x }
def State.setGang (s : State) (g : Nat) (x : Gang) : State := { s with gangs := s.gangs.put g x }
def State.setCtx (s : State) (c : Nat) (x : Ctx) : State := { s with ctxs := s.ctxs.put c x }

/-- Change a gang, if it exists. -/
def State.modGang (s : State) (g : Nat) (f : Gang → Gang) : State :=
  match s.gangs.find g with
  | some x => s.setGang g (f x)
  | none => s

/-- Change a context, if it exists. -/
def State.modCtx (s : State) (c : Nat) (f : Ctx → Ctx) : State :=
  match s.ctxs.find c with
  | some x => s.setCtx c (f x)
  | none => s

def State.modCore (s : State) (c : Nat) (f : Core → Core) : State := s.setCore c (f (s.core c))
def State.modDie (s : State) (d : Nat) (f : Die → Die) : State := s.setDie d (f (s.die d))

/-- Change a wave, if it exists. -/
def State.modWave (s : State) (k : Nat) (f : Wave → Wave) : State :=
  match s.waves.find k with
  | some w => s.setWave k (f w)
  | none => s

/-- A gang by number. -/
def State.gang? (s : State) (g : Nat) : Option Gang := s.gangs.find g

/-- The window entry of a launch of a context (R338). -/
def State.entry? (s : State) (ctx id : Nat) : Option Entry :=
  s.entries.find? (fun e => e.ctx = ctx && e.id = id)

/-- Change one window entry. -/
def State.modEntry (s : State) (ctx id : Nat) (f : Entry → Entry) : State :=
  { s with entries := s.entries.map (fun e => if e.ctx = ctx && e.id = id then f e else e) }

/-- The next free value's number. -/
def State.tick (s : State) : State := { s with free := s.free + 1 }

/-! ## Numbering: cores, slots, dies (R11, R12, R23) -/

/-- Core key (die × 64 + physical core) of a WAVESLOT. -/
def slotCore (k : Nat) : Nat := k / 64
/-- Physical die of a core key. -/
def coreDie (c : Nat) : Nat := c / 64
/-- Physical core on its die. -/
def corePhys (c : Nat) : Nat := c % 64
/-- The core at a position of the cluster that holds a core. -/
def clusterCore (c pos : Nat) : Nat := coreDie c * 64 + corePhys c / 4 * 4 + pos
/-- Is a physical core enabled (R323)? -/
def State.enabled (s : State) (c : Nat) : Bool :=
  decide (corePhys c < 36) && (nth s.pkg.harv (coreDie c) 0).getLsbD (corePhys c)

/-- The core at whose L1 a NEAR atomic of a core's cluster is performed (R106): position a[8:7], or the
first enabled position after it in cyclic order. -/
def State.nearCore (s : State) (c sec : Nat) : Nat :=
  (((List.range 4).map (fun i => clusterCore c ((sec / 8 + i) % 4))).find? s.enabled).getD c

/-- The dies of a partition under PMODE `cur` (R318). -/
def partDies (cur p : Nat) : List Nat :=
  match cur with
  | 0 => [0, 1, 2, 3]
  | 1 => [2 * p, 2 * p + 1]
  | _ => [p]

/-- The devices of a view of a partition, as lists of physical dies (R10); none when the view is not
offered. -/
def viewDevs (cur p view : Nat) : Option (List (List Nat)) :=
  match view with
  | 0 => some [partDies cur p]
  | 1 => match cur with
    | 0 => some [[0, 1], [2, 3]]
    | 1 => some [[2 * p], [2 * p + 1]]
    | _ => none
  | 2 => some ((partDies cur p).map (fun d => [d]))
  | _ => none

/-- The devices of a context. -/
def State.devs (s : State) (c : Ctx) : List (List Nat) := (viewDevs s.pkg.cur c.part c.view).getD []

/-- The dies of a device of a context. -/
def State.devDies (s : State) (ctx dev : Nat) : List Nat :=
  match s.ctxs.find ctx with
  | some c => nth (s.devs c) dev []
  | none => []

/-- The enabled cores of a list of dies, in logical order (R11). -/
def State.logicalCores (s : State) (dies : List Nat) : List Nat :=
  dies.flatMap (fun d => ((List.range 36).map (d * 64 + ·)).filter s.enabled)

/-- The I/O die at the edge of a compute die (R338, R380). -/
def ioOf (die : Nat) : Nat := if die < 2 then 0 else 1

/-- The I/O die that serves a device of a context (R338). -/
def State.servingIo (s : State) (ctx dev : Nat) : Nat := ioOf (nth (s.devDies ctx dev) 0 0)

/-- The partition that holds a die. -/
def diePart (cur d : Nat) : Nat :=
  match cur with
  | 0 => 0
  | 1 => d / 2
  | _ => d

/-! ## Islands (R397, R399) -/

def State.island (s : State) (n : Nat) : Island := s.pkg.islands.getD n (Island.init n)

/-- Does an island perform: it is on, and no change of its operating point or state is in progress? -/
def State.islandOn (s : State) (n : Nat) : Bool :=
  let x := s.island n
  x.stNow = 0 && !x.busy

/-- The island of a core's matrix array (R396). -/
def arrayIsland (c : Nat) : Nat := 240 * coreDie c + 6 * corePhys c + 4

/-! ## Lanes and registers of a wave -/

def Wave.width (w : Wave) : Nat := if w.w64 then 64 else 32
/-- Ones in the lanes of the wave (R26). -/
def Wave.wmask (w : Wave) : W64 := if w.w64 then BitVec.allOnes 64 else 0xFFFFFFFF#64
/-- The permitted lanes (R28). -/
def Wave.permitted (w : Wave) : W64 :=
  if w.sys.inLane then w.live &&& w.park else w.live &&& ~~~w.park
/-- Write EXM, ANDed with the permitted lanes (R28). -/
def Wave.setExm (w : Wave) (m : W64) : Wave := { w with exm := m &&& w.permitted &&& w.wmask }

def Wave.vreg (w : Wave) (r l : Nat) : W32 := w.regs.v.getD (r * 64 + l) 0
def Wave.greg (w : Wave) (r : Nat) : W64 := w.regs.g.getD r 0
def Wave.preg (w : Wave) (r : Nat) : W64 := w.regs.p.getD r 0
def Wave.creg (w : Wave) (r : Nat) : W128 := w.regs.c.getD r 0

def Regs.setV (x : Regs) (r l : Nat) (v : W32) : Regs := { x with v := x.v.set (r * 64 + l) 0 v }
def Regs.setG (x : Regs) (r : Nat) (v : W64) : Regs := { x with g := x.g.set r 0 v }
def Regs.setP (x : Regs) (r : Nat) (m : W64) : Regs := { x with p := x.p.set r 0 m }
def Regs.setC (x : Regs) (r : Nat) (v : W128) : Regs := { x with c := x.c.set r 0 v }
def Regs.setGP (x : Regs) (r : Nat) (b : Bool) : Regs :=
  { x with gp := if b then x.gp ||| (1#16 <<< r) else x.gp &&& ~~~(1#16 <<< r) }
def Regs.orFlags (x : Regs) (f : W32) : Regs := { x with flags := x.flags ||| f }

def Wave.setV (w : Wave) (r l : Nat) (v : W32) : Wave := { w with regs := w.regs.setV r l v }
def Wave.setG (w : Wave) (r : Nat) (v : W64) : Wave := { w with regs := w.regs.setG r v }
def Wave.setP (w : Wave) (r : Nat) (m : W64) : Wave := { w with regs := w.regs.setP r m }
def Wave.setC (w : Wave) (r : Nat) (v : W128) : Wave := { w with regs := w.regs.setC r v }
def Wave.setGP (w : Wave) (r : Nat) (b : Bool) : Wave := { w with regs := w.regs.setGP r b }
def Wave.orFlags (w : Wave) (f : W32) : Wave := { w with regs := w.regs.orFlags f }
/-- Set one lane's bit of a lane predicate. -/
def Wave.setPL (w : Wave) (r l : Nat) (b : Bool) : Wave := w.setP r (setLane (w.preg r) l b)
/-- A group-wide predicate. -/
def Wave.gpred (w : Wave) (r : Nat) : Bool := w.regs.gp.getLsbD r

/-- A group of n V registers of a lane, lowest register least significant (R122). -/
def Wave.vgrp (w : Wave) : Nat → Nat → Nat → Nat
  | 0, _, _ => 0
  | n + 1, r, l => (w.vreg r l).toNat + 2 ^ 32 * w.vgrp n (r + 1) l

/-- Write a group of n V registers of a lane (R122). -/
def Wave.setVgrp (w : Wave) : Nat → Nat → Nat → Nat → Wave
  | 0, _, _, _ => w
  | n + 1, r, l, x => (w.setV r l (BitVec.ofNat 32 x)).setVgrp n (r + 1) l (x / 2 ^ 32)

/-- Does the guard hold for a lane (R124)? -/
def Wave.guardLane (w : Wave) (g : Guard) (l : Nat) : Bool :=
  match g with
  | .always => true
  | .p n neg => lane (w.preg n.toNat) l != neg
  | .gp n neg => w.gpred n.toNat != neg

/-- Does a group-wide guard hold (R124)? A lane predicate never guards a group-wide form. -/
def Wave.guardGrp (w : Wave) (g : Guard) : Bool :=
  match g with
  | .gp n neg => w.gpred n.toNat != neg
  | _ => true

/-- The lanes of a mask, in ascending order. -/
def lanesOf (width : Nat) (m : W64) : List Nat := (List.range width).filter (lane m)

/-- The active lanes of an instruction, in ascending order (R8). -/
def Wave.active (w : Wave) (g : Guard) : List Nat :=
  (lanesOf w.width w.exm).filter (w.guardLane g)

/-- The value of a predicate named by a field of R124, in a lane. -/
def Wave.predAt (w : Wave) (n l : Nat) : Bool :=
  if n < 48 then lane (w.preg n) l else w.gpred (n - 64)

/-! ## Retirement and the next instruction -/

/-- Does the wave match the debug block (R371)? -/
def State.dbgMatch (s : State) (w : Wave) : Bool :=
  match s.gangs.find w.gang with
  | none => false
  | some g => match s.ctxs.find g.ctx with
    | none => false
    | some c =>
      let d := c.regs.dbg
      (d.lid = 0 || d.lid.toNat = g.launch)
        && (d.who.getLsbD 38 || (d.who.extractLsb' 0 32).toNat = g.gangId)
        && (d.who.getLsbD 39 || ((d.who.extractLsb' 32 2).toNat = w.wg
          && (d.who.extractLsb' 34 4).toNat = w.wid))

/-- DBGCTL of the wave's context. -/
def State.dbgCtl (s : State) (w : Wave) : BitVec 5 :=
  match s.gangs.find w.gang with
  | none => 0
  | some g => match s.ctxs.find g.ctx with
    | none => 0
    | some c => c.regs.dbg.ctl

/-- Does STEP cover the wave at this issue slot: user mode, STEP set, and a match (R371)? -/
def State.steps (s : State) (w : Wave) : Bool :=
  !w.sys.sup && (s.dbgCtl w).getLsbD 4 && s.dbgMatch w

/-- A user-mode instruction retires: a matching wave with STEP set gains step-pending (R371). -/
def State.retired (s : State) (w : Wave) : Wave :=
  if s.steps w then { w with sys := { w.sys with stepPend := true } } else w

/-- Retire with the PC given. -/
def State.retireAt (s : State) (k : Nat) (w : Wave) (pc : W64) : State :=
  s.setWave k (s.retired { w with pc := pc })

/-- Retire and go on at the next instruction (R123). -/
def State.retire (s : State) (k : Nat) (w : Wave) (len : Nat) : State :=
  s.retireAt k w (w.pc + BitVec.ofNat 64 len)

/-- Run a meaning on the wave at its issue slot. -/
def onWave (s : State) (f : Nat → Wave → Out) : Out :=
  match s.cur with
  | none => .refused .noWave
  | some k => match s.waves.find k with
    | none => .refused .noWave
    | some w => f k w

/-- A group-wide instruction: with a guard that does not hold it does nothing and the wave goes on
(R8, R124). -/
def onGroup (s : State) (o : WOp) (f : Nat → Wave → Out) : Out :=
  onWave s (fun k w => if w.guardGrp o.guard then f k w else .next (s.retire k w o.len))

/-- Nothing happens in this slot: the instruction waits for an earlier access of its wave, and
re-issues (R104, R108, R237, R257). -/
def stall (s : State) : Out := .next s

/-! ## Segments (R96, R114, R116) -/

/-- The occupied wave slots of a partition. -/
def State.occupied (s : State) (part : Nat) : List Nat :=
  s.waves.keys.filter (fun k => diePart s.pkg.cur (coreDie (slotCore k)) = part)

/-- PH advances once every slot occupied at the last advance has advanced its counter (R116). -/
def State.phNote (s : State) (slot : Nat) : State :=
  let part := diePart s.pkg.cur (coreDie (slotCore slot))
  let pend := (s.pkg.phPend.getD part []).filter (· != slot)
  if pend = [] then
    { s with pkg := { s.pkg with
        ph := s.pkg.ph.put part (s.pkg.ph.getD part 0 + 1)
        phPend := s.pkg.phPend.put part (s.occupied part) } }
  else { s with pkg := { s.pkg with phPend := s.pkg.phPend.put part pend } }

/-- Advance a slot's segment counter (R114). -/
def State.segment (s : State) (slot : Nat) : State :=
  { s with curseg := s.curseg.put slot (s.curseg.getD slot 0 + 1) }.phNote slot

/-! ## Traps (R359, R360, R374) -/

/-- Pack words into a record, first word least significant. -/
def packWords (ws : List W64) : Nat := natOf (ws.flatMap (fun w => bytesOf 8 w.toNat))

/-- The trap record of R137 and R360. -/
def trapRec (w : Wave) (cause detail sub : Nat) (insn0 insn1 t6 t7 : W64) : BitVec 512 :=
  let t0 := cause + detail * 2 ^ 16 + (if w.w64 then 2 ^ 24 else 0)
    + (if w.sys.sup then 2 ^ 25 else 0) + (if insn0.getLsbD 8 then 2 ^ 26 else 0)
    + (sub % 2 ^ 16) * 2 ^ 32 + (w.stack.length % 2 ^ 6) * 2 ^ 48
  BitVec.ofNat 512 (packWords [BitVec.ofNat 64 t0, w.pc, insn0, insn1, w.exm,
    w.regs.flags ++ w.regs.mode, t6, t7])

/-- The context of a wave. -/
def State.ctxOf (s : State) (w : Wave) : Nat := ((s.gangs.find w.gang).map (·.ctx)).getD 0

/-- The event record header fields of a wave (R374). -/
def State.eventOf (s : State) (w : Wave) (kind : Nat) (payload : List Byte) : Event :=
  match s.gangs.find w.gang with
  | some g => { kind := kind, token := 0, launch := g.launch, gangId := g.gangId, gangWg := w.wg,
                slot := 0, payload := payload }
  | none => { kind := kind, token := 0, launch := 0, gangId := 0, gangWg := 0, slot := 0,
              payload := payload }

/-- The walker instruction that a wave re-issues next (R363, R364). -/
def Wave.reissue (w : Wave) : Option WalkRec :=
  if w.sys.resume.isSome then w.sys.walk.head?.filter (fun r => r.pc = w.pc) else none

/-- The PC behind an instruction, by its first word. -/
def pcAfter (pc w0 : W64) : W64 := pc + (if w0.getLsbD 8 then 16 else 8)

/-- A stopped wave with its recorded walker instructions back as its next ones: they re-issue before every
other, and the wave then goes on at the PC at which it stopped (R363, R364). -/
def Wave.rewind (w : Wave) : Wave :=
  match w.sys.walk, w.sys.resume with
  | r :: _, none => { w with pc := r.pc, exm := r.exm, sys := { w.sys with resume := some w.pc } }
  | _, _ => w

/-- A wave past a walker instruction that it has re-issued: at the next recorded one, or where it stopped. -/
def Wave.pastReissue (w : Wave) : Wave :=
  match w.sys.walk, w.sys.resume with
  | r :: t, some x =>
    if w.pc = pcAfter r.pc r.w0 then
      { w with pc := (t.head?.map (·.pc)).getD x
               sys := { w.sys with walk := t, resume := if t.isEmpty then none else some x } }
    else w
  | _, _ => w

/-- A wave as an image holds it: one stopped while it re-issues stands at the PC at which it goes on, and the
walker instructions yet to re-issue are recorded (R363, R367). -/
def Wave.saved (w : Wave) : Wave :=
  match w.sys.resume with
  | some x => { w with pc := x, wait := none, sys := { w.sys with resume := none } }
  | none => w

/-- Post an event record, to be written when the ring has room (R374). -/
def State.post (s : State) (ctx : Nat) (e : Event) : State :=
  s.modCtx ctx (fun c => { c with events := c.events ++ [e] })

/-- Ask for every level of a context to be cancelled (R374): level 0 stands for all. -/
def State.cancelAll (s : State) (ctx : Nat) : State :=
  { s with cancels := s.cancels ++
      [{ io := s.servingIo ctx 0, ctx := ctx, level := 0, target := 0, queue := none }] }

/-- The context of a wave fails (R374): the record of kind 3 carries the trap record of the trap
that could not be handled, the wave stops for good, and every level of the context is cancelled. -/
def failContext (s : State) (k : Nat) (w : Wave) (r : BitVec 512) : State :=
  let c := s.ctxOf w
  ((s.setWave k { w with stopped := true, preempt := false }).post c (s.eventOf w 3 (bytesOf 64 r.toNat))).modCtx c
    (fun x => { x with failed := true }) |>.cancelAll c

/-- Take a whole-wave trap (R359): the record is written, the wave enters its trap handler in
supervisor mode with no walker instruction left to re-issue, and nothing else changes. A trap in the trap handler,
or in a context with no handler, makes the context fail (R42, R374). -/
def takeTrap (s : State) (k : Nat) (w : Wave) (r : BitVec 512) : State :=
  let tc := ((s.ctxs.find (s.ctxOf w)).map (fun c => (c.tcode, c.tlen))).getD (0, 0)
  if w.sys.inTrap || tc.2 = 0 then failContext s k w r
  else s.setWave k { w with
    pc := tc.1
    wait := none
    pointed := false
    sys := { w.sys with sup := true, inTrap := true, trec := r, walk := [], resume := none } }

/-- Take a trap at the instruction just issued, whose words stand in the record. -/
def trapWith (s : State) (k : Nat) (w : Wave) (cause detail sub : Nat) (t6 t7 : W64) : Out :=
  .next (takeTrap s k w (trapRec w cause detail sub s.insn.1 s.insn.2 t6 t7))

/-- ILLEGAL with DETAIL 8: an operand's value failed; `lo` is the lowest bit of the field that names
it (R137). -/
def illegalOp (s : State) (k : Nat) (w : Wave) (lo hi : Nat) : Out :=
  trapWith s k w 2 8 0 0 (BitVec.ofNat 64 (lo + hi * 2 ^ 8))

/-- ILLEGAL with DETAIL 8 for an operand field of 8 bits. -/
def illegalField (s : State) (k : Nat) (w : Wave) (lo : Nat) : Out := illegalOp s k w lo (lo + 7)

/-! ## Parking (R33, R352, R353) -/

/-- A fault of a lane's access: the fields of the record of R352. -/
structure LFault where
  cause : Nat
  kind : Nat
  size : Nat
  space : Nat
  addr : Nat
  v0 : Nat
  v1 : Nat
  v2 : Nat
  v3 : Nat
  deriving DecidableEq, Repr, Inhabited

/-- A fault with no values. -/
def LFault.mk0 (cause kind size space addr : Nat) : LFault :=
  ⟨cause, kind, size, space, addr, 0, 0, 0, 0⟩

/-- log2 of an access size (R352). -/
def sizeLog (n : Nat) : Nat := if n ≤ 1 then 0 else Nat.log2 (n - 1) + 1

/-- The lane fault record (R352): SIZE is three bits, so an access of more than 128 bytes leaves its low
bits there. -/
def LFault.record (f : LFault) (pc : W64) : BitVec 512 :=
  BitVec.ofNat 512 (packWords [pc,
    BitVec.ofNat 64 (f.cause + f.kind * 2 ^ 16 + f.size % 8 * 2 ^ 20 + f.space * 2 ^ 23),
    BitVec.ofNat 64 f.addr, BitVec.ofNat 64 f.v0, BitVec.ofNat 64 f.v1, BitVec.ofNat 64 f.v2,
    BitVec.ofNat 64 f.v3, 0])

/-- Park one lane (R33): its record is written, PARK gains it and EXM loses it. -/
def Wave.parkLane (w : Wave) (l : Nat) (f : LFault) : Wave :=
  { w with
    park := w.park ||| (1#64 <<< l)
    exm := w.exm &&& ~~~(1#64 <<< l)
    sys := { w.sys with frec := w.sys.frec.put l (f.record w.pc) } }

/-- Park lanes, in order. -/
def Wave.parkAll (w : Wave) (fs : List (Nat × LFault)) : Wave :=
  fs.foldl (fun x p => x.parkLane p.1 p.2) w

/-- The end of a vector memory instruction: `s0` and `w0` before it, `s1` and `w1` with the effects of
the lanes that passed, and the faults of the others in ascending lane order. Faulting lanes park and
the wave goes on (R33); in the lane handler the instruction changes nothing and takes LANE.DOUBLE
(R36, R360). -/
def endLanes (s0 : State) (w0 : Wave) (s1 : State) (k : Nat) (w1 : Wave) (len : Nat)
    (fs : List (Nat × LFault)) : Out :=
  match fs with
  | [] => .next (s1.retire k w1 len)
  | (_, f) :: _ =>
    if w0.sys.sup then
      trapWith s0 k w0 0x000A f.kind f.cause (BitVec.ofNat 64 f.addr) (maskOf (fs.map (·.1)))
    else .next (s1.retire k (w1.parkAll fs) len)

/-- A fault of a wave form (R243): a whole-wave trap with the cause itself, or LANE.DOUBLE in the
lane handler (R36, R360). -/
def waveFault (s : State) (k : Nat) (w : Wave) (f : LFault) : Out :=
  if w.sys.sup then trapWith s k w 0x000A f.kind f.cause (BitVec.ofNat 64 f.addr) 0
  else trapWith s k w f.cause f.kind 0 (BitVec.ofNat 64 f.addr) (BitVec.ofNat 64 f.v0)

/-! ## The convergence stack (R29-R32) -/

/-- PCW holds PC[54:3]; the rest of the target is its sign extension, and bits [2:0] are zero
(R29). -/
def pcw (pc : W64) : W64 := ((pc.extractLsb' 3 52).signExtend 61) ++ 0#3

/-- Push an entry; none when the stack is full (R32). -/
def Wave.push (w : Wave) (kind : BitVec 2) (mask pc : W64) : Option Wave :=
  if 32 ≤ w.stack.length then none
  else some { w with stack := { mask := mask, pc := pcw pc, kind := kind } :: w.stack }

/-- Lanes leave LIVE: their bits leave every stack entry (R29). -/
def Wave.dropLive (w : Wave) (e : W64) : Wave :=
  { w with live := w.live &&& ~~~e
           stack := w.stack.map (fun x => { x with mask := x.mask &&& ~~~e }) }

/-- Pop a JOIN or PATH entry (R31): the wave after it, or the trap cause. `next` is the address after
the popping instruction. -/
def Wave.pop (w : Wave) (next : W64) : Except Nat Wave :=
  match w.stack with
  | [] => .error 0x0006
  | e :: t =>
    if e.kind = 1 then .ok (({ w with stack := t, pc := e.pc }).setExm e.mask)
    else if e.kind = 0 then .ok (({ w with stack := t, pc := next }).setExm e.mask)
    else .error 0x0007

/-! ## The lane handler (R35-R37) -/

/-- The lowest PC recorded among lanes (R37). -/
def Wave.lowestPc (w : Wave) (m : W64) : Option Nat :=
  minBy id ((lanesOf w.width m).map (fun l => (w.sys.frec.getD l 0).toNat % 2 ^ 64))

/-- start-next-replay (R37). -/
def Wave.startReplay (w : Wave) : Wave :=
  match w.lowestPc w.rpl with
  | some p =>
    let grp := maskOf ((lanesOf w.width w.rpl).filter
      (fun l => (w.sys.frec.getD l 0).toNat % 2 ^ 64 = p))
    ({ w with rpl := w.rpl &&& ~~~grp, pc := BitVec.ofNat 64 p }).setExm grp
  | none =>
    match w.stack with
    | e :: t => ({ w with stack := t, pc := w.stop }).setExm e.mask
    | [] => w

/-- Enter the lane handler at the convergence point at PC (R35), or the cause of the trap taken
instead: CVG.OVF or LANE.UNHANDLED. -/
def Wave.enterLane (w : Wave) (handler : W64) : Except Nat Wave :=
  if handler = 0 then .error 0x0009
  else match w.push 2 (w.exm ||| w.park) w.pc with
    | none => .error 0x0005
    | some x => .ok { x with
        hretPc := w.pc
        hretExm := w.exm
        exm := w.park
        pc := handler
        sys := { x.sys with sup := true, inLane := true, hdepth := x.stack.length } }

/-- `RTT` in the lane handler (R36): the parked lanes left out of EXM end, and the others replay. -/
def Wave.leaveLane (w : Wave) : Wave :=
  let kk := w.exm &&& w.park
  ({ w.dropLive (w.park &&& ~~~kk) with
      park := 0
      rpl := kk
      stop := w.hretPc
      sys := { w.sys with sup := false, inLane := false } }).startReplay

/-! ## Leaving the trap handler (R362) -/

/-- TREC fields that the returns use: PC, INSN0, PRIV, TDEPTH and CAUSE (R137, R360). -/
def Wave.trecPc (w : Wave) : W64 := w.sys.trec.extractLsb' 64 64
def Wave.trecX (w : Wave) : Bool := w.sys.trec.getLsbD 136
def Wave.trecPriv (w : Wave) : Bool := w.sys.trec.getLsbD 25
def Wave.trecDepth (w : Wave) : Nat := (w.sys.trec.extractLsb' 48 6).toNat

/-- Leave the trap handler for the address t: EXM is ANDed with the permitted lanes of the level
returned to, and the next issue slot raises no breakpoint (R362). -/
def Wave.leaveTrap (w : Wave) (t : W64) : Wave :=
  { w with
    exm := w.exm &&& w.live &&& (if w.trecPriv then w.park else ~~~w.park)
    pc := t
    sys := { w.sys with sup := w.trecPriv, inTrap := false, bpSupp := true } }

/-- Return from the trap handler to t, unless the stack depth changed: then the context fails (R362,
R374). -/
def trapReturn (s : State) (k : Nat) (w : Wave) (t : W64) : Out :=
  if w.stack.length = w.trecDepth then .next (s.setWave k (w.leaveTrap t))
  else .next (failContext s k w w.sys.trec)

end Sys2Proof.Machine
end

