-- ==== Sys2Proof/Machine/Flags.lean ====
section
/-! DEFINITION. `MODE`, `FLAGS` and the arithmetic-exception trap (R55-R61, R139, R140, R360). -/

namespace Sys2Proof.Machine

/-- MODE.RM (R55). -/
def modeRm (m : W32) : Rm := rmOf (m.extractLsb' 0 2).toNat
def modeFtz (m : W32) : Bool := m.getLsbD 2
def modeDaz (m : W32) : Bool := m.getLsbD 3
def modeLegFma (m : W32) : Bool := m.getLsbD 4
def modeLegMm (m : W32) : Bool := m.getLsbD 5

/-- The fields of MODE that software may set; the rest read zero (R55, R6). -/
def modeMask : W32 := 0x00001F3F
/-- The fields of FLAGS (R56). -/
def flagsMask : W32 := 0x00001F1F

/-- The rounding of an instruction: a named mode 1-4, or MODE.RM (R57, R129). -/
def rmSel (mode : W32) (rnd : Nat) : Rm := if rnd = 0 then modeRm mode else rmOf (rnd - 1)

/-- The conditions of a set of flags whose enable bit is 1, in FLAGS order (R61). -/
def enabledOf (mode fl : W32) : W32 := (mode >>> 8) &&& fl &&& 0x1F

/-- DETAIL of an ARITH trap (R360). -/
def arithDetail (en : W32) (grp : Bool) : Nat := en.toNat + (if grp then 128 else 0)

end Sys2Proof.Machine
end

