-- ==== Sys2Proof/Machine/Operands.lean ====
section
/-! DEFINITION. The operand forms of the computing instructions (R122, R125-R127, R147-R149): one
lane of a vector form or the group-wide datapath, registers, broadcast, immediates, predicates, and
the frame in which a result and its flags are written. -/

namespace Sys2Proof.Machine

/-- Where an instruction acts: a lane, or the group-wide datapath (R124, R147). -/
inductive Cell where
  | lane (l : Nat)
  | grp
  deriving DecidableEq, Repr, Inhabited

/-- The cells of an instruction: the active lanes, or the group-wide cell when its guard holds
(R8, R147). -/
def Wave.cells (w : Wave) (o : WOp) : List Cell :=
  if o.grp then (if w.guardGrp o.guard then [.grp] else [])
  else (w.active o.guard).map .lane

/-- A register operand as bits: a V register or pair, or a G register, of which a 32-bit type takes
the low half (R147). -/
def Wave.reg (w : Wave) (c : Cell) (w64 : Bool) (r : Nat) : Nat :=
  match c with
  | .lane l => w.vgrp (if w64 then 2 else 1) r l
  | .grp => if w64 then (w.greg r).toNat else (w.greg r).toNat % 2 ^ 32

/-- Operand B: the immediate of word 1, a broadcast G register, or a register (R126, R127). -/
def Wave.srcB (w : Wave) (o : WOp) (c : Cell) (w64 : Bool) : Nat :=
  match o.ext with
  | some x => if w64 then x.toNat else x.toNat % 2 ^ 32
  | none => if o.sB then w.reg .grp w64 o.b.toNat else w.reg c w64 o.b.toNat

/-- Sign-extend 32 bits to 64. -/
def sext32 (x : Nat) : W64 := (BitVec.ofNat 32 x).signExtend 64

/-- Write a result: a V register or pair, or a G register, where a 32-bit result is extended with
bit 31 for an INT32 value and with zeros otherwise (R147). -/
def Wave.setReg (w : Wave) (c : Cell) (w64 sgn : Bool) (r x : Nat) : Wave :=
  match c with
  | .lane l => w.setVgrp (if w64 then 2 else 1) r l x
  | .grp => w.setG r (if w64 then BitVec.ofNat 64 x
      else if sgn then sext32 x else BitVec.ofNat 64 (x % 2 ^ 32))

/-- A source predicate named by a field of R124: P or GP in a lane, GP in the group-wide form. -/
def Wave.srcP (w : Wave) (c : Cell) (n : Nat) : Bool :=
  match c with
  | .lane l => w.predAt n l
  | .grp => w.gpred (n - 64)

/-- Write a destination predicate: P in a lane, GP in the group-wide form (R147). -/
def Wave.setPred (w : Wave) (c : Cell) (n : Nat) (b : Bool) : Wave :=
  match c with
  | .lane l => w.setPL n l b
  | .grp => w.setGP (n - 64) b

/-- A predicate field with negation in its bit 7; 127 is the constant true where offered (R161,
R162). -/
def Wave.srcPC (w : Wave) (c : Cell) (f : BitVec 8) : Bool :=
  let n := (f.extractLsb' 0 7).toNat
  (if n = 127 then true else w.srcP c n) != f.getLsbD 7

/-! ## Elements of a TYPE (R53, R129) -/

/-- Elements in a value of a TYPE. -/
def tyCount (t : Nat) : Nat :=
  match t with
  | 4 => 2 | 5 => 2 | 6 => 4 | 7 => 4 | 10 => 2 | 11 => 2 | _ => 1

/-- Bits of an element of a TYPE. -/
def tyWidth (t : Nat) : Nat :=
  match t with
  | 2 => 64 | 3 => 64 | 4 => 16 | 5 => 16 | 6 => 8 | 7 => 8 | 9 => 64 | 10 => 16 | 11 => 16 | _ => 32

/-- Are a TYPE's integers signed? -/
def tySigned (t : Nat) : Bool := t % 2 = 0

/-- The float format of a TYPE (R129). -/
def tyFmt (t : Nat) : Fmt :=
  match t with
  | 8 => fmtOf 10 | 9 => fmtOf 11 | 10 => fmtOf 9 | _ => fmtOf 8

/-- Element i of a packed value. -/
def elem (t x i : Nat) : Nat := x / 2 ^ (tyWidth t * i) % 2 ^ tyWidth t

/-- An element's integer value under a TYPE. -/
def elemInt (t x i : Nat) : Int :=
  if tySigned t then sgnN (elem t x i) (tyWidth t) else (elem t x i : Nat)

/-- Pack element results, element 0 lowest. -/
def packElems (t : Nat) (xs : List Nat) : Nat :=
  (xs.zipIdx).foldl (fun acc p => acc + p.1 % 2 ^ tyWidth t * 2 ^ (tyWidth t * p.2)) 0

/-- Apply an element function to every element, collecting flags. -/
def perElem (t : Nat) (f : Nat → Nat × W32) : Nat × W32 :=
  let rs := (List.range (tyCount t)).map f
  (packElems t (rs.map (·.1)), rs.foldl (fun acc r => acc ||| r.2) 0)

/-! ## The frame of a computing instruction -/

/-- The lanes of a list of cells. -/
def cellMask (cs : List Cell) : W64 :=
  cs.foldl (fun m c => match c with
    | .lane l => m ||| (1#64 <<< l)
    | .grp => m) 0

/-- Every cell computes from the wave as it was; an enabled exception in any cell traps the wave with
nothing written (R61, R150); else every cell's result is written and the flags are gathered. -/
def runCells {α : Type} (o : WOp) (s : State) (f : Wave → Cell → α × W32)
    (wr : Wave → Cell → α → Wave) : Out :=
  onWave s (fun k w =>
    let rs := (w.cells o).map (fun c => (c, f w c))
    let en := rs.foldl (fun acc r => acc ||| enabledOf w.regs.mode r.2.2) 0
    if en = 0 then
      let w1 := rs.foldl (fun x r => (wr x r.1 r.2.1).orFlags r.2.2) w
      .next (s.retire k w1 o.len)
    else
      let bad := (rs.filter (fun r => enabledOf w.regs.mode r.2.2 != 0)).map (·.1)
      trapWith s k w 0x0004 (arithDetail en o.grp) 0 (cellMask bad) 0)

/-- A result in D of the TYPE's width. -/
def runAlu (o : WOp) (s : State) (f : Wave → Cell → Nat × W32) : Out :=
  runCells o s f (fun w c x => w.setReg c (ty64 o.ty) (o.ty = 0) o.d.toNat x)

/-- A predicate result in D. -/
def runPred (o : WOp) (s : State) (f : Wave → Cell → Bool × W32) : Out :=
  runCells o s f (fun w c b => w.setPred c o.d.toNat b)

/-- Operand A, B or C of the TYPE. -/
def Wave.opA (w : Wave) (o : WOp) (c : Cell) : Nat := w.reg c (ty64 o.ty) o.a.toNat
def Wave.opB (w : Wave) (o : WOp) (c : Cell) : Nat := w.srcB o c (ty64 o.ty)
def Wave.opC (w : Wave) (o : WOp) (c : Cell) : Nat := w.reg c (ty64 o.ty) o.c.toNat

end Sys2Proof.Machine
end

