-- ==== Sys2Proof/Machine/Alu.lean ====
section
/-! DEFINITION. Integer, logic and predicate instructions (R147-R165). -/

namespace Sys2Proof.Machine

/-- Smallest and largest value of an integer element of a TYPE. -/
def tyRange (t : Nat) : Int × Int :=
  if tySigned t then (-(2 ^ (tyWidth t - 1) : Int), 2 ^ (tyWidth t - 1) - 1)
  else (0, 2 ^ tyWidth t - 1)

/-- The SAT rule of R151 on an exact result. -/
def satRule (t : Nat) (sat : Bool) (x : Int) : Nat × W32 :=
  let (lo, hi) := tyRange t
  let y := clampInt lo hi x
  if sat then (intCode (tyWidth t) y, flIf (decide (x ≠ y)) flISAT)
  else (intCode (tyWidth t) x, 0)

/-- An integer instruction on two operands, element by element, under the SAT rule. -/
def intOp2 (o : WOp) (s : State) (f : Int → Int → Int) : Out :=
  runAlu o s (fun w c =>
    let a := w.opA o c
    let b := w.opB o c
    perElem o.ty (fun i => satRule o.ty o.sat (f (elemInt o.ty a i) (elemInt o.ty b i))))

/-- An integer instruction on one operand, element by element, under the SAT rule. -/
def intOp1 (o : WOp) (s : State) (f : Int → Int) : Out :=
  runAlu o s (fun w c =>
    let a := w.opA o c
    perElem o.ty (fun i => satRule o.ty o.sat (f (elemInt o.ty a i))))

/-- An instruction on the bits of two operands of the TYPE's width, with no flag. -/
def bitOp2 (o : WOp) (s : State) (f : Nat → Nat → Nat) : Out :=
  runAlu o s (fun w c => (f (w.opA o c) (w.opB o c) % 2 ^ tyWidth o.ty, 0))

/-- An instruction on the bits of one operand, with no flag. -/
def bitOp1 (o : WOp) (s : State) (f : Nat → Nat) : Out :=
  runAlu o s (fun w c => (f (w.opA o c) % 2 ^ tyWidth o.ty, 0))

/-- An instruction on the bits of three operands, with no flag. -/
def bitOp3 (o : WOp) (s : State) (f : Nat → Nat → Nat → Nat) : Out :=
  runAlu o s (fun w c => (f (w.opA o c) (w.opB o c) (w.opC o c) % 2 ^ tyWidth o.ty, 0))

/-! ## Arithmetic (R151-R153) -/

def execIadd (o : WOp) (s : State) : Out := intOp2 o s (fun a b => a + b)
def execIsub (o : WOp) (s : State) : Out := intOp2 o s (fun a b => a - b)
def execIneg (o : WOp) (s : State) : Out := intOp1 o s (fun a => -a)
def execIabs (o : WOp) (s : State) : Out := intOp1 o s (fun a => a.natAbs)

/-- IMUL, and IMUL.hi for the high half of the exact product (R152). -/
def execImul (o : WOp) (s : State) : Out :=
  if o.m.getLsbD 5 then
    runAlu o s (fun w c =>
      let x := elemInt o.ty (w.opA o c) 0 * elemInt o.ty (w.opB o c) 0
      (intCode (tyWidth o.ty) (x / (2 ^ tyWidth o.ty : Int)), 0))
  else intOp2 o s (fun a b => a * b)

/-- IMAD, and IMAD.wide with a 64-bit C and D (R152). -/
def execImad (o : WOp) (s : State) : Out :=
  if o.m.getLsbD 6 then
    runCells o s (fun w c =>
        let x := elemInt o.ty (w.opA o c) 0 * elemInt o.ty (w.opB o c) 0
          + (w.reg c true o.c.toNat : Nat)
        (intCode 64 x, 0))
      (fun w c x => w.setReg c true false o.d.toNat x)
  else
    runAlu o s (fun w c => satRule o.ty o.sat
      (elemInt o.ty (w.opA o c) 0 * elemInt o.ty (w.opB o c) 0 + elemInt o.ty (w.opC o c) 0))

def execImin (o : WOp) (s : State) : Out := intOp2 o s (fun a b => if b < a then b else a)
def execImax (o : WOp) (s : State) : Out := intOp2 o s (fun a b => if a < b then b else a)

/-! ## Logic (R154, R155) -/

/-- The ones of a TYPE's width. -/
def onesOf (t : Nat) : Nat := 2 ^ tyWidth t - 1

def execAnd (o : WOp) (s : State) : Out := bitOp2 o s (fun a b => a &&& b)
def execOr (o : WOp) (s : State) : Out := bitOp2 o s (fun a b => a ||| b)
def execXor (o : WOp) (s : State) : Out := bitOp2 o s (fun a b => a ^^^ b)
def execNot (o : WOp) (s : State) : Out := bitOp1 o s (fun a => a ^^^ onesOf o.ty)
def execAndn (o : WOp) (s : State) : Out := bitOp2 o s (fun a b => a &&& (b ^^^ onesOf o.ty))

/-- The bits at which a three-input table gives 1 (R155). -/
def bool3 (t f a b c : Nat) : Nat :=
  (List.range (tyWidth t)).foldl (fun acc j =>
    let k := a / 2 ^ j % 2 + 2 * (b / 2 ^ j % 2) + 4 * (c / 2 ^ j % 2)
    acc + f / 2 ^ k % 2 * 2 ^ j) 0

def execBool3 (o : WOp) (s : State) : Out :=
  bitOp3 o s (fun a b c => bool3 o.ty o.table.toNat a b c)

/-! ## Shifts and fields (R156-R159) -/

/-- The amount of a shift: B[31:0], unsigned (R156). -/
def shAmount (b : Nat) : Nat := b % 2 ^ 32

def execShl (o : WOp) (s : State) : Out :=
  bitOp2 o s (fun a b => if shAmount b < tyWidth o.ty then a * 2 ^ shAmount b else 0)

def execShr (o : WOp) (s : State) : Out :=
  bitOp2 o s (fun a b => if shAmount b < tyWidth o.ty then a / 2 ^ shAmount b else 0)

/-- Arithmetic shift right over w bits; from w on, every bit is the sign (R156). -/
def sarBits (w a n : Nat) : Nat :=
  intCode w (sgnN a w / (2 ^ (if n < w then n else w) : Int))

def execSar (o : WOp) (s : State) : Out :=
  bitOp2 o s (fun a b => sarBits (tyWidth o.ty) a (shAmount b))

/-- The funnel shift of B:A (R157). -/
def funnel (w : Nat) (left : Bool) (a b n : Nat) : Nat :=
  let x := b * 2 ^ w + a
  let k := if n < w then n else w
  if left then x * 2 ^ k / 2 ^ w % 2 ^ w else x / 2 ^ k % 2 ^ w

def execShf (o : WOp) (s : State) : Out :=
  runAlu o s (fun w c =>
    let n := if o.m.getLsbD 6 then o.c.toNat else w.opC o c % 2 ^ 32
    (funnel (tyWidth o.ty) (o.m.getLsbD 5) (w.opA o c) (w.opB o c) n, 0))

/-- BFE over w bits (R158). -/
def bfe (w : Nat) (sgn : Bool) (a b : Nat) : Nat :=
  let pos := b % 2 ^ 8
  let len := b / 2 ^ 8 % 2 ^ 8
  let t := if pos + len < w then pos + len else w
  if len = 0 ∨ w ≤ pos then 0
  else
    let n := t - pos
    let f := a / 2 ^ pos % 2 ^ n
    if sgn then intCode w (sgnN f n) else f

def execBfe (o : WOp) (s : State) : Out :=
  bitOp2 o s (fun a b => bfe (tyWidth o.ty) (tySigned o.ty) a b)

/-- BFI over w bits (R158). -/
def bfi (w a b c : Nat) : Nat :=
  let pos := b % 2 ^ 8
  let len := b / 2 ^ 8 % 2 ^ 8
  let t := if pos + len < w then pos + len else w
  if len = 0 ∨ w ≤ pos then c
  else
    let m := (2 ^ (t - pos) - 1) * 2 ^ pos
    (c &&& ((2 ^ w - 1) ^^^ m)) ||| (a * 2 ^ pos &&& m)

def execBfi (o : WOp) (s : State) : Out := bitOp3 o s (fun a b c => bfi (tyWidth o.ty) a b c)

/-- One bits among the low w. -/
def popcount (w a : Nat) : Nat := ((List.range w).filter (bitN a)).length

def execPopc (o : WOp) (s : State) : Out := bitOp1 o s (fun a => popcount (tyWidth o.ty) a)
def execClz (o : WOp) (s : State) : Out :=
  bitOp1 o s (fun a => if a = 0 then tyWidth o.ty else tyWidth o.ty - 1 - Nat.log2 a)
def execBrev (o : WOp) (s : State) : Out :=
  bitOp1 o s (fun a => (List.range (tyWidth o.ty)).foldl (fun acc j =>
    acc + a / 2 ^ j % 2 * 2 ^ (tyWidth o.ty - 1 - j)) 0)

/-! ## Moves and selection (R160, R161) -/

def execMov (o : WOp) (s : State) : Out := runAlu o s (fun w c => (w.opB o c, 0))

/-- MOVI: the C field sign-extended, or word 1 (R160). -/
def execMovi (o : WOp) (s : State) : Out :=
  runAlu o s (fun w c =>
    (if o.ext.isSome then w.opB o c else (o.c.signExtend 64).toNat % 2 ^ tyWidth o.ty, 0))

def execSel (o : WOp) (s : State) : Out :=
  runAlu o s (fun w c => (if w.srcPC c o.c then w.opA o c else w.opB o c, 0))

/-! ## Comparisons and predicates (R162, R164) -/

/-- The conditions of ICMP (R162). -/
def icond (n : Nat) (a b : Int) : Bool :=
  match n with
  | 0 => decide (a = b)
  | 1 => decide (a ≠ b)
  | 2 => decide (a < b)
  | 3 => decide (a ≤ b)
  | 4 => decide (b < a)
  | _ => decide (b ≤ a)

/-- The combination of a comparison with the source predicate (R162). -/
def combine (o : WOp) (t q : Bool) : Bool := if o.fn.getLsbD 4 then t || q else t && q

def execIcmp (o : WOp) (s : State) : Out :=
  runPred o s (fun w c =>
    let t := icond (o.fn.extractLsb' 0 4).toNat (elemInt o.ty (w.opA o c) 0)
      (elemInt o.ty (w.opB o c) 0)
    (combine o t (w.srcPC c o.c), 0))

def execPbool (o : WOp) (s : State) : Out :=
  runPred o s (fun w c =>
    let k := (w.srcP c o.a.toNat).toNat + 2 * (w.srcP c o.b.toNat).toNat
      + 4 * (w.srcP c o.c.toNat).toNat
    (o.table.getLsbD k, 0))

/-! ## Dot products (R165) -/

/-- The dot product of packed elements, B's elements of the other signedness with `.mixb`. -/
def dotOf (t : Nat) (mixb : Bool) (a b : Nat) : Int :=
  (List.range (tyCount t)).foldl (fun acc i =>
    let y : Int := if tySigned t != mixb then sgnN (elem t b i) (tyWidth t) else (elem t b i : Nat)
    acc + elemInt t a i * y) 0

/-- IDP4 and IDP2: an INT32 result, sign-extended in a G register (R147, R165). -/
def idp (o : WOp) (s : State) : Out :=
  runCells o s (fun w c =>
      let x := sgnN (w.opC o c) 32 + dotOf o.ty (o.m.getLsbD 5) (w.opA o c) (w.opB o c)
      satRule 0 o.sat x)
    (fun w c x => w.setReg c false true o.d.toNat x)

def execIdp4 (o : WOp) (s : State) : Out := idp o s
def execIdp2 (o : WOp) (s : State) : Out := idp o s

end Sys2Proof.Machine
end

