-- ==== Sys2Proof/Machine/Mem.lean ====
section
/-! DEFINITION. Physical memory and the caches before it (R82-R86, R322, R376, R377): where an address
lies, its home, the dies' L2 (remote partition, victim buffer, DDR lines), the cores' L1 and
write-combining buffers, and release and acquire (R104, R119). -/

namespace Sys2Proof.Machine

/-! ## Where a physical address lies (R322, R376) -/

inductive PaKind where
  | hbm (dies : List Nat)
  | ddr (io : Nat)
  | host (off : Nat)
  | peer (k off : Nat)
  | absent
  deriving DecidableEq, Repr

def gib : Nat := 2 ^ 30

/-- The populated range that holds a PA. -/
def State.paKind (s : State) (pa : Nat) : PaKind :=
  match pa / 2 ^ 50 with
  | 0 => if pa < 384 * gib then .hbm [0, 1, 2, 3] else .absent
  | 1 =>
    let q := (pa - 2 ^ 50) / 2 ^ 40
    if q < 2 ∧ (pa - 2 ^ 50) % 2 ^ 40 < 192 * gib then .hbm [2 * q, 2 * q + 1] else .absent
  | 2 =>
    let c := (pa - 2 ^ 51) / 2 ^ 40
    if c < 4 ∧ (pa - 2 ^ 51) % 2 ^ 40 < 96 * gib then .hbm [c] else .absent
  | 3 =>
    if 0xF000000000000 ≤ pa then .absent
    else if 0xE000000000000 ≤ pa then
      .peer ((pa - 0xE000000000000) / 2 ^ 44) ((pa - 0xE000000000000) % 2 ^ 44)
    else if 0xD000000000000 ≤ pa then
      if pa - 0xD000000000000 < 2 ^ 47 then .host (pa - 0xD000000000000) else .absent
    else
      let i := (pa - 0xC000000000000) / 2 ^ 42
      if i < 2 ∧ (pa - 0xC000000000000) % 2 ^ 42 < (nth s.pkg.ddr i 0).toNat * 4 * gib then .ddr i
      else .absent
  | _ => .absent

/-- Is the PA in HBM or the DDR tier? -/
def PaKind.isMem : PaKind → Bool
  | .hbm _ => true
  | .ddr _ => true
  | _ => false

/-- A set of dies as a mask of physical dies, and back. -/
def dieMask (ds : List Nat) : Nat := ds.foldl (fun m d => m ||| 2 ^ d) 0
def maskDies (m : Nat) : List Nat := (List.range 4).filter (bitN m)

/-- The die of a list that is home to a PA (R84): PA[51:12] mod d. -/
def homeAmong (ds : List Nat) (pa : Nat) : Nat := nth ds (pa / 2 ^ 12 % ds.length) 0

/-- The home die of a line for a device of dies `dm` (R84, R377). -/
def State.homeDie (s : State) (dm pa : Nat) : Nat :=
  match s.paKind pa with
  | .hbm ds => homeAmong ds pa
  | _ => homeAmong (maskDies dm) pa

/-- The home slice of a line on its die (R84). -/
def sliceOf (pa : Nat) : Nat :=
  let l := pa / 2 ^ 7
  128 * (l % 3) + ((List.range 7).map (fun i => l / 2 ^ (7 * i) % 128)).foldl (· ^^^ ·) 0

/-- The L2 group of a line on its die (R396). -/
def groupOf (line : Nat) : Nat := sliceOf (line * 128) / 24

/-! ## Bytes of physical memory -/

/-- The byte of HBM that a PA names, as its address in the four-die window (R322): the pair and the
one-die windows overlay the same HBM, each by its own permutation of 64 KiB pages (log 15). A PA outside
HBM names itself. -/
def hbmAt (pa : Nat) : Nat :=
  let kind := pa / 2 ^ 50
  let w := if kind = 1 then 192 * gib else 96 * gib
  let x := pa % 2 ^ 40
  let page := (pa % 2 ^ 50 / 2 ^ 40 * w + x) / 2 ^ 16
  if (kind = 1 || kind = 2) && decide (x < w) then
    if h : page < 6291456 then (Config.hbmPage kind ⟨page, h⟩).val * 2 ^ 16 + pa % 2 ^ 16 else pa
  else pa

/-- What an address that no entry lists reads as: zero (HBM by R406; the rest log 1). -/
def memDflt : Byte := 0

def memGet (m : List Host.Cell) (a : Nat) : Byte := Map.getD m a memDflt
def memSet (m : List Host.Cell) (a : Nat) (b : Byte) : List Host.Cell := Map.set m a memDflt b

/-- n bytes from an address. -/
def memRead (m : List Host.Cell) (a n : Nat) : List Byte := (span a n).map (memGet m)

/-- Write bytes from an address. -/
def memWrite (m : List Host.Cell) : Nat → List Byte → List Host.Cell
  | _, [] => m
  | a, b :: t => memWrite (memSet m a b) (a + 1) t

def State.setMem (s : State) (m : List Host.Cell) : State := { s with mem := m }

/-- The byte of memory that a PA names. -/
def State.byteAt (s : State) (pa : Nat) : Byte := memGet s.mem (hbmAt pa)
/-- The 16 bytes of memory of a sector (PA ÷ 16). -/
def State.secAt (s : State) (sec : Nat) : List Byte := memRead s.mem (hbmAt (sec * 16)) 16

/-! ## The value at home: memory, with the DDR lines that L2 holds (R84, R377) -/

/-- Byte i of a 16-byte sector's data. -/
def secByte (d : W128) (i : Nat) : Byte := d.extractLsb' (8 * i) 8

/-- The bytes of a sector under a mask replace those below. -/
def overlay (mask : BitVec 16) (top bot : List Byte) : List Byte :=
  (List.range 16).map (fun i => if mask.getLsbD i then nth top i 0 else nth bot i 0)

def secBytes (d : W128) : List Byte := (List.range 16).map (secByte d)
def secData (bs : List Byte) : W128 := BitVec.ofNat 128 (natOf bs)

/-- Merge bytes into a sector. -/
def mergeSec (old : W128) (mask : BitVec 16) (new : W128) : W128 :=
  secData (overlay mask (secBytes new) (secBytes old))

/-- A sector at its home: DDR bytes that the home die's L2 or victim buffer still holds win over
memory. -/
def State.homeSec (s : State) (dm sec : Nat) : W128 :=
  let base := secData (s.secAt sec)
  match s.paKind (sec * 16) with
  | .ddr _ =>
    let d := s.die (s.homeDie dm (sec * 16))
    let v := match d.victim.find sec with
      | some x => mergeSec base x.mask x.data
      | none => base
    match d.ddr.find sec with
    | some x => mergeSec v x.mask x.data
    | none => v
  | _ => base

/-- Write bytes of a sector in memory. -/
def State.memSec (s : State) (sec : Nat) (mask : BitVec 16) (d : W128) : State :=
  s.setMem ((List.range 16).foldl
    (fun m i => if mask.getLsbD i then memSet m (hbmAt (sec * 16) + i) (secByte d i) else m) s.mem)

/-- Lines of a map of sectors (sector ÷ 8), other than one, that share its slice and set on a die. -/
def sameSet (m : Map Sector) (line : Nat) : List Nat :=
  (nubNat (m.keys.map (· / 8))).filter (fun l => l != line && sliceOf (l * 128) = sliceOf (line * 128)
    && Config.l2Set l % 128 = Config.l2Set line % 128)

/-- Move a line's dirty sectors to the victim buffer; its clean sectors are dropped (R86). -/
def Die.evict (d : Die) (fromDdr : Bool) (line : Nat) : Die :=
  let src := if fromDdr then d.ddr else d.remote
  let gone := src.filter (fun p => p.1 / 8 = line && p.2.mask != 0)
  let kept := src.filter (fun p => p.1 / 8 != line)
  let d1 : Die := { d with
    victim := gone.foldl (fun (v : Map Sector) (p : Nat × Sector) => v.put p.1 p.2) d.victim }
  if fromDdr then { d1 with ddr := kept } else { d1 with remote := kept }

/-- Bytes written back to a line's home reach the DDR sector that the home die still holds. -/
def Die.patch (d : Die) (sec : Nat) (mask : BitVec 16) (data : W128) : Die :=
  let up := fun (m : Map Sector) => match m.find sec with
    | some x => m.put sec { x with data := mergeSec x.data mask data }
    | none => m
  { d with ddr := up d.ddr, victim := up d.victim }

/-- Write back one victim sector of a die: to memory, and where its home die holds the DDR line, there
too. -/
def State.victimSec (s : State) (die sec : Nat) (x : Sector) : State :=
  let s1 := s.memSec sec x.mask x.data
  match s.paKind (sec * 16) with
  | .ddr _ =>
    let h := s.homeDie x.dev (sec * 16)
    if h = die then s1 else s1.setDie h ((s1.die h).patch sec x.mask x.data)
  | _ => s1

/-- Write back the victim sectors of a line to their homes, and free them (R86). -/
def State.victimBack (s : State) (die line : Nat) : State :=
  let d := s.die die
  let vs := d.victim.filter (fun p => p.1 / 8 = line)
  let s1 := s.setDie die { d with victim := d.victim.filter (fun p => p.1 / 8 != line) }
  vs.foldl (fun (x : State) (p : Nat × Sector) => x.victimSec die p.1 p.2) s1

/-- The lines (PA ÷ 128) into which a transfer or a gather job has open sector writes (R86). -/
def State.busyLines (s : State) : List Nat :=
  s.engines.flatMap (fun e => e.2.slots.flatMap (fun p => p.2.xfers.flatMap (fun x => x.busy.map (·.2))))
    ++ s.gjobs.flatMap (fun j => j.busy.map (·.2))

/-- Ways of a set that hold DDR lines homed on the die, or lines homed elsewhere (R85), for a device of
dies `dm`: a one-die device has no remote partition. -/
def waysOf (dm : Nat) (isDdr : Bool) : Nat :=
  if isDdr then (if (maskDies dm).length = 1 then 16 else 14) else 2

/-- The lines of a die's L2 of one sort. -/
def Die.lines (d : Die) (isDdr : Bool) : Map Sector := if isDdr then d.ddr else d.remote

/-- Has a set a way for a line: one that holds it, or one that is free? -/
def Die.hasWay (d : Die) (dm line : Nat) (isDdr : Bool) : Bool :=
  (d.lines isDdr).any (fun p => p.1 / 8 = line)
    || decide ((sameSet (d.lines isDdr) line).length < waysOf dm isDdr)

/-- Room for a line on a die (R85, R86): a write to a victim line waits for its write-back, and a full
set evicts a line that is not busy. A home line's set may evict a DDR line sooner, for HBM lines share
it. -/
def State.allocLine (s : State) (dm die line : Nat) (isDdr : Bool) : State :=
  let s0 := s.victimBack die line
  let d := s0.die die
  let full := !d.hasWay dm line isDdr
  let old := (sameSet (d.lines isDdr) line).filter (fun l => !s.busyLines.contains l)
  if (d.lines isDdr).any (fun p => p.1 / 8 = line) || old.isEmpty || (!full && !isDdr) then s0
  else
    let v := Config.l2Victim s.free % (old.length + 1)
    let s1 := s0.tick
    if full then s1.setDie die (d.evict isDdr (nth old (v % old.length) 0))
    else if v = 0 then s1 else s1.setDie die (d.evict isDdr (nth old (v - 1) 0))

/-- Write bytes of a sector at its home (R84, R377): HBM in memory, a DDR line in the home die's
L2. Where every way of the set is busy the request waits for one (R86), which is time: the bytes are then
written in memory, as an eviction right after would leave them (log 104). -/
def State.homeSecWrite (s : State) (dm sec : Nat) (mask : BitVec 16) (data : W128) : State :=
  match s.paKind (sec * 16) with
  | .ddr _ =>
    let h := s.homeDie dm (sec * 16)
    let s1 := s.allocLine dm h (sec / 8) true
    let d := s1.die h
    let old := d.ddr.getD sec { data := 0, mask := 0, share := 0, dev := dm, since := 0 }
    if d.hasWay dm (sec / 8) true then
      s1.setDie h { d with ddr := d.ddr.put sec { old with
          data := mergeSec old.data mask data, mask := old.mask ||| mask } }
    else s1.memSec sec mask data
  | _ => s.memSec sec mask data

/-! ## Observers and leaves -/

/-- Who makes an access: its context, its device's dies, its die, the core whose L1, write-combining
buffer and TLB it goes through (waves), and the wave slot and segment Loupe charges it to. -/
structure Obs where
  ctx : Nat
  dm : Nat
  die : Nat
  core : Option Nat
  slot : Option (Nat × BitVec 10)
  deriving DecidableEq, Repr, Inhabited

/-- What translation gives an access: the effective scope (R94), the atomic place, RC and EXTSIG. -/
structure Leaf where
  share : Nat
  ap : Nat
  rc : Bool
  extsig : Bool
  deriving DecidableEq, Repr, Inhabited

/-- Does the access bypass L1, write-combining buffer and remote partition: RC pages (R112), another
device's HBM (R322), DDR lines of scope SYS (R377), and the engines of the I/O dies, which stand
before no L2 (die numbers 4 and 5)? -/
def State.direct (s : State) (o : Obs) (lf : Leaf) (pa : Nat) : Bool :=
  lf.rc || decide (4 ≤ o.die) || (match s.paKind pa with
    | .hbm ds => dieMask ds != o.dm
    | .ddr _ => lf.share = 5
    | _ => true)

/-- A direct access is performed at the home slice, or at the DDR controller for scope SYS. -/
def State.directSec (s : State) (o : Obs) (lf : Leaf) (sec : Nat) : W128 :=
  if lf.share = 5 then
    match s.paKind (sec * 16) with
    | .ddr _ => secData (s.secAt sec)
    | _ => s.homeSec o.dm sec
  else s.homeSec o.dm sec

def State.directSecWrite (s : State) (o : Obs) (lf : Leaf) (sec : Nat) (mask : BitVec 16)
    (data : W128) : State :=
  if lf.share = 5 then
    match s.paKind (sec * 16) with
    | .ddr _ => s.memSec sec mask data
    | _ => s.homeSecWrite o.dm sec mask data
  else s.homeSecWrite o.dm sec mask data

/-! ## A die's L2 (R85) -/

/-- The scope with which a line of the remote partition was tagged at fill (R85), or that of the page
that fills it now. -/
def Die.lineTag (d : Die) (sec share : Nat) : Nat :=
  ((d.remote.find? (fun p => p.1 / 8 = sec / 8)).map (·.2.share)).getD share

/-- Put a sector into a line of the remote partition. -/
def Die.fill (d : Die) (dm share sec : Nat) (mask : BitVec 16) (data : W128) : Die :=
  { d with
    remote := d.remote.put sec ⟨data, mask, d.lineTag sec share, dm, 0⟩ }

/-- Read a sector through the die's L2: at home, or in the remote partition, which fetches it (unless
every way of the set is busy, R86: log 104). -/
def State.dieSec (s : State) (o : Obs) (lf : Leaf) (sec : Nat) : State × W128 :=
  if s.direct o lf (sec * 16) then (s, s.directSec o lf sec)
  else if s.homeDie o.dm (sec * 16) = o.die then (s, s.homeSec o.dm sec)
  else match (s.die o.die).remote.find sec with
    | some x => (s, x.data)
    | none => match (s.die o.die).victim.find sec with
      | some x => (s, mergeSec (s.homeSec o.dm sec) x.mask x.data)
      | none =>
        let v := s.homeSec o.dm sec
        let s1 := s.allocLine o.dm o.die (sec / 8) false
        (if (s1.die o.die).hasWay o.dm (sec / 8) false then s1.modDie o.die (·.fill o.dm lf.share sec 0 v)
         else s1, v)

/-- Write bytes of a sector through the die's L2: at home, or as dirty bytes of the remote
partition. -/
def State.dieSecWrite (s : State) (o : Obs) (lf : Leaf) (sec : Nat) (mask : BitVec 16)
    (data : W128) : State :=
  if s.direct o lf (sec * 16) then s.directSecWrite o lf sec mask data
  else if s.homeDie o.dm (sec * 16) = o.die then s.homeSecWrite o.dm sec mask data
  else
    let s0 := s.allocLine o.dm o.die (sec / 8) false
    if (s0.die o.die).hasWay o.dm (sec / 8) false then
      let (s1, old) := s0.dieSec o lf sec
      s1.modDie o.die (fun d =>
        let m := ((d.remote.find sec).map (·.mask)).getD 0
        d.fill o.dm lf.share sec (m ||| mask) (mergeSec old mask data))
    else s0.homeSecWrite o.dm sec mask data

/-- The fused L1s of a die that hold a sector of a CLUSTER page take bytes that another unit of the die
writes: an acquire leaves such lines, and must not leave them stale, or a race-free
program would not be sequentially consistent (R83, R99, R102, R109; log 103). -/
def State.fusedUpdate (s : State) (die share sec : Nat) (mask : BitVec 16) (data : W128) : State :=
  if share = 0 then
    { s with cores := s.cores.map (fun p =>
        match p.2.l1.find sec with
        | some x =>
          if coreDie p.1 = die && p.2.fused.isSome && decide (x.share = 0) then
            (p.1, { p.2 with l1 := p.2.l1.put sec { x with data := mergeSec x.data mask data } })
          else p
        | none => p) }
  else s

/-- The copies that a die's L2 holds of a sector take bytes. -/
def Die.takes (d : Die) (sec : Nat) (mask : BitVec 16) (data : W128) : Die :=
  let up := fun (m : Map Sector) => match m.find sec with
    | some x => m.put sec { x with data := mergeSec x.data mask data }
    | none => m
  { d with remote := up d.remote, victim := up d.victim }

/-- A write performed at the sector's home by a unit of the die (R109): the die's own copies take the
bytes too. -/
def State.engSecWrite (s : State) (o : Obs) (lf : Leaf) (sec : Nat) (mask : BitVec 16)
    (data : W128) : State :=
  if s.direct o lf (sec * 16) then s.directSecWrite o lf sec mask data
  else
    ((s.homeSecWrite o.dm sec mask data).fusedUpdate o.die lf.share sec mask data).modDie o.die
      (fun d => d.takes sec mask data)

/-- Bytes written at their home reach the copies that every die holds of their sector (R337). -/
def State.copiesTake (s : State) (sec : Nat) (mask : BitVec 16) (data : W128) : State :=
  { s with dies := s.dies.map (fun d => (d.1, d.2.takes sec mask data)) }

/-! ## A core's L1 and write-combining buffer (R82, R16) -/

/-- The core whose L1 holds a sector for a core: its own, or in a fused cluster the one that bits
[8:7] select (R16). -/
def State.l1Core (s : State) (c sec : Nat) : Nat :=
  if (s.core c).fused.isSome then clusterCore c (sec / 8 % 4) else c

/-- Update a sector that an L1 already holds (R82). -/
def State.l1Update (s : State) (lc sec : Nat) (mask : BitVec 16) (data : W128) : State :=
  match (s.core lc).l1.find sec with
  | some x => s.modCore lc (fun k => { k with
      l1 := k.l1.put sec { x with data := mergeSec x.data mask data } })
  | none => s

/-- Drain one entry of a core's write-combining buffer to L2 (R82); the L1 takes the bytes where it holds
the sector, which a load may have allocated since the store. -/
def State.drainSec (s : State) (o : Obs) (c sec : Nat) : State :=
  match (s.core c).wcb.find sec with
  | none => s
  | some x =>
    ((s.modCore c (fun k => { k with wcb := k.wcb.del sec })).l1Update (s.l1Core c sec) sec x.mask x.data).dieSecWrite
      { o with dm := x.dev, die := coreDie c }
      { share := x.share, ap := 1, rc := false, extsig := false } sec x.mask x.data

/-- Drain a core's write-combining buffer (R82). -/
def State.drainAll (s : State) (o : Obs) (c : Nat) : State :=
  (s.core c).wcb.keys.foldl (fun x sec => x.drainSec o c sec) s

/-- Drain the write-combining buffers of a die's cores (R104, R332). -/
def State.drainDie (s : State) (die : Nat) : State :=
  (s.cores.keys.filter (fun c => coreDie c = die)).foldl
    (fun x c => x.drainAll ⟨0, 0, die, none, none⟩ c) s

/-- Lines that L1 may hold: HBM and DDR pages whose AP is not HOST (R82), on no bypassing path. -/
def State.l1Able (s : State) (o : Obs) (lf : Leaf) (pa : Nat) : Bool :=
  (s.paKind pa).isMem && lf.ap != 2 && !s.direct o lf pa

/-- Room for a sector in an L1 of 128 KiB (R16): a sector may leave it, and one does when it is full. -/
def State.l1Room (s : State) (c : Nat) : State :=
  match (s.core c).l1 with
  | [] => s
  | p :: t =>
    let v := Config.l1Victim s.free % (t.length + 2)
    if v = 0 && decide (t.length + 1 < 8192) then s.tick
    else s.tick.modCore c (fun k => { k with l1 := k.l1.del (nth (p :: t) (v - 1) p).1 })

/-- Read a sector for a wave (R82): L1, else L2, with the core's buffered bytes forwarded; the sector
is allocated in L1 unless NA. -/
def State.coreSec (s : State) (o : Obs) (lf : Leaf) (na : Bool) (c sec : Nat) : State × W128 :=
  if s.direct o lf (sec * 16) then s.dieSec o lf sec
  else
    let lc := s.l1Core c sec
    let (s1, base) := match (s.core lc).l1.find sec with
      | some x => (s, x.data)
      | none =>
        let (s0, v) := s.dieSec o lf sec
        (if na || !s.l1Able o lf (sec * 16) then s0
         else (s0.l1Room lc).modCore lc (fun k => { k with
          l1 := k.l1.put sec { data := v, mask := 0, share := lf.share, dev := o.dm, since := 0 } }), v)
    match (s1.core c).wcb.find sec with
    | some x => (s1, mergeSec base x.mask x.data)
    | none => (s1, base)

/-- Store bytes of a sector for a wave (R82): L1 if held, then the write-combining buffer of
32 entries, which drains one when it is full: which one is a free value (log 11). -/
def State.coreSecWrite (s : State) (o : Obs) (lf : Leaf) (c sec : Nat) (mask : BitVec 16)
    (data : W128) : State :=
  if s.direct o lf (sec * 16) then s.directSecWrite o lf sec mask data
  else
    let s1 := s.l1Update (s.l1Core c sec) sec mask data
    let k := s1.core c
    match k.wcb.find sec with
    | some x =>
      let y : Sector := { x with data := mergeSec x.data mask data, mask := x.mask ||| mask }
      s1.setCore c { k with wcb := k.wcb.put sec y }
    | none =>
      let s2 := if k.wcb.length < 32 then s1
        else s1.tick.drainSec o c (nth k.wcb.keys (Config.wcbVictim s1.free % k.wcb.length) 0)
      let y : Sector := ⟨data, mask, lf.share, o.dm, k.cycle⟩
      s2.modCore c (fun k => { k with wcb := k.wcb.put sec y })

/-- A die's dirty copy of a sector homed elsewhere goes home, and stays clean: a synchronising access of
a wider scope is performed at the home slice (R101, R106). -/
def State.sendHome (s : State) (die sec : Nat) : State :=
  let s0 := s.victimBack die (sec / 8)
  match (s0.die die).remote.find sec with
  | some x =>
    (s0.homeSecWrite x.dev sec x.mask x.data).modDie die (fun d =>
      { d with remote := d.remote.put sec { x with mask := 0 } })
  | none => s0

/-- Is the serialisation point of a page's accesses the home slice, and not the accessing die's remote
partition (R101)? An RC page of scope DIE or CLUSTER homed elsewhere takes the direct path: the slice that
R101 names passes the line home in the same step, for ordinary accesses of the page bypass it (R112;
log 102). -/
def State.atHome (s : State) (o : Obs) (lf : Leaf) (sec : Nat) : Bool :=
  decide (1 < lf.share) && !s.direct o lf (sec * 16)

/-- Read a sector for a synchronising access, at its serialisation point (R101, R106): the core's own
buffered bytes of it drain first. -/
def State.placeSec (s : State) (o : Obs) (lf : Leaf) (sec : Nat) : State × W128 :=
  let s1 := match o.core with
    | some c => s.drainSec o c sec
    | none => s
  if s.atHome o lf sec then
    let s2 := s1.sendHome o.die sec
    (s2, s2.homeSec o.dm sec)
  else s1.dieSec o lf sec

/-- Write bytes of a sector at its serialisation point; L1 copies of the core, of a fused cluster, and for
a NEAR page of the place (R106), take them too. -/
def State.placeSecWrite (s : State) (o : Obs) (lf : Leaf) (sec : Nat) (mask : BitVec 16)
    (data : W128) : State :=
  let s1 := match o.core with
    | some c =>
      let s0 := (s.drainSec o c sec).l1Update (s.l1Core c sec) sec mask data
      if lf.ap = 0 && lf.share = 0 then s0.l1Update (s.nearCore c sec) sec mask data
      else s0
    | none => s.fusedUpdate o.die lf.share sec mask data
  if s.atHome o lf sec then (s1.sendHome o.die sec).engSecWrite o lf sec mask data
  else s1.dieSecWrite o lf sec mask data

/-! ## Ranges of bytes over sectors -/

/-- Split n bytes from an address into (sector, first byte in it, count). -/
def chunks : Nat → Nat → Nat → List (Nat × Nat × Nat)
  | 0, _, _ => []
  | fuel + 1, a, n =>
    if n = 0 then []
    else
      let k := if n < 16 - a % 16 then n else 16 - a % 16
      (a / 16, a % 16, k) :: chunks fuel (a + k) (n - k)

/-- The mask of k bytes from i. -/
def byteMask (i k : Nat) : BitVec 16 := BitVec.ofNat 16 ((2 ^ k - 1) * 2 ^ i)

/-- How a range is read or written. -/
inductive Path where
  | core (na : Bool) (c : Nat)
  | place
  | die
  | engine
  deriving DecidableEq, Repr

/-- Read n bytes at a PA along a path. -/
def State.pread (s : State) (o : Obs) (lf : Leaf) (p : Path) (pa n : Nat) : State × List Byte :=
  (chunks (n / 16 + 2) pa n).foldl (fun acc ch =>
    let (st, bs) := acc
    let (st', d) := match p with
      | .core na c => st.coreSec o lf na c ch.1
      | .place => st.placeSec o lf ch.1
      | .die => st.dieSec o lf ch.1
      | .engine => st.dieSec o lf ch.1
    (st', bs ++ ((secBytes d).drop ch.2.1).take ch.2.2)) (s, [])

/-- Write bytes at a PA along a path. -/
def State.pwrite (s : State) (o : Obs) (lf : Leaf) (p : Path) (pa : Nat) (bs : List Byte) : State :=
  ((chunks (bs.length / 16 + 2) pa bs.length).foldl (fun acc ch =>
    let (st, rest) := acc
    let data : W128 := BitVec.ofNat 128 (natOf (rest.take ch.2.2) * 2 ^ (8 * ch.2.1))
    let mask := byteMask ch.2.1 ch.2.2
    let st' := match p with
      | .core _ c => st.coreSecWrite o lf c ch.1 mask data
      | .place => st.placeSecWrite o lf ch.1 mask data
      | .die => st.dieSecWrite o lf ch.1 mask data
      | .engine => st.engSecWrite o lf ch.1 mask data
    (st', rest.drop ch.2.2)) (s, bs)).1

/-! ## Release and acquire (R83, R85, R104, R119) -/

/-- Write back a die's dirty remote sectors of pages wider than DIE, or all of them for a host-visible
release; the sectors stay, clean. -/
def State.remoteBack (s : State) (die : Nat) (all : Bool) : State :=
  let d := s.die die
  let due := d.remote.filter (fun p => p.2.mask != 0 && (all || decide (1 < p.2.share)))
  let s1 := due.foldl (fun x p => x.homeSecWrite p.2.dev p.1 p.2.mask p.2.data) s
  let s2 := s1.modDie die (fun k => { k with remote := k.remote.map (fun p =>
    if all || decide (1 < p.2.share) then (p.1, { p.2 with mask := 0 }) else p) })
  let vs := nubNat (((s2.die die).victim.filter (fun (p : Nat × Sector) =>
    all || decide (1 < p.2.share))).map (fun p => p.1 / 8))
  vs.foldl (fun x l => x.victimBack die l) s2

/-- Write back the DDR lines that a die's L2 holds dirty (R377). -/
def State.ddrBack (s : State) (die : Nat) : State :=
  let d := s.die die
  d.ddr.foldl (fun x p => x.memSec p.1 p.2.mask p.2.data) (s.setDie die { d with ddr := [] })

/-- The DDR line's sector that its home die's L2 holds goes to memory, where the host sees it (R377). -/
def State.ddrPush (s : State) (dm sec : Nat) : State :=
  let h := s.homeDie dm (sec * 16)
  match s.paKind (sec * 16), (s.die h).ddr.find sec with
  | .ddr _, some x => (s.memSec sec x.mask x.data).modDie h (fun d => { d with ddr := d.ddr.del sec })
  | _, _ => s

/-- Write back what the L2s of dies hold of the DDR tier: their own DDR lines, and the DDR lines that wait in
another die's victim buffer (R86, R377). -/
def State.ddrBackAll (s : State) (dies : List Nat) : State :=
  dies.foldl (fun x d => x.ddrBack d) (dies.foldl (fun x d =>
    (nubNat ((x.die d).victim.keys.map (· / 8))).foldl (fun y l => y.victimBack d l) x) s)

/-- The host-visible release of a unit of the package, on every die given (R104, R119, R377): every
buffer drains and every remote partition is written home before the DDR lines of any die go to memory. -/
def State.fullRelease (s : State) (dies : List Nat) : State :=
  (dies.foldl (fun x d => (x.drainDie d).remoteBack d true) s).ddrBackAll dies

/-- The release of R104 for a unit of a core's die; `all` makes it a host-visible release (R119). -/
def State.release (s : State) (o : Obs) (all : Bool) : State :=
  let s1 := match o.core with
    | some c => s.drainAll o c
    | none => s
  let s2 := s1.remoteBack o.die all
  if all then s2.ddrBackAll (maskDies o.dm) else s2

/-- The acquire of R104 for a core: its L1 lines are invalidated, in a fused cluster all four L1s but
for lines of CLUSTER pages (R83); the die's remote lines wider than DIE are written back and dropped
(R85). -/
def State.acquire (s : State) (o : Obs) : State :=
  let s1 := match o.core with
    | none => s
    | some c =>
      if (s.core c).fused.isSome then
        (List.range 4).foldl (fun x p => x.modCore (clusterCore c p)
          (fun k => { k with l1 := k.l1.filter (fun e => e.2.share = 0) })) s
      else s.modCore c (fun k => { k with l1 := [] })
  (s1.remoteBack o.die false).modDie o.die
    (fun d => { d with remote := d.remote.filter (fun p => p.2.share ≤ 1) })

/-! ## Accesses by physical address

Context records, queue descriptors and rings, event rings, heap rings and arena slots are named by physical
address. Where R322 and R376 put no memory, and in a peer's window, no rule says what such an access does: a
read finds a free value, and a write reaches nothing (log 74). -/

/-- Does the package hold, or reach in host memory, n bytes at a PA? -/
def State.physOk (s : State) (pa n : Nat) : Bool :=
  let ok := fun (k : PaKind) => match k with
    | .host _ => true
    | x => x.isMem
  ok (s.paKind pa) && ok (s.paKind (pa + n - 1))

/-- Read n bytes at a PA, at their home. -/
def State.physRead (s : State) (dm pa n : Nat) : List Byte :=
  if s.physOk pa n then
    (chunks (n / 16 + 2) pa n).flatMap (fun ch =>
      ((secBytes (s.homeSec dm ch.1)).drop ch.2.1).take ch.2.2)
  else (span pa n).map (Config.absentByte s.free)

/-- The state after such a read: the next free value is another one. -/
def State.physSeen (s : State) (pa n : Nat) : State := if s.physOk pa n then s else s.tick

/-- Write bytes at a PA, at their home, and where the home is a DDR line's L2 through it to memory: what
the units write by physical address is the host's to read. -/
def State.physWrite (s : State) (dm pa : Nat) (bs : List Byte) : State :=
  if s.physOk pa bs.length then
    (chunks (bs.length / 16 + 2) pa bs.length).foldl (fun x c => x.ddrPush dm c.1)
      (s.pwrite ⟨0, dm, 4, none, none⟩ ⟨1, 1, false, false⟩ .die pa bs)
  else s

/-- Write a little-endian value at a PA. -/
def State.physPut (s : State) (dm pa n v : Nat) : State := s.physWrite dm pa (bytesOf n v)

end Sys2Proof.Machine
end

