-- ==== Sys2Proof/Machine/Xlat.lean ====
section
/-! DEFINITION. Address translation (R344-R349), Loupe (R112-R117), and the checked access of a unit to
global memory and of a gang to its scratch (R74-R79, R195, R380, R385, R387, R389). -/

namespace Sys2Proof.Machine

/-! ## Table entries (R345, R346) -/

/-- What an access needs of a leaf (R346). -/
inductive Need where
  | read | write | atomic | fetch
  deriving DecidableEq, Repr, Inhabited

def Need.writes : Need → Bool
  | .write => true
  | .atomic => true
  | _ => false

/-- A failed access: the cause of R353 or R387, VAL0, VAL1 and the lowest faulting address. -/
structure XErr where
  cause : Nat
  v0 : Nat
  v1 : Nat
  addr : Nat
  deriving DecidableEq, Repr, Inhabited

/-- Is a 64-bit value a canonical virtual address (R76)? -/
def canonical (va : Nat) : Bool := va / 2 ^ 54 = 0 || va / 2 ^ 54 = 1023

/-- VA[54:16]. -/
def vpnOf (va : Nat) : Nat := va / 2 ^ 16 % 2 ^ 39

/-- How many bits of VA[54:16] a leaf of a level leaves free (R344). -/
def coverOf (level : Nat) : Nat := 13 * (2 - level)

/-- Bytes that a leaf of a level maps (R344). -/
def leafBytes (level : Nat) : Nat := 2 ^ (16 + coverOf level)

def entV (e : Nat) : Bool := bitN e 0
def entTbl (e : Nat) : Bool := bitN e 1
def entPool (e : Nat) : Bool := bitN e 12
def entRc (e : Nat) : Bool := bitN e 10
def entAddr (e : Nat) : Nat := fld e 16 36 * 2 ^ 16

/-- A well-formed table pointer: V, TBL and ADDR alone, in HBM or the DDR tier (R345, R346). -/
def State.ptrOk (s : State) (e : Nat) : Bool :=
  entV e && entTbl e && fld e 2 14 = 0 && fld e 52 12 = 0 && (s.paKind (entAddr e)).isMem

/-- XLAT.ENTRY of a leaf, or of a POOL entry, at a level (R346). A POOL entry names no frame yet. -/
def State.leafBad (s : State) (level e : Nat) : Bool :=
  bitN e 15 || fld e 52 12 != 0 || entTbl e
    || (entV e && entPool e) || (!entV e && entPool e && level != 2)
    || decide (6 ≤ fld e 5 3) || fld e 8 2 = 3 || (bitN e 3 && !bitN e 2)
    || (entV e && entAddr e % leafBytes level != 0)
    || (entRc e && (level != 2 || (entV e && !(s.paKind (entAddr e)).isMem)))

/-- The windows that a context's leaves may name (R322, R376), as base and length. -/
def State.windows (s : State) (ctx : Nat) : List (Nat × Nat) :=
  let devs := match s.ctxs.find ctx with
    | some c => s.devs c
    | none => []
  (devs.map (fun ds => match ds.length with
    | 4 => (0, 384 * gib)
    | 2 => (2 ^ 50 + 2 ^ 40 * (nth ds 0 0 / 2), 192 * gib)
    | _ => (2 ^ 51 + 2 ^ 40 * nth ds 0 0, 96 * gib)))
    ++ (List.range 2).map (fun i =>
      (0xC000000000000 + 2 ^ 42 * i, (nth s.pkg.ddr i 0).toNat * 4 * gib))
    ++ [(0xD000000000000, 2 ^ 47)]
    ++ (List.range 16).map (fun k => (0xE000000000000 + 2 ^ 44 * k, 2 ^ 44))

/-- Does a range of PAs lie wholly in a window of the context? -/
def State.nameable (s : State) (ctx pa len : Nat) : Bool :=
  (s.windows ctx).any (fun w => decide (w.1 ≤ pa) && decide (pa + len ≤ w.1 + w.2))

/-! ## Walking (R344-R347) -/

/-- An entry of a table, read at its home (R348). -/
def State.readEntry (s : State) (o : Obs) (pa : Nat) : Nat :=
  (s.homeSec o.dm (pa / 16)).toNat / 2 ^ (8 * (pa % 16)) % 2 ^ 64

/-- Write an entry at its home (R347). -/
def State.writeEntry (s : State) (o : Obs) (pa e : Nat) : State :=
  s.homeSecWrite o.dm (pa / 16) (byteMask (pa % 16) 8) (BitVec.ofNat 128 (e * 2 ^ (8 * (pa % 16))))

/-- Physical die that holds a byte's home, 4 and 5 for the I/O dies (R387). -/
def State.holder (s : State) (dm share pa : Nat) : Nat :=
  match s.paKind pa with
  | .ddr i => if share = 5 then 4 + i else s.homeDie dm pa
  | .hbm _ => s.homeDie dm pa
  | _ => 6

/-- Is a die lost (R389)? A DDR byte is lost with its I/O die too. -/
def State.lostAt (s : State) (dm share pa : Nat) : Bool :=
  let h := s.holder dm share pa
  let io := match s.paKind pa with
    | .ddr i => nth s.pkg.ioLost i false
    | _ => false
  io || (decide (h < 4) && (s.die h).lost)

/-- Does a range within a 64 KiB page touch a sector with an uncorrectable soft error, and which, the lowest
first (R387)? The same bytes stand behind every window of HBM (R322). -/
def State.poisonAt (s : State) (pa n : Nat) : Option Nat :=
  minBy id ((s.poison.filter (fun sec => decide (hbmAt pa < hbmAt (sec * 16) + 16)
    && decide (hbmAt (sec * 16) < hbmAt pa + n))).map (fun sec => pa / 2 ^ 16 * 2 ^ 16 + sec * 16 % 2 ^ 16))

/-- The key of a cached table pointer (R348): the die whose walkers hold it, its context, its address. -/
def walkKey (die ctx pa : Nat) : Nat := (die * 2 ^ 12 + ctx) * 2 ^ 52 + pa

/-- A table pointer that the walkers of the observer's die hold; only levels 0 and 1 have one (R348). -/
def State.pointer? (s : State) (o : Obs) (level pa : Nat) : Option Nat :=
  if level < 2 then (s.walkc.find (walkKey o.die o.ctx pa)).map BitVec.toNat else none

/-- Where a walk ends: the entry, its address and its level. -/
structure Hit where
  pa : Nat
  e : Nat
  level : Nat
  deriving DecidableEq, Repr, Inhabited

/-- Walk the tables from a level on (R346): to a leaf, or the cause of the first row that applies. A
table pointer that the walker cache holds is used as its walk read it (R348, R351). -/
def State.walkFrom (s : State) (o : Obs) (va : Nat) : List Nat → Nat → Except XErr Hit
  | [], _ => .error ⟨0x0104, 0, 2, va⟩
  | l :: t, table =>
    let pa := table + 8 * (va / 2 ^ (42 - 13 * l) % 2 ^ 13)
    let held := s.pointer? o l pa
    if held.isNone && s.lostAt o.dm 1 pa then .error ⟨0x0204, s.holder o.dm 1 pa, 0, va⟩
    else match held.isNone && (s.poisonAt pa 8).isSome with
      | true => .error ⟨0x0107, pa, l, va⟩
      | false =>
        let e := held.getD (s.readEntry o pa)
        if !entV e && !entPool e then .error ⟨0x0101, e, l, va⟩
        else if !entV e then
          if s.leafBad l e then .error ⟨0x0104, e, l, va⟩ else .error ⟨0x0102, e, l, va⟩
        else if entTbl e then
          if l = 2 || !s.ptrOk e then .error ⟨0x0104, e, l, va⟩ else s.walkFrom o va t (entAddr e)
        else if s.leafBad l e then .error ⟨0x0104, e, l, va⟩
        else if !s.nameable o.ctx (entAddr e) (leafBytes l) then .error ⟨0x0105, e, l, va⟩
        else .ok ⟨pa, e, l⟩

/-- Walk a virtual address from the context's ROOT. -/
def State.walk (s : State) (o : Obs) (va : Nat) : Except XErr Hit :=
  s.walkFrom o va [0, 1, 2] (((s.ctxs.find o.ctx).map (·.root)).getD 0)

/-- The walker cache takes the table pointers that a successful walk passed (R348). -/
def State.fillPointers (s : State) (o : Obs) (va : Nat) : List Nat → Nat → State
  | [], _ => s
  | l :: t, table =>
    let pa := table + 8 * (va / 2 ^ (42 - 13 * l) % 2 ^ 13)
    let e := (s.pointer? o l pa).getD (s.readEntry o pa)
    if l < 2 && entV e && entTbl e then
      ({ s with walkc := s.walkc.put (walkKey o.die o.ctx pa) (BitVec.ofNat 64 e) }).fillPointers o va t
        (entAddr e)
    else s

/-- The cached translation of the 64 KiB page of a leaf that a VA touches (R349). -/
def Hit.page (h : Hit) (ctx va : Nat) : PageEnt where
  ctx := ctx
  vpn := vpnOf va
  ppn := (entAddr h.e + va % leafBytes h.level) / 2 ^ 16
  r := bitN h.e 2
  w := bitN h.e 3
  x := bitN h.e 4
  share := fld h.e 5 3
  ap := fld h.e 8 2
  rc := entRc h.e
  extsig := bitN h.e 11
  d := bitN h.e 14
  cover := coverOf h.level

/-- Has the page the permission an access needs (R346)? -/
def PageEnt.allows (p : PageEnt) : Need → Bool
  | .read => p.r
  | .write => p.w
  | .atomic => p.r && p.w
  | .fetch => p.x

/-- Does an access of n bytes at a VA touch the carve-out of an RC page (R346, R356)? -/
def PageEnt.carve (p : PageEnt) (va n : Nat) : Bool :=
  p.rc && decide (0xE000 < va % 2 ^ 16 + n)

/-- Can a cached translation serve an access as it stands (R349)? A write needs D = 1. -/
def PageEnt.serves (p : PageEnt) (need : Need) (va n : Nat) : Bool :=
  p.allows need && !p.carve va n && (p.d || !need.writes)

/-- The key of a translation in a TLB. -/
def tlbKey (ctx va : Nat) : Nat := ctx * 2 ^ 39 + vpnOf va

/-- Zero bytes of one 64 KiB page at their homes; no cache keeps an older copy (R347, R355, R260). The
caches that hold words and the constant cache are keyed by address ÷ 8 and ÷ 16. -/
def State.zeroHome (s : State) (pa n : Nat) : State :=
  let inR := fun (a : Nat) => decide (pa ≤ a) && decide (a < pa + n)
  let cut := fun (m : Map Sector) => m.filter (fun x => !inR (x.1 * 16))
  { s with
    mem := s.mem.filter (fun c => !(decide (hbmAt pa ≤ c.1) && decide (c.1 < hbmAt pa + n)))
    cores := s.cores.map (fun p => (p.1, { p.2 with
      l1 := cut p.2.l1, wcb := cut p.2.wcb
      icache := p.2.icache.filter (fun x => !inR (x.1 * 8))
      mcache := p.2.mcache.filter (fun x => !inR (x.1 * 8))
      ccache := p.2.ccache.filter (fun x => !inR (x.1 * 16)) }))
    dies := s.dies.map (fun p => (p.1, { p.2 with
      remote := cut p.2.remote, ddr := cut p.2.ddr, victim := cut p.2.victim })) }

/-- Set A, and D for a write, in the leaf; an RC leaf with A = 0 first has its carve-out zeroed
(R347). -/
def State.markLeaf (s : State) (o : Obs) (h : Hit) (writes : Bool) : State :=
  let s1 := if entRc h.e && !bitN h.e 13 then s.zeroHome (entAddr h.e + 0xE000) 0x2000 else s
  let e1 := if bitN h.e 13 then h.e else h.e + 2 ^ 13
  let e2 := if !writes || bitN h.e 14 then e1 else e1 + 2 ^ 14
  if e2 = h.e then s1 else s1.writeEntry o h.pa e2

/-- Keep a translation in the TLBs of the observer's die and core (R348). -/
def State.fillTlb (s : State) (o : Obs) (va : Nat) (p : PageEnt) : State :=
  let k := tlbKey o.ctx va
  let s1 := if o.die < 4 then s.modDie o.die (fun d => { d with tlb := d.tlb.put k p }) else s
  match o.core with
  | some c => s1.modCore c (fun x => { x with tlb := x.tlb.put k p })
  | none => s1

/-- Translate the part of an access that lies in one page (R346-R349): last-page register, core TLB,
die TLB, walk. The walk sets A. -/
def State.translate (s : State) (o : Obs) (last : Option PageEnt) (need : Need) (va n : Nat) :
    State × Except XErr PageEnt :=
  if !canonical va then (s, .error ⟨0x0100, 0, 0, va⟩)
  else
    let k := tlbKey o.ctx va
    let fromCore := o.core.bind (fun c => (s.core c).tlb.find k)
    let fromDie := if o.die < 4 then (s.die o.die).tlb.find k else none
    let usable := ((last.filter (fun p => p.ctx = o.ctx && p.vpn = vpnOf va)).toList
      ++ fromCore.toList ++ fromDie.toList).find? (fun p => p.serves need va n)
    match usable with
    | some p => (s.fillTlb o va p, .ok p)
    | none =>
      match s.walk o va with
      | .error x => (s, .error x)
      | .ok h =>
        let p := h.page o.ctx va
        if !p.allows need then (s, .error ⟨0x0103, h.e, h.level, va⟩)
        else if p.carve va n then
          (s, .error ⟨0x0106, h.e, h.level, va + (0xE000 - va % 2 ^ 16)⟩)
        else
          let s1 := s.fillPointers o va [0, 1, 2] (((s.ctxs.find o.ctx).map (·.root)).getD 0)
          ((s1.markLeaf o h false).fillTlb o va p, .ok p)

/-! ## Accesses of several bytes -/

/-- One page's part of an access: its physical address, its length, and the leaf's fields. -/
structure Piece where
  pa : Nat
  n : Nat
  leaf : Leaf
  page : PageEnt
  deriving DecidableEq, Repr, Inhabited

/-- The widest device scope of the observer's context (R94). -/
def widest (dm : Nat) : Nat :=
  match (maskDies dm).length with
  | 4 => 3
  | 2 => 2
  | _ => 1

/-- The effective scope of a page (R94). -/
def effective (dm share : Nat) : Nat := if share ≤ widest dm then share else 5

/-- The part of an access that a translated page holds. -/
def PageEnt.piece (p : PageEnt) (dm va n : Nat) : Piece :=
  { pa := p.ppn * 2 ^ 16 + va % 2 ^ 16, n := n, page := p,
    leaf := { share := effective dm p.share, ap := p.ap, rc := p.rc, extsig := p.extsig } }

/-- Split an access by pages: addresses (modulo 2^64) and lengths. -/
def byPage : Nat → Nat → Nat → List (Nat × Nat)
  | 0, _, _ => []
  | fuel + 1, va, n =>
    if n = 0 then []
    else
      let k := if n < 2 ^ 16 - va % 2 ^ 16 then n else 2 ^ 16 - va % 2 ^ 16
      (va, k) :: byPage fuel ((va + k) % 2 ^ 64) (n - k)

/-- Translate every page of an access, lowest first; the first that fails is reported (R77, R195). -/
def State.span (s : State) (o : Obs) (last : Option PageEnt) (need : Need) (va n : Nat) :
    State × Except XErr (List Piece) :=
  (byPage (n / 2 ^ 16 + 2) va n).foldl (fun acc q =>
    match acc with
    | (st, .error e) => (st, .error e)
    | (st, .ok ps) =>
      match st.translate o last need q.1 q.2 with
      | (st', .error e) => (st', .error e)
      | (st', .ok p) => (st', .ok (ps ++ [p.piece o.dm q.1 q.2]))) (s, .ok [])

/-! ## Islands on the way to memory (R396, R399) -/

/-- The first address of each block of u bytes that a range touches. -/
def blocksOf (u pa n : Nat) : List Nat :=
  pa :: (List.range ((pa + n - 1) / u - pa / u)).map (fun i => (pa / u + 1 + i) * u)

/-- Peer table entry k (R385). -/
def State.peerEnt (s : State) (k : Nat) : BitVec 256 := s.pkg.peers.getD k 0

/-- The island of a die's fabric ports and Clasp, and the one of an Ethernet port (R384, R396). -/
def fabricIsland (die : Nat) : Nat := 240 * die + 233
def portIsland (port : Nat) : Nat := 960 + 32 * (port / 8) + 10 + port % 8

/-- The port of a queue pair (R384). -/
def State.qpPort (s : State) (qp : Nat) : Nat := ((s.pkg.qps.getD qp 0).extractLsb' 1 4).toNat

/-- The islands that an access of an observer to a PA passes: the L2 group of its line on the home die and,
from another die, on its own; the fabric ports of the dies between which it goes; the HBM interface or the DDR
channel; the host port; the Ethernet port of a peer window's queue pair. -/
def State.islandsTo (s : State) (o : Obs) (pa : Nat) : List Nat :=
  let group := fun (d : Nat) => 240 * d + 216 + groupOf (pa / 128)
  let home := s.homeDie o.dm pa
  let own := if o.die < 4 then [fabricIsland o.die] else []
  let l2 := if o.die = home then [group home]
    else [group home, fabricIsland home] ++ own ++ (if o.die < 4 then [group o.die] else [])
  match s.paKind pa with
  | .hbm _ => l2 ++ [240 * home + 234 + Config.stackOf pa % 2]
  | .ddr i => l2 ++ [fabricIsland home, 960 + 32 * i + 2 + pa / 2 ^ 12 % 8]
  | .host _ => own ++ [960 + 32 * (if o.die < 4 then ioOf o.die else o.die - 4)]
  | .peer k _ => own ++ [portIsland (s.qpPort ((s.peerEnt k).extractLsb' 1 12).toNat)]
  | .absent => []

/-- Do the islands on the way to a PA perform? -/
def State.paOn (s : State) (o : Obs) (pa : Nat) : Bool :=
  s.pkg.islands.isEmpty || (s.islandsTo o pa).all s.islandOn

/-- The addresses of the entries that a walk reads from memory. -/
def State.walkReads (s : State) (o : Obs) (va : Nat) : List Nat → Nat → List Nat
  | [], _ => []
  | l :: t, table =>
    let pa := table + 8 * (va / 2 ^ (42 - 13 * l) % 2 ^ 13)
    let held := s.pointer? o l pa
    let e := held.getD (s.readEntry o pa)
    (if held.isNone then [pa] else [])
      ++ (if entV e && entTbl e && s.ptrOk e then s.walkReads o va t (entAddr e) else [])

/-- Does a TLB hold what an access to a page needs, D of a writable page included? -/
def State.tlbServes (s : State) (o : Obs) (va : Nat) : Bool :=
  let k := tlbKey o.ctx va
  ((o.core.bind (fun c => (s.core c).tlb.find k)).toList
    ++ (if o.die < 4 then (s.die o.die).tlb.find k else none).toList).any (fun p => p.d || !p.w)

/-- Do the islands that a walk needs perform: those of the entries that it reads, and of one of the walkers of
an I/O die (R396, R399)? -/
def State.walkOn (s : State) (o : Obs) (va : Nat) : Bool :=
  s.tlbServes o va
    || ((s.walkReads o va [0, 1, 2] (((s.ctxs.find o.ctx).map (·.root)).getD 0)).all (s.paOn o)
      && (decide (o.die < 4) || s.islandOn (960 + 32 * (o.die - 4) + 26)
        || s.islandOn (960 + 32 * (o.die - 4) + 27)))

/-- Do the islands on the way of global accesses perform, and those of their walks? An access to a slice whose
island does not waits (R399). -/
def State.slicesOn (s : State) (o : Obs) (ls : List (Nat × Nat)) : Bool :=
  s.pkg.islands.isEmpty || ls.all (fun p =>
    (byPage (p.2 / 2 ^ 16 + 2) p.1 p.2).all (fun q => s.walkOn o q.1)
      && match (s.span o none .read p.1 p.2).2 with
        | .ok ps => ps.all (fun x => (blocksOf 128 x.pa x.n).all (s.paOn o))
        | .error _ => true)

/-- An access that may write sets D in each leaf before it writes: one that fails a check sets none
(R195, R347; log 88). -/
def State.setD (s : State) (o : Obs) (need : Need) : Nat → List Piece → State
  | _, [] => s
  | va, p :: t =>
    let s1 := if need.writes && !p.page.d then
        match s.walk o va with
        | .error _ => s
        | .ok h => (s.markLeaf o h true).fillTlb o va { p.page with d := true }
      else s
    s1.setD o need ((va + p.n) % 2 ^ 64) t

/-! ## What can still fail where the access is performed (R380, R385, R387, R389) -/

/-- The I/O die at the edge of an observer's die, or that it stands on (R380). -/
def Obs.io (o : Obs) : Nat := if o.die < 4 then ioOf o.die else o.die - 4

/-- Is the host link of an I/O die up (R380, R389, R394)? -/
def State.hostLink (s : State) (io : Nat) : Bool :=
  s.pkg.ready.getLsbD (18 + io) && !nth s.pkg.ioLost io false

/-- Does a queue-pair record connect, through a port of an I/O die that is there (R384, R389, R394)? -/
def State.qpLink (s : State) (qp : Nat) : Bool :=
  let r := s.pkg.qps.getD qp 0
  let io := (r.extractLsb' 1 4).toNat / 8
  r.getLsbD 0 && s.pkg.ready.getLsbD (20 + io) && !nth s.pkg.ioLost io false

/-- The accesses of at most 8 bytes that an access of n bytes to a host or peer window makes, as offsets
and lengths (R78). -/
def eights (n : Nat) : List (Nat × Nat) :=
  (List.range ((n + 7) / 8)).map (fun i => (8 * i, min 8 (n - 8 * i)))

/-- The answers of a link to an access of n bytes: each of its accesses is answered once, and the first
error among `lo` to `hi` is the access's (R78, R387). A link that is down answers none: which error the
far side's silence becomes is open, so a free value among them names it (log 110). -/
def State.answers (s : State) (up : Bool) (lo hi va n : Nat) : State × Option XErr :=
  let cs := eights n
  let fate := fun i =>
    let a := Config.linkAnswer (s.free + i)
    if up then a else lo + a % (hi + 1 - lo)
  ({ s with free := s.free + cs.length },
    ((List.range cs.length).find? (fun i => decide (lo ≤ fate i) && decide (fate i ≤ hi))).map
      (fun i => ⟨0x0205, fate i, 0, va + 8 * i⟩))

/-- The first byte of a piece whose home is lost (R389): a home changes only from one 4 KiB block to the
next (R84). -/
def State.lostIn (s : State) (dm : Nat) (p : Piece) : Option Nat :=
  (p.pa :: (List.range 16).map (fun i => p.pa / 2 ^ 12 * 2 ^ 12 + 2 ^ 12 * (i + 1))).find?
    (fun a => decide (a = p.pa ∨ a < p.pa + p.n) && s.lostAt dm p.leaf.share a)

/-- Check one piece: a lost home, an entry or link of a window, an uncorrectable error, each at the lowest byte
that meets it (R352). -/
def State.reach (s : State) (o : Obs) (va : Nat) (p : Piece) : State × Option XErr :=
  match s.paKind p.pa with
  | .host _ => s.answers (s.hostLink o.io) 1 3 va p.n
  | .peer k off =>
    let e := s.peerEnt k
    if !e.getLsbD 0 || decide ((e.extractLsb' 128 45).toNat < off + p.n) then
      (s, some ⟨0x0205, 6, 0, va⟩)
    else s.answers (s.qpLink (e.extractLsb' 1 12).toNat) 4 5 va p.n
  | _ =>
    match s.lostIn o.dm p with
    | some a => (s, some ⟨0x0204, s.holder o.dm p.leaf.share a, 0, va + (a - p.pa)⟩)
    | none => match s.poisonAt p.pa p.n with
      | some x => (s, some ⟨0x0206, x, 0, va + (x - p.pa)⟩)
      | none => (s, none)

/-- Check every piece, in order. -/
def State.reachAll (s : State) (o : Obs) : Nat → List Piece → State × Option XErr
  | _, [] => (s, none)
  | va, p :: t =>
    match s.reach o va p with
    | (s1, some e) => (s1, some e)
    | (s1, none) => s1.reachAll o (va + p.n) t

/-! ## Loupe (R112-R117) -/

/-- The phase counter of the observer's partition (R116). -/
def State.phase (s : State) (o : Obs) : BitVec 16 :=
  s.pkg.ph.getD (diePart s.pkg.cur (nth (maskDies o.dm) 0 0)) 0

/-- One entry of a record: its slot, its segment and its valid bit (R113). Entry 0 is the writer, 1-3
the readers A-C. -/
def loupeSlot (r : W128) (e : Nat) : Nat := (r.extractLsb' (24 * e) 14).toNat
def loupeSeg (r : W128) (e : Nat) : BitVec 10 := r.extractLsb' (24 * e + 14) 10
def loupeValid (r : W128) (e : Nat) : Bool := r.getLsbD (112 + e)

/-- R115: is an entry open? -/
def State.loupeOpen (s : State) (r : W128) (e : Nat) : Bool :=
  loupeValid r e && loupeSeg r e = s.curseg.getD (loupeSlot r e) 0

/-- Write an entry of a record. -/
def loupePut (r : W128) (e slot : Nat) (seg : BitVec 10) : W128 :=
  let clr : W128 := ~~~((0xFFFFFF#128 <<< (24 * e)) ||| (1#128 <<< (112 + e)))
  (r &&& clr) ||| (BitVec.ofNat 128 (slot % 2 ^ 14 + seg.toNat * 2 ^ 14) <<< (24 * e))
    ||| (1#128 <<< (112 + e))

/-- The race that an access meets, if any (R115): 1 WW, 2 RW, 3 WR, 4 POSSIBLE. -/
def State.loupeRace (s : State) (o : Obs) (r : W128) (slot : Nat) (writes : Bool) : Option Nat :=
  let live := fun e => s.loupeOpen r e && loupeSlot r e != slot
  if writes then
    if live 0 then some 1
    else if live 1 || live 2 || live 3 then some 2
    else if r.getLsbD 116 && r.extractLsb' 96 16 = s.phase o then some 4
    else none
  else if live 0 then some 3 else none

/-- The record after an access (R115). -/
def State.loupeNext (s : State) (o : Obs) (r : W128) (slot : Nat) (seg : BitVec 10)
    (writes : Bool) : W128 :=
  if writes then
    loupePut (r &&& ~~~(0x1E#128 <<< 112)) 0 slot seg
  else match [1, 2, 3].find? (fun e => loupeValid r e && loupeSlot r e = slot) with
    | some e => loupePut r e slot seg
    | none => match [1, 2, 3].find? (fun e => !s.loupeOpen r e) with
      | some e => loupePut r e slot seg
      | none => (r &&& ~~~(0xFFFF#128 <<< 96)) ||| ((s.phase o).setWidth 128 <<< 96) ||| (1#128 <<< 116)

/-- The sector of a line's record (R356). -/
def recordSec (pa : Nat) : Nat := (pa / 2 ^ 16 * 2 ^ 16 + 0xE000) / 16 + pa % 2 ^ 16 / 128

/-- The lines of RC pages that pieces touch, each by its record, the address in it that the access
touches first, and its page's leaf. -/
def rcLines : Nat → List Piece → List (Nat × Nat × Leaf)
  | _, [] => []
  | va, p :: t =>
    (if p.leaf.rc && p.n != 0 then
      (List.range ((p.pa + p.n - 1) / 128 + 1 - p.pa / 128)).map (fun i =>
        (recordSec (p.pa / 128 * 128 + 128 * i),
          if i = 0 then va else va + (128 - p.pa % 128) + 128 * (i - 1), p.leaf))
     else []) ++ rcLines (va + p.n) t

/-- Loupe on an ordinary access (R112, R115): every line's record is checked before any is changed,
each where its line is performed: at the home slice, or at the DDR controller (R377). The reserved bits
[127:117] of a record (R113) read as zero in VAL1 (R6).
An access that no wave slot is charged with (a COPY record's) is not checked, nor is one whose
segment has closed (R117). -/
def State.loupe (s : State) (o : Obs) (writes : Bool) (va : Nat) (ps : List Piece) :
    State × Option XErr :=
  match o.slot with
  | none => (s, none)
  | some (slot, seg) =>
    let ls := rcLines va ps
    let current := seg = s.curseg.getD slot 0
    let bad := ls.findSome? (fun l =>
      let r := s.directSec o l.2.2 l.1
      (s.loupeRace o r slot writes).map (fun c =>
        XErr.mk (0x0300 + c) (r.toNat % 2 ^ 64) (r.toNat / 2 ^ 64 % 2 ^ 53) l.2.1))
    match (if current then bad else none) with
    | some e => (s, some e)
    | none =>
      (ls.foldl (fun (st : State) l =>
        st.directSecWrite o l.2.2 l.1 (BitVec.allOnes 16)
          (st.loupeNext o (st.directSec o l.2.2 l.1) slot seg writes)) s, none)

/-! ## Performing the access -/

/-- Free bytes. -/
def State.freeBytes (s : State) : Nat → State × List Byte
  | 0 => (s, [])
  | n + 1 =>
    let (s1, t) := s.tick.freeBytes n
    (s1, (Config.freeWord s.free).extractLsb' 0 8 :: t)

/-- The queue pair, the remote key and the remote address of an offset of peer window k (R385). -/
def State.peerAt (s : State) (k off : Nat) : Nat × Nat × Nat :=
  let e := s.peerEnt k
  ((e.extractLsb' 1 12).toNat, (e.extractLsb' 32 32).toNat, ((e.extractLsb' 64 64).toNat + off) % 2 ^ 64)

/-- The RDMA READs of an access to a peer window (R78, R385). -/
def State.peerReads (s : State) (k off n : Nat) : List OutMsg :=
  (eights n).map (fun c => let (qp, key, a) := s.peerAt k (off + c.1); .peerRead qp key a c.2)

/-- The RDMA WRITEs of an access to a peer window (R78, R385). -/
def State.peerWrites (s : State) (k off : Nat) (bs : List Byte) : List OutMsg :=
  (eights bs.length).map (fun c =>
    let (qp, key, a) := s.peerAt k (off + c.1)
    .peerWrite qp key a ((bs.drop c.1).take c.2))

/-- Read a piece along a path. A peer answers with bytes the model cannot know (R385). -/
def State.readPiece (s : State) (o : Obs) (p : Path) (x : Piece) : State × List Byte :=
  match s.paKind x.pa with
  | .peer k off => ({ s with outbox := s.outbox ++ s.peerReads k off x.n }).freeBytes x.n
  | _ => s.pread o x.leaf p x.pa x.n

/-- Read all pieces, in order. -/
def State.readPieces (s : State) (o : Obs) (p : Path) (ps : List Piece) : State × List Byte :=
  ps.foldl (fun acc x =>
    let (st, bs) := acc
    let (st', b) := st.readPiece o p x
    (st', bs ++ b)) (s, [])

/-- Write all pieces, in order, along a path. -/
def State.writePieces (s : State) (o : Obs) (p : Path) : List Piece → List Byte → State
  | [], _ => s
  | x :: t, bs =>
    let s1 := match s.paKind x.pa with
      | .peer k off => { s with outbox := s.outbox ++ s.peerWrites k off (bs.take x.n) }
      | _ => s.pwrite o x.leaf p x.pa (bs.take x.n)
    s1.writePieces o p t (bs.drop x.n)

/-- The checks of a global access after alignment (R195): translation of every page, the far side,
and Loupe for an ordinary access. -/
def State.check (s : State) (o : Obs) (last : Option PageEnt) (need : Need) (sync : Bool)
    (va n : Nat) : State × Except XErr (List Piece) :=
  if !canonical va then (s, .error ⟨0x0100, 0, 0, va⟩)
  else match s.span o last need va n with
    | (s1, .error e) => (s1, .error e)
    | (s1, .ok ps) =>
      match s1.reachAll o va ps with
      | (s2, some e) => (s2, .error e)
      | (s2, none) =>
        if sync then (s2.setD o need va ps, .ok ps)
        else match s2.loupe o need.writes va ps with
          | (s3, some e) => (s3, .error e)
          | (s3, none) => (s3.setD o need va ps, .ok ps)

/-- Read n bytes of global memory for a unit. -/
def State.readG (s : State) (o : Obs) (p : Path) (sync : Bool) (va n : Nat) :
    State × Except XErr (List Byte) :=
  match s.check o none .read sync va n with
  | (s1, .error e) => (s1, .error e)
  | (s1, .ok ps) =>
    let (s2, bs) := s1.readPieces o p ps
    (s2, .ok bs)

/-- Write bytes of global memory for a unit. -/
def State.writeG (s : State) (o : Obs) (p : Path) (sync : Bool) (va : Nat) (bs : List Byte) :
    State × Option XErr :=
  match s.check o none .write sync va bs.length with
  | (s1, .error e) => (s1, some e)
  | (s1, .ok ps) => (s1.writePieces o p ps bs, none)

/-! ## Scratch (R76, R79) -/

/-- Bytes of a gang's allocation: n × S (R14). -/
def Gang.alloc (g : Gang) : Nat := g.cores.length * g.scr

/-- Does [off, off + n) lie in the allocation, `off` read as signed 64-bit (R76)? -/
def Gang.inBounds (g : Gang) (off n : Nat) : Bool :=
  decide (off < 2 ^ 63) && decide (off + n ≤ g.alloc)

/-- Read bytes of a gang's scratch. -/
def Gang.scrRead (g : Gang) (off n : Nat) : List Byte :=
  (Machine.span off n).map (fun a => g.scratch.getD a 0)

/-- Write bytes of a gang's scratch. -/
def Gang.scrWrite (g : Gang) : Nat → List Byte → Gang
  | _, [] => g
  | off, b :: t => ({ g with scratch := g.scratch.set off 0 b }).scrWrite (off + 1) t

/-- A little-endian value of a gang's scratch. -/
def Gang.scrNat (g : Gang) (off n : Nat) : Nat := natOf (g.scrRead off n)

/-! ## Observers -/

/-- The observer that a wave is: the last core of its cluster's path is its own (R16, R82). -/
def State.waveObs (s : State) (k : Nat) (w : Wave) : Obs :=
  let g := s.gangs.find w.gang
  let ctx := (g.map (·.ctx)).getD 0
  { ctx := ctx
    dm := dieMask (s.devDies ctx ((g.map (·.dev)).getD 0))
    die := coreDie (slotCore k)
    core := some (slotCore k)
    slot := some (k, s.curseg.getD k 0) }

end Sys2Proof.Machine
end

