-- ==== Sys2Proof/Machine/Sync.lean ====
section
/-! DEFINITION. What waves, copy programs and gather jobs share to synchronise: release and acquire
points (R96, R104), waits and their ends (R43-R45), barrier objects (R214-R219), named queues
(R208-R213), footprints (R110), the array claim (R229), and the end of a wave (R38). -/

namespace Sys2Proof.Machine

/-! ## Release and acquire points of a wave (R96, R104) -/

/-- The release of a wave's release point, which begins a segment; `all` when it is host-visible
(R119). -/
def State.releasePoint (s : State) (k : Nat) (w : Wave) (all : Bool) : State :=
  (s.release (s.waveObs k w) all).segment k

/-- The acquire of a wave's acquire point. -/
def State.acquirePoint (s : State) (k : Nat) (w : Wave) : State :=
  (s.acquire (s.waveObs k w)).segment k

/-- A point that is both begins one segment (R96). -/
def State.bothPoint (s : State) (k : Nat) (w : Wave) : State :=
  ((s.release (s.waveObs k w) false).acquire (s.waveObs k w)).segment k

/-- Has the wave REDG updates not yet performed (R108)? -/
def State.redgBusy (s : State) (k : Nat) : Bool := s.redgs.any (fun r => r.wave = k)

/-- The matrix instructions of the wave in a slot that have not yet executed (R237). Those of a wave that
a cancel discarded are not the next wave's: the gang tells them apart. -/
def State.matJobs (s : State) (k : Nat) : List MatJob :=
  (s.core (slotCore k)).matq.filter (fun j => j.wave = k && (s.waves.find k).any (·.gang = j.gang))

/-- Has the wave matrix instructions not yet executed (R237)? -/
def State.matBusy (s : State) (k : Nat) : Bool := !(s.matJobs k).isEmpty

/-- Bytes of n elements of a format. -/
def fmtBytes (fmt n : Nat) : Nat := (n * fmtW fmt + 7) / 8

/-- The block-row mask of `MMA` (R233). -/
def matMask (o : WOp) : Nat := (o.ext.map (fun x => x.toNat % 2 ^ 32)).getD 0xFFFFFFFF

/-- Is the 32-element part q of row i read (R233)? -/
def matReads (o : WOp) (i q : Nat) : Bool := bitN (matMask o) (4 * (i / 8) + q)

/-- A scale table's range: n entries for each block of 128 ÷ L (R231). -/
def scaleRange (off n len : Nat) : List (Nat × Nat) :=
  if off = 0 then [] else [(off, n * (4 / 2 ^ len))]

/-- The scratch ranges that a matrix instruction reads or writes at the array, row by row, each as an
offset and a length (R231-R234); G[A] is its base, G[B] and G[C] its operands, and `blk` its format
block. -/
def MatJob.ranges (j : MatJob) : List (Nat × Nat) :=
  let a := j.ga.toNat % 2 ^ 32
  let c := j.gc.toNat
  let rows := fld c 32 7
  let stride := fld c 0 32
  let blk := j.blk.toNat
  match j.op with
  | .mldb _ =>
    let n := fld c 32 11
    (List.range n).map (fun i => (a + i * stride, fmtBytes (fld blk 8 4) 128))
      ++ scaleRange (fld blk 128 64) n (fld blk 12 2)
  | .mma o =>
    let part := fmtBytes (fld blk 0 4) 32
    (List.range rows).flatMap (fun i => ((List.range 4).filter (matReads o i)).map (fun q =>
        (a + i * stride + q * part, part)))
      ++ scaleRange (fld blk 64 64) rows (fld blk 4 2)
  | .mst _ =>
    (List.range rows).map (fun i => (a + i * stride, fmtBytes (fld j.gb.toNat 32 4) (fld c 40 11)))
  | _ => []

/-- Do two ranges of bytes share one? -/
def bytesMeet (a n b m : Nat) : Bool := decide (a < b + m) && decide (b < a + n)

/-- Must an access of scratch bytes wait for an old value that a REDG of the wave has yet to write
(R108)? -/
def State.redirBusy (s : State) (k off n : Nat) : Bool :=
  s.redgs.any (fun r => r.wave = k && (match r.redir with
    | some (d, _) => bytesMeet off n d r.sz
    | none => false))

/-- Must a scratch access of the wave wait for its matrix instructions, or for a redirected old value
(R108, R237)? -/
def State.scrBusy (s : State) (k off n : Nat) : Bool :=
  (s.matJobs k).any (fun j => j.ranges.any (fun r => bytesMeet off n r.1 r.2)) || s.redirBusy k off n

/-- Must a release point of the wave wait for its earlier accesses (R104, R237)? -/
def State.relBusy (s : State) (k : Nat) : Bool := s.redgBusy k || s.matBusy k

/-- Must the end of a wave wait: for its earlier accesses, or for lanes that it has at the pool unit (R38, R104,
R355)? -/
def State.endBusy (s : State) (k : Nat) : Bool := s.relBusy k || s.poolReqs.any (fun q => q.wave = k)

/-- The waves of a gang, by slot. -/
def State.gangWaves (s : State) (g : Nat) : List (Nat × Wave) := s.waves.filter (fun p => p.2.gang = g)

/-- The waves waiting for a reason, oldest first (R43). -/
def State.waiters (s : State) (q : Wave → Wait → Bool) : List (Nat × Wave) :=
  sortBy (fun p => (p.2.wait.map (·.ord)).getD 0)
    (s.waves.filter (fun p => match p.2.wait with
      | some x => q p.2 x
      | none => false))

/-- Enter a wait (R43) at the instruction just issued. -/
def State.waitOn (s : State) (k : Nat) (w : Wave) (kind : WaitKind) (obj gen : Nat) (i : Instr) :
    State :=
  { s.setWave k { w with wait := some ⟨kind, obj, gen, s.nextOrder, i, s.insn.1, s.insn.2, s.steps w⟩ } with
    nextOrder := s.nextOrder + 1 }

/-- End a wait: the wave as changed goes on at an address; `acq` for a wait whose end is an acquire
point (R45). The instruction retires now; STEP covers it as it did at its issue slot, for a change of the
debug registers acts from a wave's next issue slot on (R371). -/
def State.endWait (s : State) (k : Nat) (w : Wave) (pc : W64) (acq : Bool) : State :=
  let s1 := if acq then s.acquirePoint k w else s
  s1.setWave k { w with
    wait := none
    ready := (s.core (slotCore k)).cycle
    pc := pc
    sys := { w.sys with stepPend := w.sys.stepPend || w.wait.any (·.steps) } }

/-- End a wait whose instruction re-issues (R43). -/
def State.reissue (s : State) (k : Nat) : State :=
  s.modWave k (fun w => { w with wait := none, ready := (s.core (slotCore k)).cycle })

/-- Re-issue every wave whose wait satisfies a test. -/
def State.reissueAll (s : State) (q : Wave → Wait → Bool) : State :=
  (s.waiters q).foldl (fun (x : State) p => x.reissue p.1) s

/-! ## Barrier objects (R214, R215, R44) -/

/-- A barrier object's fields (R214). -/
structure Bar where
  gen : Nat
  pend : Nat
  expect : Nat
  rsv0 : Nat
  inn : Nat
  out : Nat
  err : Nat
  rsv1 : Nat
  deriving DecidableEq, Repr, Inhabited

def Bar.ofNat (b : Nat) : Bar :=
  ⟨fld b 0 4, fld b 4 16, fld b 20 16, fld b 36 28, fld b 64 24, fld b 88 24, fld b 112 8, fld b 120 8⟩

def Bar.toNat (b : Bar) : Nat :=
  b.gen + b.pend * 2 ^ 4 + b.expect * 2 ^ 20 + b.rsv0 * 2 ^ 36 + b.inn * 2 ^ 64 + b.out * 2 ^ 88
    + b.err * 2 ^ 112 + b.rsv1 * 2 ^ 120

/-- ERR bits (R214). -/
def errCef : Nat := 0
def errGtf : Nat := 1
def errBroken : Nat := 2
def errCanc : Nat := 3
def errUnder : Nat := 4
def errOver : Nat := 5

/-- ERR as the device reads it back: bit 7 is reserved and reads as zero (R6, R214). -/
def Bar.status (b : Bar) : Nat := b.err % 128

/-- Set an ERR bit. -/
def Bar.setErr (b : Bar) (bit : Nat) : Bar := { b with err := b.err ||| 2 ^ bit }

/-- Take c from a field, or set UNDER and leave it at zero (R217, R219). -/
def Bar.take (b : Bar) (f : Nat) (c : Nat) : Bar × Nat :=
  if f < c then (b.setErr errUnder, 0) else (b, f - c)

/-- c arrivals (R217). -/
def Bar.arrive (b : Bar) (c : Nat) : Bar :=
  let (b1, p) := b.take b.pend c
  { b1 with pend := p }

/-- One count-down of IN, or of OUT (R219, R288). -/
def Bar.count (b : Bar) (out : Bool) : Bar :=
  if out then
    let (b1, p) := b.take b.out 1
    { b1 with out := p }
  else
    let (b1, p) := b.take b.inn 1
    { b1 with inn := p }

/-- R44: with PEND, IN and OUT all zero the generation completes. The second component is the
generation completed. -/
def Bar.settle (b : Bar) : Bar × Option Nat :=
  if b.pend = 0 ∧ b.inn = 0 ∧ b.out = 0 then
    ({ b with gen := (b.gen + 1) % 16, pend := b.expect }, some b.gen)
  else (b, none)

/-- The object at a scratch offset. -/
def Gang.bar (g : Gang) (off : Nat) : Bar := Bar.ofNat (g.scrNat off 16)
def Gang.setBar (g : Gang) (off : Nat) (b : Bar) : Gang := g.scrWrite off (bytesOf 16 b.toNat)

/-- Is an offset that of a 16-byte aligned object in the allocation? -/
def Gang.barOk (g : Gang) (off : Nat) : Bool := decide (off % 16 = 0) && g.inBounds off 16

/-- Wake a wave from a barrier wait or yield with a status (R180, R218). -/
def State.wakeBar (s : State) (k : Nat) (w : Wave) (status : Nat) : State :=
  match w.wait.map Wait.insn with
  | some (.barWait o) =>
    s.endWait k (w.setG o.d.toNat (BitVec.ofNat 64 status)) (w.pc + 8) true
  | some (.yield o) =>
    s.endWait k (w.setG o.d.toNat (BitVec.ofNat 64 status)) (w.pc + o.off24 * 8) true
  | _ => s

/-! ## Copy engines and programs -/

/-- The observer that a copy program or gather job of an owner is, on a die (I/O die i is 4 + i). -/
def State.jobObs (s : State) (o : Owner) (die : Nat) : Obs :=
  { ctx := o.ctx, dm := dieMask (s.devDies o.ctx o.dev), die := die, core := none,
    slot := o.slot.map (fun p => (p.1, BitVec.ofNat 10 p.2)) }

/-- The die of an engine key: its core's, or 4 + i for an engine of I/O die i. -/
def engineDie (e : Nat) : Nat := if e < 1024 then coreDie e else 4 + (e - 1024) / 32

def State.prog? (s : State) (e slot : Nat) : Option Prog := (s.engine e).slots.find slot
def State.setProg (s : State) (e slot : Nat) (p : Prog) : State :=
  let x := s.engine e
  s.setEngine e { x with slots := x.slots.put slot p }
def State.delProg (s : State) (e slot : Nat) : State :=
  let x := s.engine e
  s.setEngine e { x with slots := x.slots.del slot }

def Prog.setE (p : Prog) (r : Nat) (v : W64) : Prog := { p with e := p.e.set r 0 v }
def Prog.getE (p : Prog) (r : Nat) : W64 := p.e.getD r 0

/-- Wake a program from WAITX with a status: an acquire point, and the program goes on (R289,
R292). -/
def State.wakeProg (s : State) (e slot : Nat) (p : Prog) (status : Nat) : State :=
  (s.acquire (s.jobObs p.owner (engineDie e))).setProg e slot
    { p.setE p.waitReg (BitVec.ofNat 64 status) with st := 1, cpc := p.cpc + 4 }

/-- Wake the waves and programs of a gang that wait on an object and satisfy a test on the awaited
generation (R44). -/
def State.wakeOn (s : State) (g : Nat) (off : Nat) (q : Nat → Bool) (status : Nat) : State :=
  let ws := s.waiters (fun w x =>
    w.gang = g && (x.kind = .barrier || x.kind = .yield) && x.obj = off && q x.gen)
  let s1 := ws.foldl (fun (x : State) p => x.wakeBar p.1 p.2 status) s
  let cores := ((s.gangs.find g).map (·.cores)).getD []
  cores.foldl (fun (x : State) c =>
    ((x.engine c).slots.filter (fun p => p.2.st = 2 && p.2.owner.gang = some g
      && p.2.waitObj = off && q p.2.waitGen)).foldl
        (fun (y : State) p => y.wakeProg c p.1 p.2 status) x) s1

/-- Write an object as changed, apply R44, and wake its waiters: those of a completed generation, and
all of them once ERR is not zero (R44, R215). -/
def State.putBar (s : State) (g : Nat) (off : Nat) (b : Bar) (settle : Bool) : State :=
  let r := if settle then b.settle else (b, none)
  let s1 := s.modGang g (fun x => x.setBar off r.1)
  if r.1.status != 0 then s1.wakeOn g off (fun _ => true) r.1.status
  else match r.2 with
    | some gen => s1.wakeOn g off (fun x => x = gen) 0
    | none => s1

/-- Change the object at an offset of a gang, if it lies in the allocation. -/
def State.modBar (s : State) (g : Nat) (off : Nat) (settle : Bool) (f : Bar → Bar) : State :=
  match s.gangs.find g with
  | some x => if x.barOk off then s.putBar g off (f (x.bar off)) settle else s
  | none => s

/-! ## Footprints (R110) -/

/-- Do two ranges of bytes share a 16-byte granule? -/
def granOverlap (a an b bn : Nat) : Bool :=
  an != 0 && bn != 0 && decide (a / 16 ≤ (b + bn - 1) / 16) && decide (b / 16 ≤ (a + an - 1) / 16)

/-- The registered job of a gang, if any, that holds an access of its waves (R110). -/
def State.heldBy (s : State) (g : Nat) (wr sp : Bool) (base n : Nat) : Option Nat :=
  let cores := ((s.gangs.find g).map (·.cores)).getD []
  (cores.flatMap (fun c => (s.core c).fps)).findSome? (fun f =>
    if f.gang = g && f.ranges.any (fun r => r.sp = sp && (wr || r.wr)
        && granOverlap r.base r.len base n) then some f.job else none)

/-- Register a job's footprint on a core, unless it has none (R110). -/
def State.registerFp (s : State) (c job g : Nat) (rs : List Range) : State :=
  let live := rs.filter (fun r => r.len != 0)
  if live = [] then s else s.modCore c (fun k => { k with fps := k.fps ++ [⟨job, g, live⟩] })

/-- A job needs a footprint entry and has one free, or needs none (R110). -/
def State.fpRoom (s : State) (c : Nat) (rs : List Range) : Bool :=
  (rs.filter (fun r => r.len != 0)).isEmpty || decide ((s.core c).fps.length < 8)

/-- A job completes or is discarded: its footprint goes, and the waves that it held, or that wait for
an entry of its core, re-issue (R43, R110). -/
def State.dropFp (s : State) (job : Nat) : State :=
  let cs := (s.cores.filter (fun p => p.2.fps.any (fun f => f.job = job))).map (·.1)
  let s1 := cs.foldl (fun (x : State) c => x.modCore c (fun k => { k with
    fps := k.fps.filter (fun f => f.job != job) })) s
  s1.reissueAll (fun _ x => x.kind = .footprint
    && ((x.gen = 0 && x.obj = job) || (x.gen = 2 && cs.contains x.obj)))

/-! ## The array claim (R229, R236) -/

/-- Give a core's claim to its oldest claimant, which re-issues; or leave it free. -/
def State.passClaim (s : State) (c : Nat) : State :=
  match s.waiters (fun _ x => x.kind = .claim && x.obj = c) with
  | p :: _ => (s.modCore c (fun k => { k with claim := some p.1 })).reissue p.1
  | [] => s.modCore c (fun k => { k with claim := none })

/-- Release every claim that a wave holds. -/
def State.dropClaims (s : State) (k : Nat) : State :=
  ((s.cores.filter (fun p => p.2.claim = some k)).map (·.1)).foldl
    (fun (x : State) c => x.passClaim c) s

/-! ## The end of a wave (R38, R181) -/

/-- A wave leaves its slot: its claims pass on, and its slot's segment advances (R114). -/
def State.leaveSlot (s : State) (k : Nat) : State :=
  let s1 := { s with waves := s.waves.del k }
  (s1.segment k).dropClaims k

/-- The holder of a claim in the name of a wave discarded from slot k, whose matrix instructions have yet to
run (R229, R237). -/
def lateClaim (k : Nat) : Nat := 2 ^ 14 + k

/-- A wave's claims stay with the instructions that it leaves behind. -/
def State.keepClaims (s : State) (k : Nat) : State :=
  { s with cores := s.cores.map (fun p =>
      if p.2.claim = some k then (p.1, { p.2 with claim := some (lateClaim k) }) else p) }

/-- A wave is discarded (R343, R389): what it had issued and the units had not performed goes with it,
but for its matrix instructions, which complete holding its claims (R236, R237). -/
def State.discardWave (s : State) (k : Nat) : State :=
  let s1 := if s.matBusy k then s.keepClaims k else s
  { s1.leaveSlot k with
    redgs := s.redgs.filter (·.wave != k)
    poolReqs := s.poolReqs.filter (·.wave != k) }

/-- A wave ends: a release point (R96), and it leaves its slot. -/
def State.endWave (s : State) (k : Nat) (w : Wave) : State := (s.releasePoint k w false).leaveSlot k

/-! ## Named queues (R208-R211) -/

/-- A queue's header (R208). -/
structure Que where
  head : Nat
  tail : Nat
  cap : Nat
  esz : Nat
  rsv0 : Nat
  allow : Nat
  rsv1 : Nat
  pwait : Nat
  swait : Nat
  deriving DecidableEq, Repr, Inhabited

def Que.ofNat (x : Nat) : Que :=
  ⟨fld x 0 32, fld x 32 32, fld x 64 16, fld x 80 1, fld x 81 15, fld x 96 16, fld x 112 16,
    fld x 128 64, fld x 192 64⟩

def Que.toNat (q : Que) : Nat :=
  q.head + q.tail * 2 ^ 32 + q.cap * 2 ^ 64 + q.esz * 2 ^ 80 + q.rsv0 * 2 ^ 81 + q.allow * 2 ^ 96
    + q.rsv1 * 2 ^ 112 + q.pwait * 2 ^ 128 + q.swait * 2 ^ 192

def Gang.que (g : Gang) (off : Nat) : Que := Que.ofNat (g.scrNat off 32)
def Gang.setQue (g : Gang) (off : Nat) (q : Que) : Gang := g.scrWrite off (bytesOf 32 q.toNat)

/-- Bytes of an entry. -/
def Que.ebytes (q : Que) : Nat := if q.esz = 0 then 8 else 16
/-- Entries held. -/
def Que.count (q : Que) : Nat := (q.tail + 2 ^ 32 - q.head) % 2 ^ 32
/-- Is n a power of two, 1 to 32,768? -/
def capOk (n : Nat) : Bool := (List.range 16).any (fun i => n = 2 ^ i)

/-- Can the header be used: CAP, the entry area, and ESZ when the instruction has one (R209)? -/
def Gang.queOk (g : Gang) (off : Nat) (sz : Option Nat) : Bool :=
  decide (off % 32 = 0) && g.inBounds off 32
    && (let q := g.que off
        capOk q.cap && g.inBounds off (32 + q.cap * q.ebytes)
          && (match sz with
              | some z => q.esz = z
              | none => true)
          && q.rsv0 = 0 && q.rsv1 = 0)

/-- The offset of entry number m. -/
def Que.slot (q : Que) (off m : Nat) : Nat := off + 32 + m % q.cap * q.ebytes

/-- Append entries, which take send allowance (R210). -/
def Gang.pushEntries (g : Gang) (off : Nat) (es : List Nat) : Gang :=
  let q := g.que off
  let g1 := (es.zipIdx).foldl (fun (x : Gang) p =>
    x.scrWrite (q.slot off (q.tail + p.2)) (bytesOf q.ebytes p.1)) g
  g1.setQue off { q with tail := (q.tail + es.length) % 2 ^ 32, allow := q.allow - es.length }

/-- The oldest n entries. -/
def Gang.peekEntries (g : Gang) (off n : Nat) : List Nat :=
  let q := g.que off
  (List.range n).map (fun i => g.scrNat (q.slot off (q.head + i)) q.ebytes)

/-- Take n entries, which return send allowance (R210). -/
def Gang.dropEntries (g : Gang) (off n : Nat) : Gang :=
  let q := g.que off
  g.setQue off { q with head := (q.head + n) % 2 ^ 32, allow := q.allow + n }

/-- The bit of PWAIT or SWAIT of a wave (R208). -/
def Wave.qbit (w : Wave) : Nat := w.wg * 16 + w.wid

def setBitN (x i : Nat) (b : Bool) : Nat :=
  if b then x ||| 2 ^ i else if bitN x i then x - 2 ^ i else x

/-- Mark a wave as blocked, or not, in a header. -/
def Gang.markWait (g : Gang) (off : Nat) (push : Bool) (bit : Nat) (b : Bool) : Gang :=
  let q := g.que off
  g.setQue off (if push then { q with swait := setBitN q.swait bit b }
    else { q with pwait := setBitN q.pwait bit b })

/-- Entries that a queue instruction moves: one, or one an active lane (R210). -/
def Wave.qcount (w : Wave) (o : WOp) : Nat := if o.grp then 1 else (w.active o.guard).length

/-- The entries that a QPUSH sends, in order (R210). -/
def Wave.qsources (w : Wave) (o : WOp) : List Nat :=
  let big := o.m.getLsbD 0
  let a := o.a.toNat
  if o.grp then
    [(w.greg a).toNat + (if big then (w.greg (a + 1)).toNat * 2 ^ 64 else 0)]
  else (w.active o.guard).map (w.vgrp (if big then 4 else 2) a)

/-- Deliver popped entries to the destinations of a QPOP or QTRY, in order (R210). -/
def Wave.qdeliver (w : Wave) (o : WOp) (es : List Nat) : Wave :=
  let big := o.m.getLsbD 0
  let d := o.d.toNat
  if o.grp then
    let x := nth es 0 0
    let w1 := w.setG d (BitVec.ofNat 64 x)
    if big then w1.setG (d + 1) (BitVec.ofNat 64 (x / 2 ^ 64)) else w1
  else ((w.active o.guard).zip es).foldl
    (fun (x : Wave) p => x.setVgrp (if big then 4 else 2) d p.1 p.2) w

/-- Is another wave blocked on this side of the queue (an older request, R210)? -/
def State.qblocked (s : State) (g off : Nat) (push : Bool) : List (Nat × Wave) :=
  s.waiters (fun w x => w.gang = g && x.obj = off && x.kind = (if push then .push else .pop))

/-- One attempt to serve the oldest blocked popper, or pusher (R210). -/
def State.qserve (s : State) (g off : Nat) (push : Bool) : Option State :=
  match s.qblocked g off push, s.gangs.find g with
  | (k, w) :: _, some x =>
    match w.wait.map Wait.insn with
    | some (.qpop o) =>
      let n := w.qcount o
      if n ≤ (x.que off).count then
        let x1 := (x.dropEntries off n).markWait off false w.qbit false
        some ((s.setGang g x1).endWait k (w.qdeliver o (x.peekEntries off n)) (w.pc + 8) true)
      else none
    | some (.qpush o) =>
      let es := w.qsources o
      if es.length ≤ (x.que off).allow then
        let x1 := (x.pushEntries off es).markWait off true w.qbit false
        some ((s.setGang g x1).endWait k w (w.pc + 8) false)
      else none
    | _ => none
  | _, _ => none

/-- Rounds of retries, until one moves nothing (R210). -/
def State.qrounds (s : State) (g off : Nat) : Nat → State
  | 0 => s
  | n + 1 =>
    let s1 := s.qserve g off false
    let s2 := s1.getD s
    let s3 := s2.qserve g off true
    if s1.isSome || s3.isSome then (s3.getD s2).qrounds g off n else s

/-- Retry the blocked requests of a queue after its header changed. -/
def State.qretry (s : State) (g off : Nat) : State :=
  s.qrounds g off ((s.qblocked g off false).length + (s.qblocked g off true).length + 1)

end Sys2Proof.Machine
end

