-- ==== Sys2Proof/Machine/Control.lean ====
section
/-! DEFINITION. Control flow, convergence, yield, end and trap (R173-R182), mode and flags (R139,
R140), and identity and capability (R20-R25). -/

namespace Sys2Proof.Machine

/-! ## Branches and calls (R30, R173, R176, R177) -/

/-- The address after an instruction. -/
def Wave.next (w : Wave) (o : WOp) : W64 := w.pc + BitVec.ofNat 64 o.len

/-- A relative target (R173). -/
def Wave.target (w : Wave) (o : WOp) : W64 := w.pc + o.off24 * 8

/-- Are bits [2:0] of a target zero? -/
def aligned8 (t : W64) : Bool := t.extractLsb' 0 3 = 0

/-- A branch to t by the cases of R30; an indirect target that is taken must be aligned. -/
def branchTo (o : WOp) (s : State) (k : Nat) (w : Wave) (t : W64) (indirect : Bool) : Out :=
  match o.guard with
  | .p _ _ =>
    let tk := maskOf (w.active o.guard)
    if tk = 0 then .next (s.retireAt k w (w.next o))
    else if indirect && !aligned8 t then illegalField s k w 32
    else if tk = w.exm then .next (s.retireAt k w t)
    else match w.push 1 (w.exm &&& ~~~tk) (w.next o) with
      | none => trapWith s k w 0x0005 w.stack.length 0 0 0
      | some x => .next (s.retireAt k { x with exm := tk } t)
  | _ =>
    if w.guardGrp o.guard then
      if indirect && !aligned8 t then illegalField s k w 32 else .next (s.retireAt k w t)
    else .next (s.retireAt k w (w.next o))

def execBra (o : WOp) (s : State) : Out :=
  onWave s (fun k w => branchTo o s k w (w.target o) false)

def execBraIndirect (o : WOp) (s : State) : Out :=
  onWave s (fun k w => branchTo o s k w (w.greg o.a.toNat) true)

def execCall (o : WOp) (s : State) : Out :=
  onGroup s o (fun k w => .next (s.retireAt k (w.setG o.d.toNat (w.pc + 8)) (w.target o)))

def execCallIndirect (o : WOp) (s : State) : Out :=
  onGroup s o (fun k w =>
    let t := w.greg o.a.toNat
    if aligned8 t then .next (s.retireAt k (w.setG o.d.toNat (w.pc + 8)) t)
    else illegalField s k w 32)

def execRet (o : WOp) (s : State) : Out :=
  onGroup s o (fun k w =>
    let t := w.greg o.a.toNat
    if aligned8 t then .next (s.retireAt k w t) else illegalField s k w 32)

/-! ## Convergence and the mask (R31, R178, R179) -/

def execCvgPush (o : WOp) (s : State) : Out :=
  onGroup s o (fun k w =>
    match w.push 0 w.exm (w.target o) with
    | none => trapWith s k w 0x0005 w.stack.length 0 0 0
    | some x => .next (s.retireAt k x (w.next o)))

/-- Pop as CVG.JOIN does, or trap (R31). -/
def popJoin (o : WOp) (s : State) (k : Nat) (w0 w : Wave) : Out :=
  match w.pop (w.next o) with
  | .ok x => .next (s.retireAt k x x.pc)
  | .error c => trapWith s k w0 c w0.stack.length 0 0 0

def execCvgJoin (o : WOp) (s : State) : Out := onGroup s o (fun k w => popJoin o s k w w)

def execExmGet (o : WOp) (s : State) : Out :=
  onGroup s o (fun k w => .next (s.retire k (w.setG o.d.toNat w.exm) o.len))

def execExmSet (o : WOp) (s : State) : Out :=
  onGroup s o (fun k w =>
    let v := if o.ext.isSome then o.imm64 else w.greg o.a.toNat
    .next (s.retire k (w.setExm v) o.len))

/-! ## Yield, end, trap (R38, R180-R182) -/

/-- The checks that BAR.WAIT and YIELD make on their object (R218): alignment, place, reserved
fields. -/
def Gang.waitable (g : Gang) (off : Nat) : Bool :=
  g.barOk off && (g.bar off).rsv0 = 0 && (g.bar off).rsv1 = 0 && (g.bar off).err / 128 = 0

def execYield (o : WOp) (s : State) : Out :=
  onGroup s o (fun k w =>
    match s.gangs.find w.gang with
    | none => .refused (.notEnabled "YIELD")
    | some g =>
      let off := (w.greg o.a.toNat).toNat % 2 ^ 32
      if !g.barOk off then illegalField s k w 32
      else if s.redgBusy k || s.scrBusy k off 16 then stall s
      else if !g.waitable off then illegalField s k w 32
      else
        let b := g.bar off
        if b.err != 0 then
          .next ((s.acquirePoint k w).retireAt k (w.setG o.d.toNat (BitVec.ofNat 64 b.err))
            (w.target o))
        else .next (s.waitOn k w .yield off b.gen (.yield o)))

/-- END: the lanes that end, and where the wave goes on (R181). A GP guard that does not hold leaves it no effect
at all (R124), with EXM = 0 too, where R181's steps would end the wave or pop (log 135). Its wave's end waits for
lanes that the pool unit has yet to answer (log 140). -/
def execEnd (o : WOp) (s : State) : Out :=
  onGroup s o (fun k w =>
    let e := maskOf (w.active o.guard)
    let w1 := { w.dropLive e with exm := w.exm &&& ~~~e }
    if w1.live = 0 || (w1.exm = 0 && w1.stack.isEmpty) then
      if s.endBusy k then stall s else .next (s.endWave k w1)
    else if w1.exm != 0 then .next (s.retire k w1 o.len)
    else popJoin o s k w w1)

def execTrap (o : WOp) (s : State) : Out :=
  onGroup s o (fun k w => trapWith s k w 0x0003 o.c.toNat 0 0 0)

/-! ## Mode and flags (R139, R140) -/

/-- The 32-bit operand of SETMODE, SETFLAGS and CLRFLAGS. -/
def Wave.modeVal (w : Wave) (o : WOp) : W32 :=
  if o.ext.isSome then o.imm32 else (w.greg o.a.toNat).extractLsb' 0 32

def execGetmode (o : WOp) (s : State) : Out :=
  onGroup s o (fun k w => .next (s.retire k (w.setG o.d.toNat (w.regs.mode.setWidth 64)) o.len))

def execSetmode (o : WOp) (s : State) : Out :=
  onGroup s o (fun k w =>
    .next (s.retire k { w with regs := { w.regs with mode := w.modeVal o &&& modeMask } } o.len))

/-- An instruction on FLAGS waits for the matrix instructions whose flags are to come (R140). -/
def onFlags (o : WOp) (s : State) (f : Wave → Wave) : Out :=
  onGroup s o (fun k w => if s.matBusy k then stall s else .next (s.retire k (f w) o.len))

def execGetflags (o : WOp) (s : State) : Out :=
  onFlags o s (fun w => w.setG o.d.toNat (w.regs.flags.setWidth 64))

def execSetflags (o : WOp) (s : State) : Out :=
  onFlags o s (fun w => { w with regs := { w.regs with flags := w.modeVal o &&& flagsMask } })

def execClrflags (o : WOp) (s : State) : Out :=
  onFlags o s (fun w => { w with regs := { w.regs with flags := w.regs.flags &&& ~~~(w.modeVal o) } })

/-! ## GETID and GETCAP (R20-R25) -/

/-- Position of an element in a list. -/
def indexIn : List Nat → Nat → Nat
  | [], _ => 0
  | x :: t, y => if x = y then 0 else 1 + indexIn t y

/-- The value of a GETID selector (R23). -/
def State.idVal (s : State) (k : Nat) (w : Wave) (sel lane : Nat) : Nat :=
  let c := slotCore k
  match s.gangs.find w.gang with
  | none => 0
  | some g =>
    let ent := s.entry? g.ctx g.launch
    let dies := s.devDies g.ctx g.dev
    match sel with
    | 0x00 => lane
    | 0x01 => w.width
    | 0x02 => w.wid
    | 0x03 => g.waves
    | 0x04 => w.wg
    | 0x05 => g.cores.length
    | 0x06 => g.gangId
    | 0x07 => (ent.map (·.gangs)).getD 0
    | 0x08 => indexIn (s.logicalCores dies) c
    | 0x09 => indexIn dies (coreDie c)
    | 0x0A => corePhys c / 4
    | 0x0B => corePhys c % 4
    | 0x0C => g.dev
    | 0x0D => g.launch
    | 0x0E => (ent.map (·.graph)).getD 0
    | 0x0F => (ent.map (·.phase)).getD 0
    | 0x10 => (ent.map (·.job)).getD 0
    | 0x11 => g.ctx
    | 0x12 => (ent.map (·.prio)).getD 0
    | 0x13 => k
    | 0x14 => (s.core c).cycle
    | _ => if (s.die (coreDie c)).fil.owner = g.ctx then 1 else 0

/-- The value of a GETCAP selector, for a device's dies and the die issued on (R25). -/
def State.capVal (s : State) (dies : List Nat) (die : Option Nat) (sel : Nat) : Nat :=
  match sel with
  | 0x00 => 0x00040002
  | 0x01 => 3
  | 0x02 => dies.length
  | 0x03 => (s.logicalCores dies).length
  | 0x04 => match die with
    | some d => (s.logicalCores [d]).length
    | none => 0
  | 0x05 => 393216
  | 0x06 => 131072
  | 0x07 => 262144
  | 0x08 => 64
  | 0x09 => 8
  | 0x0A => 0x00800200
  | 0x0B => 160
  | 0x0C => 65536
  | 0x0D => 32
  | 0x0E => 16
  | 0x0F => 8
  | 0x10 => 4096
  | 0x11 => 16
  | 0x12 => 256
  | 0x13 => 4
  | 0x14 => 128
  | 0x15 => 16
  | 0x16 => 8
  | 0x17 => 8
  | 0x18 => 32
  | 0x19 => 256
  | 0x1A => 65536
  | _ => 4096

/-- Write a selector's value to the cells of the instruction (R21). -/
def idWrite (o : WOp) (s : State) (w64 : Bool) (f : Nat → Wave → Nat → Nat) : Out :=
  onWave s (fun k w =>
    let w1 := (w.cells o).foldl (fun (x : Wave) c =>
      match c with
      | .lane l => x.setVgrp (if w64 then 2 else 1) o.d.toNat l (f k w l)
      | .grp => x.setG o.d.toNat (BitVec.ofNat 64 (f k w 0))) w
    .next (s.retire k w1 o.len))

def execGetid (o : WOp) (s : State) : Out :=
  idWrite o s (idSel64 o.c.toNat) (fun k w l => s.idVal k w o.c.toNat l)

def execGetcap (o : WOp) (s : State) : Out :=
  idWrite o s false (fun k w _ =>
    let g := s.gangs.find w.gang
    let dies := s.devDies ((g.map (·.ctx)).getD 0) ((g.map (·.dev)).getD 0)
    s.capVal dies (some (coreDie (slotCore k))) o.c.toNat)

end Sys2Proof.Machine
end

