-- ==== Sys2Proof/Machine/FloatOps.lean ====
section
/-! DEFINITION. Floating-point instructions and conversion (R57-R63, R163, R166-R172). -/

namespace Sys2Proof.Machine

/-- Does DAZ, or FTZ, act on a TYPE: never on FP64 (R58)? -/
def flushes (t : Nat) (bit : Bool) : Bool := bit && t != 9

/-- Element i of a float operand, under DAZ. -/
def flElem (t : Nat) (daz : Bool) (x i : Nat) : Fl := readFl (tyFmt t) (flushes t daz) (elem t x i)

/-- A float instruction on one operand. -/
def flOp1 (o : WOp) (s : State) (f : Fmt → Rm → Bool → Fl → Nat × W32) : Out :=
  runAlu o s (fun w c =>
    let md := w.regs.mode
    perElem o.ty (fun i => f (tyFmt o.ty) (rmSel md o.rnd) (flushes o.ty (modeFtz md))
      (flElem o.ty (modeDaz md) (w.opA o c) i)))

/-- A float instruction on two operands. -/
def flOp2 (o : WOp) (s : State) (f : Fmt → Rm → Bool → Fl → Fl → Nat × W32) : Out :=
  runAlu o s (fun w c =>
    let md := w.regs.mode
    perElem o.ty (fun i => f (tyFmt o.ty) (rmSel md o.rnd) (flushes o.ty (modeFtz md))
      (flElem o.ty (modeDaz md) (w.opA o c) i) (flElem o.ty (modeDaz md) (w.opB o c) i)))

/-! ## Arithmetic (R166) -/

def execFadd (o : WOp) (s : State) : Out := flOp2 o s flAdd
def execFsub (o : WOp) (s : State) : Out := flOp2 o s (fun f rm z a b => flAdd f rm z a b.negate)
def execFmul (o : WOp) (s : State) : Out := flOp2 o s flMul

/-- FFMA rounded once, or product then sum under LEGFMA (R58, R166). -/
def fmaBy (leg : Bool) (f : Fmt) (rm : Rm) (ftz : Bool) (a b c : Fl) : Nat × W32 :=
  if leg then
    let (p, fl1) := flMul f rm ftz a b
    let (v, fl2) := flAdd f rm ftz (decFl f p) c
    (v, fl1 ||| fl2)
  else flFma f rm ftz a b c

def execFfma (o : WOp) (s : State) : Out :=
  runAlu o s (fun w c =>
    let md := w.regs.mode
    let rd := fun x i => flElem o.ty (modeDaz md) x i
    perElem o.ty (fun i => fmaBy (modeLegFma md) (tyFmt o.ty) (rmSel md o.rnd)
      (flushes o.ty (modeFtz md)) (rd (w.opA o c) i) (rd (w.opB o c) i) (rd (w.opC o c) i)))

/-! ## Minimum and maximum (R60, R167) -/

/-- A code as read under DAZ: a subnormal becomes the zero of its sign. -/
def dazCode (f : Fmt) (daz : Bool) (code : Nat) : Nat :=
  if daz && isSubnormal f code then code / 2 ^ (f.width - 1) * 2 ^ (f.width - 1) else code

/-- FMIN or FMAX of one element. -/
def minMaxElem (t : Nat) (md : W32) (mx : Bool) (x y : Nat) : Nat × W32 :=
  let f := tyFmt t
  let ca := dazCode f (flushes t (modeDaz md)) x
  let cb := dazCode f (flushes t (modeDaz md)) y
  flMinMax f mx (modeLegMm md) ca cb (decFl f ca) (decFl f cb)

def fminmax (o : WOp) (s : State) (mx : Bool) : Out :=
  runAlu o s (fun w c => perElem o.ty (fun i =>
    minMaxElem o.ty w.regs.mode mx (elem o.ty (w.opA o c) i) (elem o.ty (w.opB o c) i)))

def execFmin (o : WOp) (s : State) : Out := fminmax o s false
def execFmax (o : WOp) (s : State) : Out := fminmax o s true

/-! ## Comparison (R163) -/

/-- The conditions of FCMP; the last component tells those that set IV on a quiet NaN. -/
def fcond (n : Nat) (a b : Fl) : Bool × Bool :=
  let un := a.isNan || b.isNan
  let eq := !un && decide (flCmp a b = .eq)
  let lt := !un && decide (flCmp a b = .lt)
  let gt := !un && decide (flCmp a b = .gt)
  match n with
  | 0 => (eq, false)
  | 1 => (!un && !eq, false)
  | 2 => (lt, true)
  | 3 => (lt || eq, true)
  | 4 => (gt, true)
  | 5 => (gt || eq, true)
  | 6 => (!un, false)
  | 7 => (un, false)
  | 8 => (un || eq, false)
  | 9 => (un || !eq, false)
  | 10 => (un || lt, true)
  | 11 => (un || lt || eq, true)
  | 12 => (un || gt, true)
  | _ => (un || gt || eq, true)

def execFcmp (o : WOp) (s : State) : Out :=
  runPred o s (fun w c =>
    let daz := modeDaz w.regs.mode
    let a := flElem o.ty daz (w.opA o c) 0
    let b := flElem o.ty daz (w.opB o c) 0
    let (t, quiet) := fcond (o.fn.extractLsb' 0 4).toNat a b
    let iv := a.isSig || b.isSig || (quiet && (a.isNan || b.isNan))
    (combine o t (w.srcPC c o.c), flIf iv flIV))

/-! ## Correctly rounded functions (R62, R168) -/

def execFrcp (o : WOp) (s : State) : Out :=
  flOp1 o s (fun f rm z a => flDiv f rm z (.fin false 1 0) a)
def execFrsq (o : WOp) (s : State) : Out := flOp1 o s flRsqrt
def execFsqrt (o : WOp) (s : State) : Out := flOp1 o s flSqrt
def execFdiv (o : WOp) (s : State) : Out := flOp2 o s flDiv
def execFexp2 (o : WOp) (s : State) : Out := flOp1 o s flExp2
def execFlog2 (o : WOp) (s : State) : Out := flOp1 o s flLog2

/-! ## Sign (R169) -/

def execFneg (o : WOp) (s : State) : Out :=
  runAlu o s (fun w c => perElem o.ty (fun i =>
    (elem o.ty (w.opA o c) i ^^^ 2 ^ (tyWidth o.ty - 1), 0)))

def execFabs (o : WOp) (s : State) : Out :=
  runAlu o s (fun w c => perElem o.ty (fun i =>
    let x := elem o.ty (w.opA o c) i
    (if (decFl (tyFmt o.ty) x).isNan then (tyFmt o.ty).nan else x % 2 ^ (tyWidth o.ty - 1), 0)))

/-! ## Conversion (R130, R170-R172) -/

/-- Destination and source codes of CVT (R130). -/
def cvtDst (o : WOp) : Nat := (o.m.extractLsb' 0 4).toNat
def cvtSrc (o : WOp) : Nat := (o.m.extractLsb' 4 4).toNat

/-- The rounding of CVT: as named, RTZ from float to integer, else MODE.RM (R57, R171). -/
def cvtRm (o : WOp) (mode : W32) : Rm :=
  let n := (o.fn.extractLsb' 0 3).toNat
  if n = 0 ∧ cvtDst o ≤ 5 ∧ 6 ≤ cvtSrc o then .rtz else rmSel mode n

/-- Is a CVT result extended with its sign: INT4S, INT8, INT16, INT32 (R170)? -/
def cvtSigned (dst : Nat) : Bool := dst = 0 || dst = 1 || dst = 3 || dst = 4

/-- A destination value of fewer than 32 bits in its 32-bit place (R170). -/
def cvtPlace (dst x : Nat) : Nat :=
  if fmtW dst < 32 ∧ cvtSigned dst then intCode 32 (sgnN x (fmtW dst)) else x

def execCvt (o : WOp) (s : State) : Out :=
  runCells o s (fun w c =>
      let src := w.reg c (fmtW (cvtSrc o) = 64) o.a.toNat
      let (x, fl) := convert (cvtDst o) (cvtSrc o) (cvtRm o w.regs.mode) (o.fn.getLsbD 3) src
      (cvtPlace (cvtDst o) x, fl))
    (fun w c x => w.setReg c (fmtW (cvtDst o) = 64) (cvtSigned (cvtDst o)) o.d.toNat x)

end Sys2Proof.Machine
end

