-- ==== Sys2Proof/Machine/MemInstr.lean ====
section
/-! DEFINITION. Memory instructions (R75-R82, R192-R204): global, scratch and constant loads and
stores, atomics, reductions and their updates, prefetch, fences and instruction-cache
invalidation. -/

namespace Sys2Proof.Machine

/-! ## Addresses (R75) -/

/-- The displacement, modulo 2^64. -/
def disp64 (o : WOp) : W64 :=
  if o.ext.isSome then o.imm32.signExtend 64 else o.c.signExtend 64 * 16

/-- The address of R75 for a 32-bit offset. -/
def Wave.addrOf (w : Wave) (o : WOp) (off : W32) : Nat :=
  let x : W64 := if o.sgn then off.signExtend 64 else off.setWidth 64
  (w.greg o.a.toNat + x * BitVec.ofNat 64 o.sz + disp64 o).toNat

/-- The address of a lane (R75). -/
def Wave.laneAddr (w : Wave) (o : WOp) (l : Nat) : Nat :=
  w.addrOf o (if o.sB then (w.greg o.b.toNat).extractLsb' 0 32 else w.vreg o.b.toNat l)

/-- V registers of a value of sz bytes (R193). -/
def vregsOf (sz : Nat) : Nat := if sz ≤ 4 then 1 else sz / 4

/-- A loaded value, extended to 32 bits when it is shorter (R193). -/
def loadExt (sz : Nat) (sx : Bool) (bits : Nat) (bs : List Byte) : Nat :=
  let x := natOf bs
  if sx && decide (sz < 4) then intCode bits (sgnN x (8 * sz)) else x

/-! ## Waits before an access (R101, R108, R110, R195) -/

/-- The job of a registered footprint that holds an access of some active lane. -/
def State.fpHold (s : State) (w : Wave) (ls : List (Nat × Nat)) (wr sp : Bool) : Option Nat :=
  ls.findSome? (fun p => s.heldBy w.gang wr sp p.1 p.2)

/-- Must an access to one PA of a wave follow its REDG to another: do they share a byte (R100), or a peer
window (R385)? -/
def State.paMeet (s : State) (a n b m : Nat) : Bool :=
  decide (a < b + m) && decide (b < a + n) ||
    (match s.paKind a, s.paKind b with
    | .peer i _, .peer j _ => i = j
    | _, _ => false)

/-- Does an access of the wave meet a location that one of its REDGs has yet to update (R100, R385), or an
island that does not perform (R399)? -/
def State.accBusy (s : State) (k : Nat) (w : Wave) (ls : List (Nat × Nat)) : Bool :=
  !s.slicesOn (s.waveObs k w) ls || s.redgBusy k && ls.any (fun p =>
    match (s.span (s.waveObs k w) none .read p.1 p.2).2 with
    | .ok ps => ps.any (fun x => s.redgs.any (fun r => r.wave = k && s.paMeet x.pa x.n r.pa r.sz))
    | .error _ => false)

/-! ## A lane's global access -/

/-- What a lane's checks give: the state after translation, its last-page register, and the pieces or
the fault. -/
structure LaneChk where
  s : State
  page : Option PageEnt
  res : Except LFault (List Piece)

/-- The kinds of access of R352. -/
def kindOf (need : Need) : Nat :=
  match need with
  | .read => 0
  | .write => 1
  | _ => 2

/-- The checks of R195 in their order, for one lane: canonical form, alignment, translation, the
operation on a HOST page, the far side, Loupe. `host` refuses a piece; `fn` goes in the record. -/
def State.laneChk (s : State) (o : Obs) (last : Option PageEnt) (need : Need) (kind : Nat)
    (sync : Bool) (va n : Nat) (host : Piece → Bool) (fn : Nat) : LaneChk :=
  let flt := fun (x : XErr) =>
    (⟨x.cause, kind, sizeLog n, 0, x.addr, x.v0, x.v1, 0, 0⟩ : LFault)
  if !canonical va then ⟨s, none, .error (flt ⟨0x0100, 0, 0, va⟩)⟩
  else if sync && va % n != 0 then ⟨s, none, .error (flt ⟨0x0202, 0, 0, va⟩)⟩
  else match s.span o last need va n with
    | (s1, .error e) => ⟨s1, none, .error (flt e)⟩
    | (s1, .ok ps) =>
      let page := (ps.getLast?).map (·.page)
      if ps.any host then ⟨s1, page, .error (flt ⟨0x0203, fn, 0, va⟩)⟩
      else match s1.reachAll o va ps with
        | (s2, some e) => ⟨s2, page, .error (flt e)⟩
        | (s2, none) =>
          let kept := page.map (fun p => { p with d := p.d || need.writes })
          if sync then ⟨s2.setD o need va ps, kept, .ok ps⟩
          else match s2.loupe o need.writes va ps with
            | (s3, some e) => ⟨s3, page, .error (flt e)⟩
            | (s3, none) => ⟨s3.setD o need va ps, kept, .ok ps⟩

/-- Fill a lane's last-page register (R349). -/
def Wave.fillPage (w : Wave) (l : Nat) (p : Option PageEnt) : Wave :=
  match p with
  | some x => { w with sys := { w.sys with lastPage := w.sys.lastPage.put l x } }
  | none => w

/-- The state of a lane-by-lane instruction under way: the faults gathered so far, lowest lane first. -/
structure LaneRun where
  s : State
  w : Wave
  faults : List (Nat × LFault)

/-- Perform one lane's access when its checks pass. -/
def LaneRun.global (r : LaneRun) (k : Nat) (w0 : Wave) (l : Nat) (need : Need) (kind : Nat)
    (sync : Bool) (va n : Nat) (host : Piece → Bool) (fn : Nat)
    (act : State → Wave → List Piece → State × Wave) : LaneRun :=
  let o := r.s.waveObs k w0
  let c := r.s.laneChk o (w0.sys.lastPage.find l) need kind sync va n host fn
  let w1 := r.w.fillPage l c.page
  match c.res with
  | .error f => { s := c.s, w := w1, faults := r.faults ++ [(l, f)] }
  | .ok ps =>
    let (s2, w2) := act c.s w1 ps
    { r with s := s2, w := w2 }

/-! ## The frame of a global instruction -/

/-- Is some active lane's page of effective scope PART or wider (R119)? -/
def State.hostScope (s : State) (k : Nat) (w : Wave) (ls : List (Nat × Nat)) : Bool :=
  ls.any (fun p => match (s.span (s.waveObs k w) none .read p.1 p.2).2 with
    | .ok ps => ps.any (fun x => decide (3 ≤ x.leaf.share))
    | .error _ => false)

/-- Run a vector memory instruction lane by lane: its waits, the release of `.rel` before, the
acquire of `.acq` after, one segment for both (R96, R104, R194, R195, R200). -/
def onLanes (i : Instr) (o : WOp) (s : State) (sync wr sp : Bool) (addr : Wave → Nat → Nat)
    (size : Nat) (lanef : Nat → Wave → LaneRun → Nat → LaneRun) : Out :=
  onWave s (fun k w =>
    let act := w.active o.guard
    let ls := act.map (fun l => (addr w l, size))
    let acq := o.ord % 2 = 1
    let rel := decide (2 ≤ o.ord)
    if (sync && s.redgBusy k) || (rel && s.relBusy k) then stall s
    else if !sp && s.accBusy k w ls then stall s
    else if sp && ls.any (fun p => s.scrBusy k p.1 p.2) then stall s
    else match s.fpHold w ls wr sp with
      | some j => .next (s.waitOn k w .footprint j 0 i)
      | none =>
        let obs := s.waveObs k w
        let s1 := if rel then s.release obs (!sp && s.hostScope k w ls) else s
        let r := act.foldl (fun (x : LaneRun) l => lanef k w x l) ⟨s1, w, []⟩
        let s2 := if acq then r.s.acquire obs else r.s
        let s3 := if acq || rel then s2.segment k else s2
        endLanes s w s3 k r.w o.len r.faults)

/-- No operation of the instruction is refused on a HOST page. -/
def noHost (_ : Piece) : Bool := false

/-! ## Global loads and stores (R196) -/

/-- The path of an access of a wave: its serialisation point for a synchronising one, else its
core's. -/
def pathOf (k : Nat) (sync na : Bool) : Path := if sync then .place else .core na (slotCore k)

/-- One lane of LDG. -/
def ldgLane (o : WOp) (k : Nat) (w0 : Wave) (r : LaneRun) (l : Nat) : LaneRun :=
  let sync := o.ord != 0
  r.global k w0 l .read 0 sync (w0.laneAddr o l) o.sz noHost 0 (fun st w ps =>
    let (st1, bs) := st.readPieces (st.waveObs k w0) (pathOf k sync o.na) ps
    (st1, w.setVgrp (vregsOf o.sz) o.d.toNat l (loadExt o.sz o.sx 32 bs)))

def execLdg (o : WOp) (s : State) : Out :=
  onLanes (.ldg o) o s (o.ord != 0) false false (fun w l => w.laneAddr o l) o.sz (ldgLane o)

/-- The bytes that a lane stores (R193). -/
def Wave.storeBytes (w : Wave) (o : WOp) (l : Nat) : List Byte :=
  bytesOf o.sz (w.vgrp (vregsOf o.sz) o.d.toNat l)

/-- One lane of STG. -/
def stgLane (o : WOp) (k : Nat) (w0 : Wave) (r : LaneRun) (l : Nat) : LaneRun :=
  let sync := o.ord != 0
  r.global k w0 l .write 1 sync (w0.laneAddr o l) o.sz noHost 0 (fun st w ps =>
    (st.writePieces (st.waveObs k w0) (pathOf k sync false) ps (w0.storeBytes o l), w))

def execStg (o : WOp) (s : State) : Out :=
  onLanes (.stg o) o s (o.ord != 0) true false (fun w l => w.laneAddr o l) o.sz (stgLane o)

/-! ## Atomics (R106, R198-R200) -/

/-- Round-to-nearest float arithmetic of the atomics, without flags (R198). -/
def atomAdd (code old v : Nat) : Nat :=
  let f := fmtOf code
  (flAdd f .rne false (decFl f old) (decFl f v)).1

/-- minimumNumber or maximumNumber of the atomics (R198). -/
def atomMinMax (code : Nat) (mx : Bool) (old v : Nat) : Nat :=
  let f := fmtOf code
  (flMinMax f mx false old v (decFl f old) (decFl f v)).1

/-- Two 16-bit additions, element by element (R198). -/
def atomPair (code old v : Nat) : Nat :=
  atomAdd code (old % 2 ^ 16) (v % 2 ^ 16)
    + atomAdd code (old / 2 ^ 16 % 2 ^ 16) (v / 2 ^ 16 % 2 ^ 16) * 2 ^ 16

/-- The new value of an operation; none when `.cas` does not write (R198). -/
def atomNew (fn sz old v cmp : Nat) : Option Nat :=
  let w := 8 * sz
  let fc := if sz = 8 then 11 else 10
  match fn with
  | 0 => some v
  | 1 => if old = cmp then some v else none
  | 2 => some ((old + v) % 2 ^ w)
  | 3 => some (if sgnN v w < sgnN old w then v else old)
  | 4 => some (if sgnN old w < sgnN v w then v else old)
  | 5 => some (if v < old then v else old)
  | 6 => some (if old < v then v else old)
  | 7 => some (old &&& v)
  | 8 => some (old ||| v)
  | 9 => some (old ^^^ v)
  | 10 => some (atomAdd fc old v)
  | 11 => some (atomPair 9 old v)
  | 12 => some (atomPair 8 old v)
  | 13 => some (atomMinMax fc false old v)
  | _ => some (atomMinMax fc true old v)

/-- Is an operation refused where the host path, or a peer window, performs it (R106, R198, R201,
R385)? -/
def State.hostRefuses (s : State) (fn sz : Nat) (red : Bool) (p : Piece) : Bool :=
  match s.paKind p.pa with
  | .peer _ _ => !(sz = 8 && (fn = 2 || (fn = 1 && !red)))
  | .host _ => refused
  | _ => p.leaf.ap = 2 && refused
where
  refused : Bool :=
    if red then fn != 2
    else !((fn = 0 && sz ≤ 8) || fn = 1 || fn = 2)

/-- One indivisible update at the place of an address: the old value, and the state after (R106,
R199). A peer performs it itself and answers with a value the model cannot know (R385). -/
def State.atomAt (s : State) (o : Obs) (lf : Leaf) (pa sz fn v cmp : Nat) : State × Nat :=
  match s.paKind pa with
  | .peer k off =>
    let (qp, key, a) := s.peerAt k off
    let s1 := { s with outbox := s.outbox ++ [OutMsg.peerAtomic qp key a (fn = 1) (BitVec.ofNat 64 cmp)
      (BitVec.ofNat 64 v)] }
    let (s2, bs) := s1.freeBytes sz
    (s2, natOf bs)
  | _ =>
    let (s1, bs) := s.pread o lf .place pa sz
    let old := natOf bs
    match atomNew fn sz old v cmp with
    | some x => (s1.pwrite o lf .place pa (bytesOf sz x), old)
    | none => (s1, old)

/-- The operand and the comparand of an atomic, in a lane (R199). -/
def Wave.atomOps (w : Wave) (o : WOp) (l : Nat) : Nat × Nat :=
  let n := vregsOf o.sz
  if o.fn = 1 then (w.vgrp n (o.d.toNat + n) l, w.vgrp n o.d.toNat l)
  else (w.vgrp n o.d.toNat l, 0)

/-- One lane of ATG. -/
def atgLane (o : WOp) (k : Nat) (w0 : Wave) (r : LaneRun) (l : Nat) : LaneRun :=
  r.global k w0 l .atomic 2 true (w0.laneAddr o l) o.sz
    (r.s.hostRefuses o.fn.toNat o.sz false) o.fn.toNat (fun st w ps =>
      match ps with
      | p :: _ =>
        let (v, cmp) := w0.atomOps o l
        let (st1, old) := st.atomAt (st.waveObs k w0) p.leaf p.pa o.sz o.fn.toNat v cmp
        (st1, w.setVgrp (vregsOf o.sz) o.d.toNat l old)
      | [] => (st, w))

def execAtg (o : WOp) (s : State) : Out :=
  onLanes (.atg o) o s true true false (fun w l => w.laneAddr o l) o.sz (atgLane o)

/-! ## Reductions (R108, R201, R202) -/

/-- Note an update for a lane of REDG. -/
def State.addRedg (s : State) (k : Nat) (w : Wave) (o : WOp) (l : Nat) (p : Piece)
    (redir : Option (Nat × Nat)) : State :=
  let obs := s.waveObs k w
  { s with redgs := s.redgs ++ [{
      wave := k, gang := w.gang, core := slotCore k, ctx := obs.ctx, dm := obs.dm, pa := p.pa,
      sz := o.sz, fn := o.fn.toNat % 16, ap := p.leaf.ap, share := p.leaf.share, rc := p.leaf.rc,
      val := BitVec.ofNat 64 (w.vgrp (vregsOf o.sz) o.d.toNat l), redir := redir }] }

/-- One lane of REDG. -/
def redgLane (o : WOp) (k : Nat) (w0 : Wave) (r : LaneRun) (l : Nat) : LaneRun :=
  r.global k w0 l .atomic 3 true (w0.laneAddr o l) o.sz
    (r.s.hostRefuses (o.fn.toNat % 16) o.sz true) o.fn.toNat (fun st w ps =>
      match ps with
      | p :: _ => (st.addRedg k w0 o l p none, w)
      | [] => (st, w))

def execRedg (o : WOp) (s : State) : Out :=
  onLanes (.redg o) o s true true false (fun w l => w.laneAddr o l) o.sz (redgLane o)

/-- The redirect offsets of a lane: of the old value, and of the barrier object (R202). -/
def Wave.redirOf (w : Wave) (o : WOp) (l : Nat) : Nat × Nat :=
  ((w.vreg (o.d.toNat + 2) l).toNat, (w.vreg (o.d.toNat + 3) l).toNat)

/-- The checks of the redirect offsets, between canonical form and translation (R195). Where both fail,
the record names the offset of the old value, and the address before the barrier offset; its SIZE is the
instruction's (log 98). -/
def redirFault (g : Gang) (sz dst bar : Nat) : Option LFault :=
  let bad := fun (cause addr v0 : Nat) =>
    some (⟨cause, 3, sizeLog sz, 1, addr, v0, 0, 0, 0⟩ : LFault)
  if !g.inBounds dst sz then bad 0x0201 dst g.alloc
  else if !g.inBounds bar 16 then bad 0x0201 bar g.alloc
  else none

/-- One lane of REDG with a redirect. -/
def redirLane (o : WOp) (k : Nat) (w0 : Wave) (r : LaneRun) (l : Nat) : LaneRun :=
  let va := w0.laneAddr o l
  let (dst, bar) := w0.redirOf o l
  match r.s.gangs.find w0.gang with
  | none => r
  | some g =>
    let early := if canonical va then redirFault g o.sz dst bar else none
    let late := if canonical va && va % o.sz = 0 && bar % 16 != 0
      then some (⟨0x0202, 3, sizeLog o.sz, 1, bar, 0, 0, 0, 0⟩ : LFault) else none
    match early.orElse (fun _ => late) with
    | some f => { r with faults := r.faults ++ [(l, f)] }
    | none => r.global k w0 l .atomic 3 true va o.sz
        (r.s.hostRefuses (o.fn.toNat % 16) o.sz true) o.fn.toNat (fun st w ps =>
          match ps with
          | p :: _ => (st.addRedg k w0 o l p (some (dst, bar)), w)
          | [] => (st, w))

/-- The job whose footprint the old value of some active lane would meet (R110, R195). -/
def State.redirHeld (s : State) (w : Wave) (o : WOp) : Option Nat :=
  s.fpHold w ((w.active o.guard).map (fun l => ((w.redirOf o l).1, o.sz))) true true

/-- The write of an old value is an access of the wave: before any lane acts, the instruction waits for
the wave's matrix instructions, which its arrivals release, and for a job whose footprint it meets (R108,
R110, R195, R237). -/
def execRedgRedir (o : WOp) (s : State) : Out :=
  onWave s (fun k w =>
    if s.matBusy k then stall s
    else match s.redirHeld w o with
      | some j => .next (s.waitOn k w .footprint j 0 (.redgRedir o))
      | none =>
        onLanes (.redgRedir o) o s true true false (fun w l => w.laneAddr o l) o.sz (redirLane o))

/-- A pending update is performed at its place; for a redirect the old value is written, and then the
arrival is made, a release on behalf of the wave (R108, R202). -/
def State.redgDo (s : State) (r : Redg) : State :=
  let o : Obs := ⟨r.ctx, r.dm, coreDie r.core, some r.core, none⟩
  let (s1, old) := s.atomAt o ⟨r.share, r.ap, r.rc, false⟩ r.pa r.sz r.fn r.val.toNat 0
  match r.redir with
  | none => s1
  | some (dst, bar) =>
    let s2 := s1.modGang r.gang (fun g => g.scrWrite dst (bytesOf r.sz old))
    (s2.release o false).modBar r.gang bar true (fun b => b.arrive 1)

/-- Updates of one wave keep their order, and wait for the islands of their place (R399). -/
def execRedgUpdate (idx : Nat) (s : State) : Out :=
  match s.redgs[idx]? with
  | none => .refused (.notEnabled "REDG_UPDATE")
  | some r =>
    if (s.redgs.take idx).any (fun x => x.wave = r.wave)
        || !s.paOn ⟨r.ctx, r.dm, coreDie r.core, some r.core, none⟩ r.pa then
      .refused (.notEnabled "REDG_UPDATE")
    else .next ({ s with redgs := s.redgs.eraseIdx idx }.redgDo r)

/-! ## Prefetch (R197) -/

/-- The look-up of a prefetch, which writes no memory, leaves the tables and the TLBs as they are
(log 87). -/
def execPref (o : WOp) (s : State) : Out :=
  onWave s (fun k w =>
    let s1 := (w.active o.guard).foldl (fun (st : State) l =>
      let va := w.laneAddr o l
      let obs := st.waveObs k w
      match st.translate obs (w.sys.lastPage.find l) .read va 1 with
      | (_, .error _) => st
      | (_, .ok pg) =>
        let p := pg.piece obs.dm va 1
        if p.leaf.rc || p.leaf.ap = 2 || !(st.paKind p.pa).isMem
            || st.lostAt obs.dm p.leaf.share p.pa then st
        else (span (p.pa / 128 * 8) 8).foldl (fun (x : State) sec =>
          if o.fn = 1 then (x.coreSec obs p.leaf false (slotCore k) sec).1
          else (x.dieSec obs p.leaf sec).1) st) s
    .next (s1.retire k w o.len))

/-! ## Scratch (R76, R196, R199) -/

/-- Perform one lane's scratch access when its checks pass. -/
def LaneRun.scratch (r : LaneRun) (w0 : Wave) (l kind : Nat) (sync : Bool) (off n : Nat)
    (act : Gang → Wave → Gang × Wave) : LaneRun :=
  match r.s.gangs.find w0.gang with
  | none => r
  | some g =>
    let bad := fun (cause v0 : Nat) =>
      { r with faults := r.faults ++ [(l, ⟨cause, kind, sizeLog n, 1, off, v0, 0, 0, 0⟩)] }
    if !g.inBounds off n then bad 0x0201 g.alloc
    else if sync && off % n != 0 then bad 0x0202 0
    else
      let (g1, w1) := act g r.w
      { r with s := r.s.setGang w0.gang g1, w := w1 }

/-- One lane of LDS, STS and ATS. -/
def ldsLane (o : WOp) (_ : Nat) (w0 : Wave) (r : LaneRun) (l : Nat) : LaneRun :=
  let a := w0.laneAddr o l
  r.scratch w0 l 0 (o.ord != 0) a o.sz (fun g w =>
    (g, w.setVgrp (vregsOf o.sz) o.d.toNat l (loadExt o.sz o.sx 32 (g.scrRead a o.sz))))

def stsLane (o : WOp) (_ : Nat) (w0 : Wave) (r : LaneRun) (l : Nat) : LaneRun :=
  let a := w0.laneAddr o l
  r.scratch w0 l 1 (o.ord != 0) a o.sz (fun g w => (g.scrWrite a (w0.storeBytes o l), w))

def atsLane (o : WOp) (_ : Nat) (w0 : Wave) (r : LaneRun) (l : Nat) : LaneRun :=
  let a := w0.laneAddr o l
  r.scratch w0 l 2 true a o.sz (fun g w =>
    let old := g.scrNat a o.sz
    let (v, cmp) := w0.atomOps o l
    let g1 := match atomNew o.fn.toNat o.sz old v cmp with
      | some x => g.scrWrite a (bytesOf o.sz x)
      | none => g
    (g1, w.setVgrp (vregsOf o.sz) o.d.toNat l old))

def execLds (o : WOp) (s : State) : Out :=
  onLanes (.lds o) o s (o.ord != 0) false true (fun w l => w.laneAddr o l) o.sz (ldsLane o)

def execSts (o : WOp) (s : State) : Out :=
  onLanes (.sts o) o s (o.ord != 0) true true (fun w l => w.laneAddr o l) o.sz (stsLane o)

def execAts (o : WOp) (s : State) : Out :=
  onLanes (.ats o) o s true true true (fun w l => w.laneAddr o l) o.sz (atsLane o)

/-! ## Constant space (R76, R81, R196) -/

/-- Room in a core's constant cache, whose size and replacement the spec does not give: a sector may
leave it at any fill (log 105). -/
def State.ccRoom (s : State) (c : Nat) : State :=
  match (s.core c).ccache with
  | [] => s
  | p :: t =>
    let v := Config.l1Victim s.free % (t.length + 2)
    if v = 0 then s.tick
    else s.tick.modCore c (fun k => { k with ccache := k.ccache.del (nth (p :: t) (v - 1) p).1 })

/-- One byte of the constant section, at a VA, through a core's constant cache, which keeps whole sectors
and which no acquire empties (R81, R83); zero where the access fails. A section in a host or peer window
is read afresh. On an RC page it is neither checked nor recorded (log 125). -/
def State.constFetch (s : State) (o : Obs) (c va : Nat) : State × Byte :=
  match s.check o none .read true va 1 with
  | (s1, .error _) => (s1, 0)
  | (s1, .ok ps) =>
    let p := nth ps 0 default
    match (s1.core c).ccache.find (p.pa / 16) with
    | some d => (s1, secByte d (p.pa % 16))
    | none =>
      if (s1.paKind p.pa).isMem then
        let (s2, d) := s1.dieSec o p.leaf (p.pa / 16)
        ((s2.ccRoom c).modCore c (fun k => { k with ccache := k.ccache.put (p.pa / 16) d }),
          secByte d (p.pa % 16))
      else
        let (s2, bs) := s1.readPieces o .die ps
        (s2, nth bs 0 0)

/-- One byte of a launch's constant space: the argument block, the constant section, and zero beyond
either, or where the page does not translate. -/
def State.constByte (s : State) (o : Obs) (e : Entry) (a : Nat) : State × Byte :=
  if a < 4096 then (s, nth e.args a 0)
  else if a < 65536 ∧ a - 4096 < e.kd.constLen then
    s.constFetch o (o.core.getD 0) ((e.kd.const.toNat + (a - 4096)) % 2 ^ 64)
  else (s, 0)

/-- n bytes of constant space. -/
def State.constRead (s : State) (o : Obs) (e : Entry) (a n : Nat) : State × List Byte :=
  (Machine.span a n).foldl (fun acc x =>
    let (st, b) := acc.1.constByte o e x
    (st, acc.2 ++ [b])) (s, [])

/-- The offset in constant space that a cell of an LDC reads. -/
def Wave.constAt (w : Wave) (o : WOp) (c : Cell) : Nat :=
  match c with
  | .lane l => w.laneAddr o l
  | .grp => w.addrOf o ((w.greg o.b.toNat).extractLsb' 0 32)

/-- The global addresses of an LDC's reads of the constant section. -/
def Wave.constSpans (w : Wave) (o : WOp) (e : Entry) : List (Nat × Nat) :=
  (((w.cells o).map (w.constAt o)).filter (fun a => decide (4096 ≤ a))).map
    (fun a => ((e.kd.const.toNat + (a - 4096)) % 2 ^ 64, o.sz))

def execLdc (o : WOp) (s : State) : Out :=
  onWave s (fun k w =>
    match (s.gangs.find w.gang).bind (fun g => s.entry? g.ctx g.launch) with
    | none => .refused (.notEnabled "LDC")
    | some e =>
      let obs := s.waveObs k w
      if s.accBusy k w (w.constSpans o e) then stall s
      else
      let r := (w.cells o).foldl (fun (acc : State × Wave) c =>
        match c with
        | .lane l =>
          let (st, bs) := acc.1.constRead obs e (w.constAt o (.lane l)) o.sz
          (st, acc.2.setVgrp (vregsOf o.sz) o.d.toNat l (loadExt o.sz o.sx 32 bs))
        | .grp =>
          let (st, bs) := acc.1.constRead obs e (w.constAt o .grp) o.sz
          let x := loadExt o.sz o.sx 64 bs
          let w1 := acc.2.setG o.d.toNat (BitVec.ofNat 64 x)
          (st, if o.sz = 16 then w1.setG (o.d.toNat + 1) (BitVec.ofNat 64 (x / 2 ^ 64)) else w1))
        (s, w)
      .next (r.1.retire k r.2 o.len))

/-! ## Fences and the instruction cache (R104, R118, R204) -/

def execFenceRel (o : WOp) (s : State) : Out :=
  onGroup s o (fun k w =>
    if s.relBusy k then stall s else .next ((s.releasePoint k w false).retire k w o.len))

/-- FENCE.ACQ acquires behind the wave's own updates, as the other acquires do (R104, R118; log 142). -/
def execFenceAcq (o : WOp) (s : State) : Out :=
  onGroup s o (fun k w =>
    if s.redgBusy k then stall s else .next ((s.acquirePoint k w).retire k w o.len))

def execFenceAr (o : WOp) (s : State) : Out :=
  onGroup s o (fun k w =>
    if s.relBusy k then stall s else .next ((s.bothPoint k w).retire k w o.len))

/-- ICINV empties the core's instruction cache, and its metadata cache (R83, R118), once the wave's own
updates have performed: code that the wave patches by `REDG` before an acquire runs new behind it (R118; log 142). -/
def execIcinv (o : WOp) (s : State) : Out :=
  onGroup s o (fun k w =>
    if s.redgBusy k then stall s else
    .next ((s.modCore (slotCore k) (fun c => { c with icache := [], mcache := [] })).retire k w o.len))

end Sys2Proof.Machine
end

