-- ==== Sys2Proof/Machine/Cursor.lean ====
section
/-! DEFINITION. Cursors and the walker (R90, R239-R253, R257): level descriptors, the metadata cache, the
entries of each kind of level, stepping, seeking, descending and co-iteration. -/

namespace Sys2Proof.Machine

/-! ## Hardware heaps (R357) -/

/-- The key of a heap record. -/
def heapKey (die h : Nat) : Nat := 8 * die + h

/-- A heap of a context. -/
def Ctx.heap (c : Ctx) (key : Nat) : Heap := c.heaps.getD key default

/-- The entry at HEAD of a ring, and the heap after it is taken. -/
def Heap.take (h : Heap) (big : Bool) : Nat × Heap :=
  if big then
    (h.ring32.toNat + 8 * (h.head32.toNat % 2 ^ h.log32.toNat), { h with head32 := h.head32 + 1 })
  else (h.ring4.toNat + 8 * (h.head4.toNat % 2 ^ h.log4.toNat), { h with head4 := h.head4 + 1 })

/-- Is there no entry of a size? -/
def Heap.isEmpty (h : Heap) (big : Bool) : Bool :=
  if big then h.head32 = h.tail32 else h.head4 = h.tail4

/-- Entries that a heap holds of a size. -/
def Heap.left (h : Heap) (big : Bool) : Nat :=
  if big then (h.tail32 - h.head32).toNat else (h.tail4 - h.head4).toNat

/-- An answer of a heap: a block, an empty heap, or none yet, for an island does not perform (R399). -/
inductive Drawn where
  | block (va : Nat)
  | none
  | busy
  deriving DecidableEq, Repr, Inhabited

/-- Bytes of a block. -/
def blockBytes (big : Bool) : Nat := if big then 32768 else 4096

/-- The dies of the device of a context that holds a die. -/
def State.heapDm (s : State) (ctx die : Nat) : Nat :=
  match s.ctxs.find ctx with
  | some c => dieMask (((s.devs c).find? (fun ds => ds.contains die)).getD [die])
  | none => 2 ^ die

/-- Do the island of a die's heaps, and those on the way to an entry of a ring, perform (R396, R399)? -/
def State.heapOn (s : State) (ctx die pa : Nat) : Bool :=
  s.islandOn (240 * die + 236) && s.paOn ⟨ctx, s.heapDm ctx die, die, none, none⟩ pa

/-- Draw a block; entries that are not aligned to the block's size are consumed and skipped. -/
def State.drawAt (s : State) (ctx key : Nat) (big : Bool) : Nat → State × Drawn
  | 0 => (s, .none)
  | n + 1 =>
    match s.ctxs.find ctx with
    | none => (s, .none)
    | some c =>
      if (c.heap key).isEmpty big then (s, .none)
      else
        let (pa, h) := (c.heap key).take big
        if !s.heapOn ctx (key / 8) pa then (s, .busy)
        else
          let va := natOf (s.physRead (s.heapDm ctx (key / 8)) pa 8)
          let s1 := (s.physSeen pa 8).setCtx ctx { c with heaps := c.heaps.put key h }
          if va % blockBytes big = 0 then (s1, .block va) else s1.drawAt ctx key big n

/-- Draw a block from heap h of a die for a context. -/
def State.heapDraw (s : State) (ctx die h : Nat) (big : Bool) : State × Drawn :=
  s.drawAt ctx (heapKey die h) big
    (((s.ctxs.find ctx).map (fun c => (c.heap (heapKey die h)).left big)).getD 0 + 1)

/-- Return a block: HEAD steps back, and the block is written to that entry. -/
def State.heapReturn (s : State) (ctx die h : Nat) (big : Bool) (va : Nat) : State :=
  match s.ctxs.find ctx with
  | none => s
  | some c =>
    let x := c.heap (heapKey die h)
    let y := if big then { x with head32 := x.head32 - 1 } else { x with head4 := x.head4 - 1 }
    (s.setCtx ctx { c with heaps := c.heaps.put (heapKey die h) y }).physPut (s.heapDm ctx die) (y.take big).1 8 va

/-! ## The walker's accesses (R243, R257) -/

/-- Why a walker instruction stops: a fault, with the heaps drawn on before it and the accesses that it
made, the failing one last; a footprint, or one of the wave's own reductions, that it must wait for. -/
inductive WStop where
  | fault (f : LFault) (drawn : List (Nat × Bool)) (seen : List (Nat × Nat × Need))
  | wait (job : Nat)
  | busy
  deriving DecidableEq, Repr, Inhabited

/-- What a walker instruction carries: the state so far, the heaps drawn on (heap, 32 KiB), and the
addresses, lengths and kinds of its accesses. -/
structure WSt where
  s : State
  drawn : List (Nat × Bool)
  seen : List (Nat × Nat × Need)

/-- A walker instruction about to begin. -/
def WSt.start (s : State) : WSt := ⟨s, [], []⟩

/-- The state after an access of n bytes at a VA. -/
def WSt.after (x : WSt) (s : State) (va n : Nat) (need : Need) : WSt :=
  { x with s := s, seen := x.seen ++ [(va, n, need)] }

/-- Stop with a fault of an access of n bytes at a VA. -/
def WSt.stop (x : WSt) (f : LFault) (va n : Nat) (need : Need) : WStop :=
  .fault f x.drawn (x.seen ++ [(va, n, need)])

/-- A walker operation. -/
abbrev Walk (α : Type) := StateT WSt (Except WStop) α

/-- Stop with a fault. -/
def wfault {α : Type} (f : LFault) : Walk α := fun x => .error (.fault f x.drawn x.seen)

/-- Who walks: the wave at its slot, and whether the cursor is a lane's. -/
structure Walker where
  k : Nat
  w : Wave
  isLane : Bool

def Walker.obs (u : Walker) (s : State) : Obs := s.waveObs u.k u.w

/-- Waits of the wave's accesses (R100, R110). -/
def Walker.waits (u : Walker) (s : State) (wr : Bool) (va n : Nat) : Option WStop :=
  match s.heldBy u.w.gang wr false va n with
  | some j => some (.wait j)
  | none => if s.accBusy u.k u.w [(va, n)] then some .busy else none

/-- Room for a word in a metadata cache of 32 KiB (R18): when it is full, a word leaves it (log 11). -/
def State.mdRoom (s : State) (c : Nat) : State :=
  match (s.core c).mcache with
  | [] => s
  | p :: t =>
    if t.length + 1 < 4096 then s
    else s.tick.modCore c (fun k => { k with
      mcache := k.mcache.del (nth (p :: t) (Config.l1Victim s.free % (t.length + 1)) p).1 })

/-- One 8-byte word through the metadata cache (R83, R257): accesses that bypass L1 bypass it too. -/
def State.mdWord (s : State) (o : Obs) (lf : Leaf) (c word : Nat) : State × Nat :=
  if s.direct o lf (word * 8) then
    let (s1, bs) := s.pread o lf (.core true c) (word * 8) 8
    (s1, natOf bs)
  else match (s.core c).mcache.find word with
    | some x => (s, x.toNat)
    | none =>
      let (s1, bs) := s.pread o lf (.core true c) (word * 8) 8
      ((s1.mdRoom c).modCore c (fun x => { x with mcache := x.mcache.put word (BitVec.ofNat 64 (natOf bs)) }),
        natOf bs)

/-- The words of a piece, as one number from its first word, and the state after. -/
def State.mdPiece (s : State) (o : Obs) (c : Nat) (p : Piece) : State × List Byte :=
  match s.paKind p.pa with
  | .peer _ _ => s.readPiece o (.core true c) p
  | _ =>
    let first := p.pa / 8
    let r := (Machine.span first ((p.pa + p.n + 7) / 8 - first)).foldl (fun (acc : State × List Byte) wd =>
      let (st, x) := acc.1.mdWord o p.leaf c wd
      (st, acc.2 ++ bytesOf 8 x)) (s, [])
    (r.1, (r.2.drop (p.pa % 8)).take p.n)

/-- Read n bytes of metadata; `kind` is KIND of R352. -/
def Walker.read (u : Walker) (kind va n : Nat) : Walk (List Byte) := fun x =>
  let a := va % 2 ^ 64
  match u.waits x.s false a n with
  | some e => .error e
  | none => match x.s.check (u.obs x.s) none .read false a n with
    | (_, .error e) => .error (x.stop ⟨e.cause, kind, sizeLog n, 3, e.addr, e.v0, e.v1, 0, 0⟩ a n .read)
    | (s1, .ok ps) =>
      let r := ps.foldl (fun (acc : State × List Byte) p =>
        let (st, b) := acc.1.mdPiece (u.obs x.s) (slotCore u.k) p
        (st, acc.2 ++ b)) (s1, [])
      .ok (r.2, x.after r.1 a n .read)

/-- Read a number of n bytes. -/
def Walker.num (u : Walker) (va n : Nat) : Walk Nat := do
  let bs ← u.read 4 va n
  return natOf bs

/-- Forget words of the metadata cache that a write of the walker changed. -/
def State.mdForget (s : State) (c : Nat) (ps : List Piece) : State :=
  s.modCore c (fun x => { x with mcache := x.mcache.filter (fun e =>
    !ps.any (fun p => decide (p.pa < e.1 * 8 + 8) && decide (e.1 * 8 < p.pa + p.n))) })

/-- Write bytes as `STG` does (R257). -/
def Walker.write (u : Walker) (va : Nat) (bs : List Byte) : Walk Unit := fun x =>
  let a := va % 2 ^ 64
  match u.waits x.s true a bs.length with
  | some e => .error e
  | none => match x.s.check (u.obs x.s) none .write false a bs.length with
    | (_, .error e) =>
      .error (x.stop ⟨e.cause, 5, sizeLog bs.length, 3, e.addr, e.v0, e.v1, 0, 0⟩ a bs.length .write)
    | (s1, .ok ps) =>
      let s2 := s1.writePieces (u.obs x.s) (.core false (slotCore u.k)) ps bs
      .ok ((), x.after (s2.mdForget (slotCore u.k) ps) a bs.length .write)

/-- Take the heap draws of a stopped instruction again, and give the blocks back (R243). -/
def State.undraw (s : State) (ctx die : Nat) (ds : List (Nat × Bool)) : State :=
  let r := ds.foldl (fun (acc : State × List (Nat × Bool × Nat)) d =>
    match acc.1.heapDraw ctx die d.1 d.2 with
    | (st, .block va) => (st, (d.1, d.2, va) :: acc.2)
    | (st, _) => (st, acc.2)) (s, [])
  r.2.foldl (fun (st : State) d => st.heapReturn ctx die d.1 d.2.1 d.2.2) r.1

/-! ## Level descriptors (R90) -/

/-- A level descriptor's fields. -/
structure Lvl where
  addr : Nat
  kind : Nat
  cw : Nat
  pw : Nat
  heap : Nat
  appok : Bool
  blk : Nat
  hb : Nat
  dim : Nat
  a0 : Nat
  a1 : Nat
  a2 : Nat
  count : Nat
  tail : Nat
  bits : Nat
  /-- The index of the first entry of a wave cursor's fibre, as its open found it (log 42). -/
  start : Option Nat
  deriving DecidableEq, Repr, Inhabited

/-- Alignments of the three arrays by kind: 0 for an array that must be zero. -/
def arrayAlign (kind cw pw : Nat) : Nat × Nat × Nat :=
  match kind with
  | 0 => (0, 0, 0)
  | 1 => (pw, cw, 0)
  | 2 => (8, pw, 0)
  | 3 => (pw, 16, 0)
  | 4 => (pw, cw, cw)
  | 5 => (pw, cw, 0)
  | _ => (pw, 4096, 0)

/-- Is an array field as its kind asks? -/
def arrayOk (a align : Nat) : Bool := if align = 0 then a = 0 else a % align = 0

/-- The fields of a descriptor, when it is valid; `app` leaves bytes 48-55 out (R254). Bits [63:40] of bytes
40-47, above COUNT, stand in no row of R90: the model counts them as reserved (log 131). -/
def Lvl.parse (addr x : Nat) (app : Bool) : Option Lvl :=
  let l : Lvl := ⟨addr, fld x 0 3, 2 ^ (fld x 4 2 + 1), 4 * (fld x 6 2 + 1), fld x 8 3, bitN x 11,
    fld x 16 4, fld x 24 6, fld x 64 40, fld x 128 64, fld x 192 64, fld x 256 64, fld x 320 40,
    fld x 384 64, x, none⟩
  let al := arrayAlign l.kind l.cw l.pw
  let reserved := bitN x 3 || fld x 12 4 != 0 || fld x 20 4 != 0 || fld x 30 34 != 0
    || fld x 104 24 != 0 || fld x 360 24 != 0 || fld x 448 64 != 0 || (!app && l.tail != 0)
  if l.kind = 7 || fld x 4 2 = 3 || decide (2 ≤ fld x 6 2) || reserved
      || (if l.kind = 5 then l.blk = 0 || decide (12 < l.blk) else l.blk != 0)
      || (if l.kind = 3 then decide (27 < l.hb) else l.hb != 0)
      || !arrayOk l.a0 al.1 || !arrayOk l.a1 al.2.1 || !arrayOk l.a2 al.2.2
    then none else some l

/-- Values of POS to an index of the level's arrays (R244). -/
def Lvl.unit (l : Lvl) : Nat := if l.kind = 4 then 2 ^ 16 else if l.kind = 5 then 2 ^ l.blk else 1

/-- Can a cursor name the address (R239)? -/
def nameableDesc (addr : Nat) : Bool := addr / 2 ^ 47 = 0 || addr / 2 ^ 47 = 2 ^ 17 - 1

/-- A walker cause at a descriptor (R247, R353). -/
def walkFault {α : Type} (cause size addr v0 v1 v2 v3 : Nat) : Walk α :=
  wfault ⟨cause, 4, size, 3, addr, v0, v1, v2, v3⟩

/-- Read and check a descriptor. -/
def Walker.level (u : Walker) (addr : Nat) (app : Bool) : Walk Lvl := do
  if addr % 64 != 0 || !nameableDesc addr then walkFault 0x0401 6 addr 0 0 0 0
  else
    let bs ← u.read 4 addr 64
    match Lvl.parse addr (natOf bs) app with
    | some l => return l
    | none => walkFault 0x0401 6 addr 0 0 0 0

/-- Is the whole descriptor in the metadata cache? -/
def State.mdHolds (s : State) (u : Walker) (addr : Nat) : Bool :=
  match (s.span (u.obs s) none .read addr 64).2 with
  | .ok ps => ps.all (fun p => (Machine.span (p.pa / 8) 8).all (fun wd =>
      ((s.core (slotCore u.k)).mcache.find wd).isSome))
  | .error _ => false

/-- The open of a level: a descriptor that is not cached empties the metadata cache (R83). -/
def Walker.openLevel (u : Walker) (addr : Nat) (app : Bool) : Walk Lvl := do
  modify (fun x => if x.s.mdHolds u addr then x
    else { x with s := x.s.modCore (slotCore u.k) (fun c => { c with mcache := [] }) })
  u.level addr app

/-! ## Cursors (R239) -/

/-- A cursor's fields. -/
structure Cur where
  kind : Nat
  done : Bool
  app : Bool
  daddr : Nat
  pos : Nat
  fin : Nat
  deriving DecidableEq, Repr, Inhabited

/-- The reserved bit 5 reads as zero (R6). -/
def Cur.ofNat (x : Nat) : Cur :=
  ⟨fld x 0 3, bitN x 3, bitN x 4, fld x 6 42, fld x 48 40, fld x 88 40⟩

def Cur.toNat (c : Cur) : Nat :=
  c.kind + (if c.done then 8 else 0) + (if c.app then 16 else 0) + c.daddr * 2 ^ 6
    + c.pos % 2 ^ 40 * 2 ^ 48 + c.fin % 2 ^ 40 * 2 ^ 88

/-- Is the cursor null (R240)? -/
def Cur.isNull (c : Cur) : Bool := c.daddr = 0

/-- The descriptor that a cursor names. -/
def Cur.desc (c : Cur) : Nat :=
  let a := c.daddr * 64
  if a < 2 ^ 47 then a else a + 2 ^ 64 - 2 ^ 48

/-- Can a lane cursor that is not done be one of its level (R239; log 41)? Its KIND is the descriptor's;
a BMP cursor's bounds are those of a parent position; an append cursor's level may be appended to. -/
def Cur.fits (c : Cur) (l : Lvl) : Bool :=
  let row := 64 * ((l.dim + 63) / 64)
  l.kind = c.kind && (!c.app || (l.kind = 6 && l.appok))
    && (c.done || c.kind != 2 || (decide (l.dim ≤ c.fin) && (c.fin - l.dim) % row = 0
      && decide (c.fin - l.dim ≤ c.pos) && decide (c.pos < c.fin)))

/-- The level of the cursor in a register. A wave cursor's descriptor is the one that the walker read when
it opened the cursor, and its fibre begins where it began then (log 42); a lane cursor's is read at each use,
and must fit the cursor (R90, R239). -/
def Walker.levelOf (u : Walker) (c : Cur) (r : Nat) : Walk Lvl :=
  match (if u.isLane then none
    else (u.w.sys.levels.find r).bind (fun x => Lvl.parse c.desc x.toNat c.app)) with
  | some l => return { l with start := (u.w.sys.starts.find r).map (· / l.unit) }
  | none => do
    let l ← u.level c.desc c.app
    if c.fits l then return l else walkFault 0x0401 6 l.addr 0 0 0 0

/-- The wave with what the walker keeps for a cursor that it opens in a C register: its descriptor (R90),
and where its fibre begins (log 42). -/
def Wave.keepLevel (w : Wave) (c : Cell) (r : Nat) (l : Lvl) (x : Cur) : Wave :=
  match c with
  | .grp => { w with sys := { w.sys with
      levels := w.sys.levels.put r (BitVec.ofNat 512 l.bits), starts := w.sys.starts.put r x.pos } }
  | .lane _ => w

/-- The bound at which a cursor is done (R244). -/
def Cur.bound (c : Cur) (l : Lvl) : Nat := if l.kind = 3 then l.count else c.fin

/-- The cursor at a new position, done at its bound (R244). -/
def Cur.at (c : Cur) (l : Lvl) (n : Nat) : Cur :=
  if c.bound l ≤ n then { c with pos := c.bound l, done := true } else { c with pos := n }

/-! ## Entries (R244-R247) -/

/-- Log2 of an element width. -/
def Lvl.cwLog (l : Lvl) : Nat := sizeLog l.cw
def Lvl.pwLog (l : Lvl) : Nat := sizeLog l.pw

/-- pos[i]. -/
def Walker.posAt (u : Walker) (l : Lvl) (i : Nat) : Walk Nat := u.num (l.a0 + i * l.pw) l.pw

/-- A lane cursor never leads the walker outside the descriptor's arrays (R239; log 41): an index
beyond COUNT is no cursor of this level. -/
def Walker.within (u : Walker) (l : Lvl) (i : Nat) : Walk Unit :=
  if u.isLane && decide (l.count ≤ i) then walkFault 0x0401 6 l.addr 0 0 0 0 else pure ()

/-- pos[i] as memory holds it, read by no access of the wave. -/
def Walker.peek (u : Walker) (s : State) (l : Lvl) (i : Nat) : Option Nat :=
  let va := (l.a0 + i * l.pw) % 2 ^ 64
  match s.span (u.obs s) none .read va l.pw with
  | (_, .ok ps) => some (natOf (s.readPieces (u.obs s) (.core true (slotCore u.k)) ps).2)
  | (_, .error _) => none

/-- Is an index the first of the fibre that ends at `fin`: scan the pos array for the fibre, from entry p,
whose value is `start` where it can be read. -/
def firstScan (get : Nat → Option Nat) (i fin : Nat) : Nat → Nat → Option Nat → Bool
  | 0, _, _ => true
  | n + 1, p, start =>
    let nxt := get (p + 1)
    if nxt = some fin ∧ i < fin ∧ start.any (fun a => decide (a ≤ i)) then start = some i
    else firstScan get i fin n (p + 1) nxt

/-- Is an index of CMP, CCH, RLE or BLK the first of the fibre whose end is the cursor's? A wave cursor's
open has said so; of a lane cursor, which holds its end alone, the pos array says it (log 42). -/
def Walker.isFirst (u : Walker) (l : Lvl) (i fin : Nat) : Walk Bool :=
  match l.start with
  | some a => return i ≤ a
  | none => do
    let x ← get
    return i = 0 || firstScan (u.peek x.s l) i fin (2 ^ 40) 0 (u.peek x.s l 0)

/-- The chunk that holds entry e: the walk of R246 from a chunk, with n more chunks to follow. A chunk address
that is not 4,096-byte aligned, for which R247 names no cause, is used as it stands (log 138). -/
def Walker.chunkWalk (u : Walker) (l : Lvl) (e : Nat) : Nat → Nat → Nat → Option Nat → Walk Nat
  | 0, _, last, _ => walkFault 0x0408 6 l.addr last 0 0 0
  | n + 1, ch, last, want =>
    if ch = 0 then walkFault 0x0408 6 l.addr last 0 0 0
    else do
      let bs ← u.read 4 ch 20
      let x := natOf bs
      let base := fld x 64 40
      let used := fld x 128 32
      if 252 < used || want.any (· != base) then walkFault 0x0408 6 l.addr ch 0 0 0
      else if base ≤ e ∧ e < base + used then return ch + 64 + 16 * (e - base)
      else u.chunkWalk l e n (fld x 0 64) ch (some (base + used))

/-- The address of slot e of a CCH level. -/
def Walker.slotAt (u : Walker) (l : Lvl) (e : Nat) : Walk Nat :=
  u.chunkWalk l e (l.count + 1) l.a1 l.a1 none

/-- A coordinate is below DIM (WALK.COORD). -/
def Walker.below (l : Lvl) (size i x : Nat) : Walk Unit :=
  if l.dim ≤ x then walkFault 0x0404 size l.addr i x 0 0 else pure ()

/-- The value stored at index i of CMP or CCH, checked against DIM, or the block number of BLK. -/
def Walker.stored (u : Walker) (l : Lvl) (i : Nat) : Walk Nat := do
  if l.kind = 6 then
    let a ← u.slotAt l i
    let x ← u.num a 8
    Walker.below l 3 i x
    return x
  else
    let x ← u.num (l.a1 + i * l.cw) l.cw
    if l.kind = 1 then Walker.below l l.cwLog i x
    return x

/-- The value at index i of the fibre that ends at `fin`, above the one before it (WALK.ORDER); `back` reads
that one. The position that a WALK.ORDER of a BLK level records is the index of the block, where R247 says no
more than 'position' (log 137). -/
def Walker.ordered (u : Walker) (l : Lvl) (i fin : Nat) (back : Bool) : Walk Nat := do
  u.within l (if l.kind = 5 then i * 2 ^ l.blk else i)
  let x ← u.stored l i
  if !back then return x
  else if ← u.isFirst l i fin then return x
  else
    let y ← u.stored l (i - 1)
    if x ≤ y then walkFault 0x0403 (if l.kind = 6 then 3 else l.cwLog) l.addr i y x 0 else return x

/-- Run r of the fibre of an RLE level that ends at `fin`: its start and length, checked (WALK.RUN), with
`back` against the run before it, which is checked as an entry that the instruction reads (R247). -/
def Walker.run (u : Walker) (l : Lvl) (r fin : Nat) (back : Bool) : Walk (Nat × Nat) := do
  u.within l r
  let st ← u.num (l.a1 + r * l.cw) l.cw
  let n ← u.num (l.a2 + r * l.cw) l.cw
  if n = 0 || decide (65536 < n) then walkFault 0x0406 l.cwLog l.addr r st n 0
  else if !back then return (st, n)
  else if ← u.isFirst l r fin then return (st, n)
  else
    let st0 ← u.num (l.a1 + (r - 1) * l.cw) l.cw
    let n0 ← u.num (l.a2 + (r - 1) * l.cw) l.cw
    if n0 = 0 || decide (65536 < n0) || decide (st < st0 + n0) then
      walkFault 0x0406 l.cwLog l.addr (r - 1) st0 n0 0
    else return (st, n)

/-- An HSH entry: PARENT, CRD, NEXT (R245). -/
def Walker.hshEntry (u : Walker) (l : Lvl) (i : Nat) : Walk (Nat × Nat × Nat) := do
  let x ← u.num (l.a1 + 16 * i) 16
  return (fld x 0 40, fld x 40 40, fld x 80 40)

/-- The next HSH entry from index i with PARENT p, or COUNT. -/
def Walker.hshNext (u : Walker) (l : Lvl) (p : Nat) : Nat → Nat → Walk Nat
  | 0, _ => return l.count
  | n + 1, i => do
    let e ← u.hshEntry l i
    Walker.below l 4 i e.2.1
    if e.1 = p then return i else u.hshNext l p n (i + 1)

/-- The first set bit of a word from bit b, or none. -/
def firstBit (x b : Nat) : Option Nat := ((List.range 64).drop b).find? (bitN x)

/-- The first set bit of a BMP level in [i, fin), or fin; n words remain. -/
def Walker.nextBit (u : Walker) (l : Lvl) (fin : Nat) : Nat → Nat → Walk Nat
  | 0, _ => return fin
  | n + 1, i =>
    if fin ≤ i then return fin
    else do
      let x ← u.num (l.a0 + 8 * (i / 64)) 8
      match firstBit x (i % 64) with
      | some b => return (if i / 64 * 64 + b < fin then i / 64 * 64 + b else fin)
      | none => u.nextBit l fin n (i / 64 * 64 + 64)

/-- The first set bit of a BMP fibre at or after i. -/
def Walker.bitFrom (u : Walker) (l : Lvl) (fin i : Nat) : Walk Nat :=
  u.nextBit l fin ((fin - i) / 64 + 2) i

/-- Coordinate at POS (R244); `back` compares the entry with the one before it (R247). -/
def Walker.coord (u : Walker) (l : Lvl) (c : Cur) (back : Bool) : Walk Nat :=
  match l.kind with
  | 0 => return (c.pos + l.dim + 2 ^ 40 - c.fin) % 2 ^ 40
  | 2 => return (c.pos + l.dim + 2 ^ 40 - c.fin) % 2 ^ 40
  | 3 => do
    u.within l c.pos
    let e ← u.hshEntry l c.pos
    Walker.below l 4 c.pos e.2.1
    return e.2.1
  | 4 => do
    let r ← u.run l (c.pos / 2 ^ 16) (c.fin / 2 ^ 16) back
    let x := r.1 + c.pos % 2 ^ 16
    Walker.below l l.cwLog c.pos x
    return x
  | 5 => do
    let b ← u.ordered l (c.pos / 2 ^ l.blk) (c.fin / 2 ^ l.blk) back
    let x := b * 2 ^ l.blk + c.pos % 2 ^ l.blk
    Walker.below l l.cwLog c.pos x
    return x
  | _ => u.ordered l c.pos c.fin back

/-- Entry position at POS (R244), or the address of the slot's value with `.addr` (R246). -/
def Walker.entryPos (u : Walker) (l : Lvl) (c : Cur) (addr : Bool) : Walk Nat :=
  match l.kind with
  | 2 => do
    let pre ← u.num (l.a1 + c.pos / 64 * l.pw) l.pw
    let x ← u.num (l.a0 + 8 * (c.pos / 64)) 8
    return pre + ((List.range (c.pos % 64)).filter (bitN x)).length
  | 4 => return c.pos / 2 ^ 16
  | 6 => if addr then do
      let a ← u.slotAt l c.pos
      return a + 8
    else return c.pos
  | _ => return c.pos

/-- The successor of POS (R244). -/
def Walker.advance (u : Walker) (l : Lvl) (c : Cur) : Walk Cur :=
  match l.kind with
  | 2 => do
    let n ← u.bitFrom l c.fin (c.pos + 1)
    return c.at l n
  | 3 => do
    let n ← u.hshNext l c.fin (l.count - (c.pos + 1)) (c.pos + 1)
    return c.at l n
  | 4 => do
    let r ← u.run l (c.pos / 2 ^ 16) (c.fin / 2 ^ 16) true
    let o := c.pos % 2 ^ 16 + 1
    return c.at l (if o = r.2 then (c.pos / 2 ^ 16 + 1) * 2 ^ 16 else c.pos + 1)
  | _ => return c.at l (c.pos + 1)

/-! ## Opening (R244, R248) -/

/-- POS and END of the fibre of parent position p. A fibre that holds a run of index 2^24 or more, which
has no place in POS and END, reports the first of them (WALK.RUN; log 43). -/
def Walker.bounds (u : Walker) (l : Lvl) (p : Nat) : Walk (Nat × Nat) :=
  match l.kind with
  | 0 => return (p * l.dim, (p + 1) * l.dim)
  | 2 => do
    let base := 64 * ((l.dim + 63) / 64) * p
    let n ← u.bitFrom l (base + l.dim) base
    return (n, base + l.dim)
  | 3 => do
    let n ← u.hshNext l p l.count 0
    return (n, p)
  | _ => do
    let a ← u.posAt l p
    let b ← u.posAt l (p + 1)
    if b < a then walkFault 0x0402 l.pwLog l.addr p a b 0
    else if l.kind = 4 ∧ a < b ∧ 2 ^ 24 < b then do
      let r := if a < 2 ^ 24 then 2 ^ 24 else a
      let st ← u.num (l.a1 + r * l.cw) l.cw
      let n ← u.num (l.a2 + r * l.cw) l.cw
      walkFault 0x0406 l.cwLog l.addr r st n 0
    else return (a * l.unit, b * l.unit)

/-- A 40-bit field: a bound that does not fit is a free value (log 43). -/
def fit40 (x : Nat) : Walk Nat := fun st =>
  if x < 2 ^ 40 then .ok (x, st)
  else .ok ((Config.freeWord st.s.free).toNat % 2 ^ 40, { st with s := st.s.tick })

/-- Open the fibre of parent position p. -/
def Walker.openAt (u : Walker) (l : Lvl) (p : Nat) : Walk Cur := do
  let b ← u.bounds l p
  let done := decide ((if l.kind = 3 then l.count else b.2) ≤ b.1)
  let pos ← fit40 b.1
  let fin ← fit40 b.2
  return ⟨l.kind, done, false, l.addr / 64 % 2 ^ 42, pos, fin⟩

/-! ## Seeking (R245, R250) -/

/-- The bucket of (p, c) (R245). -/
def hshBucket (hb p c : Nat) : Nat :=
  if hb = 0 then 0
  else (p * 2 ^ 40 + c) % 2 ^ 64 * 0x9E3779B97F4A7C15 % 2 ^ 64 / 2 ^ (64 - hb)

/-- Follow a bucket chain from index i; n entries may still be read. -/
def Walker.chain (u : Walker) (l : Lvl) (p c h : Nat) : Nat → Nat → Walk (Option Nat)
  | 0, i => walkFault 0x0405 4 l.addr h i 0 0
  | n + 1, i =>
    if l.count ≤ i then walkFault 0x0405 4 l.addr h i 0 0
    else do
      let e ← u.hshEntry l i
      Walker.below l 4 i e.2.1
      if e.1 = p ∧ e.2.1 = c then return some i
      else if e.2.2 = 2 ^ 40 - 1 then return none
      else u.chain l p c h n e.2.2

/-- The hash probe of R245. -/
def Walker.probe (u : Walker) (l : Lvl) (p c : Nat) : Walk (Option Nat) := do
  let h := hshBucket l.hb p c
  let i ← u.num (l.a0 + h * l.pw) l.pw
  if i = 2 ^ (8 * l.pw) - 1 then return none else u.chain l p c h l.count i

/-- The next position to look at, from one whose coordinate x is below t: within its run or block, or
the next run, block or entry. -/
def Walker.skipTo (u : Walker) (l : Lvl) (c : Cur) (x t : Nat) : Walk Cur :=
  match l.kind with
  | 4 => do
    let r ← u.run l (c.pos / 2 ^ 16) (c.fin / 2 ^ 16) true
    return (if t < r.1 + r.2 then c.at l (c.pos + (t - x))
      else c.at l ((c.pos / 2 ^ 16 + 1) * 2 ^ 16))
  | 5 =>
    return (if c.pos % 2 ^ l.blk + (t - x) < 2 ^ l.blk then c.at l (c.pos + (t - x))
      else c.at l ((c.pos / 2 ^ l.blk + 1) * 2 ^ l.blk))
  | _ => u.advance l c

/-- Step from POS to the first entry with coordinate t or more, entry by entry (log 44). -/
def Walker.seekStep (u : Walker) (l : Lvl) (t : Nat) : Nat → Cur → Walk (Cur × Bool)
  | 0, c => return (c, false)
  | n + 1, c => do
    let x ← u.coord l c true
    if t ≤ x then return (c, x = t)
    else
      let d ← u.skipTo l c x t
      if d.done then return (d, false) else u.seekStep l t n d

/-- `CUR.SEEK` on a cursor that is not null (R250): the cursor after, and found. -/
def Walker.seek (u : Walker) (l : Lvl) (c : Cur) (t : Nat) : Walk (Cur × Bool) :=
  if c.done then return (c, false)
  else if l.dim ≤ t then
    return (if l.kind = 3 then c else { c with pos := c.fin, done := true }, false)
  else match l.kind with
    | 0 =>
      let n := (c.fin + 2 ^ 40 - l.dim + t) % 2 ^ 40
      let d := c.at l (if c.pos ≤ n then n else c.pos)
      return (d, d.pos = n && !d.done)
    | 2 => do
      let from_ := (c.fin + 2 ^ 40 - l.dim + t) % 2 ^ 40
      let n ← u.bitFrom l c.fin (if c.pos ≤ from_ then from_ else c.pos)
      let d := c.at l n
      return (d, d.pos = from_ && !d.done)
    | 3 => do
      let r ← u.probe l c.fin t
      match r with
      | some i => if c.pos ≤ i then return ({ c with pos := i }, true) else return (c, false)
      | none => return (c, false)
    | _ => u.seekStep l t (c.fin - c.pos + 1) c

/-! ## Cursor operands and the frame (R241-R243) -/

/-- The bits of a cursor operand: C in the wave form, a lane's quad in the lane form. -/
def Wave.curAt (w : Wave) (c : Cell) (r : Nat) : Nat :=
  match c with
  | .grp => (w.creg r).toNat
  | .lane l => w.vgrp 4 r l

/-- Write a cursor operand. -/
def Wave.setCur (w : Wave) (c : Cell) (r x : Nat) : Wave :=
  match c with
  | .grp => w.setC r (BitVec.ofNat 128 x)
  | .lane l => w.setVgrp 4 r l x

/-- A 64-bit operand: G in the wave form, a pair in the lane form. -/
def Wave.val64 (w : Wave) (c : Cell) (r : Nat) : Nat := w.reg c true r

/-- R242: the checks of one cursor operand. `want` is the APP bit it must have. -/
def curBad (x : Nat) (want addr union : Bool) : Bool :=
  let c := Cur.ofNat x
  c.app != want || (want && c.isNull) || (addr && c.kind != 6) || (union && c.kind = 3)

/-- The lowest bit of the field of the first cursor operand that fails R242, over the cells in
order. -/
def Wave.curCheck (w : Wave) (cs : List Cell) (fs : List (Nat × Nat)) (want addr union : Bool) :
    Option Nat :=
  (cs.flatMap (fun c => fs.map (fun f => (c, f)))).findSome? (fun q =>
    if curBad (w.curAt q.1 q.2.1) want addr union then some q.2.2 else none)

/-- The cursor operands that an instruction of the walker checks by R242, with the field of each, and the check's
settings: `want`, `addr`, `union`. -/
def walkOperands (op : Nat) (o : WOp) : List (Nat × Nat) × Bool × Bool × Bool :=
  let m0 := o.m.getLsbD 0
  match op, o.fn.toNat with
  | 0xE0, 1 => ([(o.b.toNat, 40)], false, m0, false)
  | 0xE0, 2 => ([(o.a.toNat, 32)], false, false, false)
  | 0xE0, 3 => ([(o.a.toNat, 32)], false, false, false)
  | 0xE0, 4 => ([(o.a.toNat, 32)], false, m0, false)
  | 0xE1, _ => ([(o.a.toNat, 32), (o.b.toNat, 40)], false, false, m0)
  | 0xE2, 1 => ([(o.d.toNat, 24)], true, false, false)
  | 0xE2, 2 => ([(o.d.toNat, 24)], true, false, false)
  | _, _ => ([], false, false, false)

/-- Does an instruction of the walker pass the checks of R242? -/
def Wave.walkPasses (w : Wave) (op : Nat) (o : WOp) : Bool :=
  let c := walkOperands op o
  (w.curCheck (w.cells o) c.1 c.2.1 c.2.2.1 c.2.2.2).isNone

/-- The walker of a cell. -/
def walkerOf (k : Nat) (w : Wave) (c : Cell) : Walker := ⟨k, w, c != .grp⟩

/-- Stop a walker instruction of a wave form, and of every form of `CUR.COIT` (R243). -/
def walkStop (i : Instr) (s : State) (k : Nat) (w : Wave) (e : WStop) : Out :=
  match e with
  | .fault f ds _ => waveFault (s.undraw (s.ctxOf w) (coreDie (slotCore k)) ds) k w f
  | .wait j => .next (s.waitOn k w .footprint j 0 i)
  | .busy => stall s

/-- A lane form under way: the state, the wave, the faults so far, and a stop that ends it. -/
structure WRun where
  s : State
  w : Wave
  faults : List (Nat × LFault)
  stop : Option WStop

/-- One lane of a lane form: a fault parks it and undoes its effects. Its walks that succeeded stand: they
have set A (R347). -/
def WRun.lane (r : WRun) (k : Nat) (w0 : Wave) (l : Nat) (body : Walker → Cell → Wave → Walk Wave) :
    WRun :=
  match r.stop with
  | some _ => r
  | none => match (body (walkerOf k w0 (.lane l)) (.lane l) r.w).run (WSt.start r.s) with
    | .ok (w1, x) => { r with s := x.s, w := w1 }
    | .error (.fault f ds seen) =>
      let s1 := seen.foldl (fun (st : State) q => (st.span (st.waveObs k w0) none q.2.2 q.1 q.2.1).1) r.s
      { r with s := s1.undraw (s1.ctxOf w0) (coreDie (slotCore k)) ds, faults := r.faults ++ [(l, f)] }
    | .error e => { r with stop := some e }

/-- A cursor or append instruction: R242, then the wave form at once or the lane form lane by lane.
`body` reads the wave as it was through its walker, and changes the wave it is given. -/
def onCursor (i : Instr) (o : WOp) (s : State) (fs : List (Nat × Nat)) (want addr : Bool)
    (body : Walker → Cell → Wave → Walk Wave) : Out :=
  onWave s (fun k w =>
    match w.curCheck (w.cells o) fs want addr false with
    | some lo => illegalField s k w lo
    | none =>
      if o.grp then
        if !w.guardGrp o.guard then .next (s.retire k w o.len)
        else match (body (walkerOf k w .grp) .grp w).run (WSt.start s) with
          | .ok (w1, x) => .next (x.s.retire k w1 o.len)
          | .error e => walkStop i s k w e
      else
        let r := (w.active o.guard).foldl (fun (x : WRun) l => x.lane k w l body) ⟨s, w, [], none⟩
        match r.stop with
        | some e => walkStop i s k w e
        | none => endLanes s w r.s k r.w o.len r.faults)

/-! ## The instructions (R248-R251) -/

/-- CUR.OPEN: the parent position is all of G[B], or V[B] zero-extended (R241). -/
def execCurOpen (o : WOp) (s : State) : Out :=
  onCursor (.curOpen o) o s [] false false (fun u c w => do
    let p := match c with
      | .grp => (u.w.greg o.b.toNat).toNat
      | .lane l => (u.w.vreg o.b.toNat l).toNat
    let l ← u.openLevel (u.w.greg o.a.toNat).toNat false
    let x ← u.openAt l p
    return (w.keepLevel c o.d.toNat l x).setCur c o.d.toNat x.toNat)

/-- Deliver one entry to a lane (R249). -/
def Walker.deliver (u : Walker) (l : Lvl) (c : Cur) (addr : Bool) : Walk (Nat × Cur) := do
  let x ← u.coord l c true
  let e ← u.entryPos l c addr
  let d ← u.advance l c
  return (x + e % 2 ^ 64 * 2 ^ 64, d)

/-- The lanes of the wave form of CUR.NEXT, in ascending order. -/
def Walker.nextLanes (u : Walker) (o : WOp) (l : Lvl) : List Nat → Cur → Wave → Walk (Cur × Wave)
  | [], c, w => return (c, w)
  | n :: t, c, w =>
    if c.done then u.nextLanes o l t c (w.setPL o.c.toNat n false)
    else do
      let r ← u.deliver l c (o.m.getLsbD 0)
      u.nextLanes o l t r.2 ((w.setVgrp 4 o.d.toNat n r.1).setPL o.c.toNat n true)

def execCurNext (o : WOp) (s : State) : Out :=
  let b := o.b.toNat
  onCursor (.curNext o) o s [(b, 40)] false (o.m.getLsbD 0) (fun u c w => do
    let x := u.w.curAt c b
    let cur := Cur.ofNat x
    match c with
    | .grp =>
      let ls := u.w.active o.guard
      let none_ := fun (v : Wave) => ls.foldl (fun (y : Wave) n => y.setPL o.c.toNat n false) v
      if cur.isNull || cur.done || ls.isEmpty then
        return (none_ w).setGP (o.a.toNat - 64) (cur.isNull || cur.done)
      else
        let l ← u.levelOf cur b
        let r ← u.nextLanes o l ls cur w
        return (r.2.setCur c b r.1.toNat).setGP (o.a.toNat - 64) r.1.done
    | .lane n =>
      if cur.isNull then return w.setPL o.c.toNat n false
      else
        let l ← u.levelOf cur b
        if cur.done then return w.setPL o.c.toNat n false
        else
          let r ← u.deliver l cur (o.m.getLsbD 0)
          return ((w.setVgrp 4 o.d.toNat n r.1).setCur c b r.2.toNat).setPL o.c.toNat n true)

def execCurSeek (o : WOp) (s : State) : Out :=
  let a := o.a.toNat
  onCursor (.curSeek o) o s [(a, 32)] false false (fun u c w => do
    let cur := Cur.ofNat (u.w.curAt c a)
    if cur.isNull then return w.setPred c o.d.toNat false
    else
      let l ← u.levelOf cur a
      let r ← u.seek l cur (u.w.val64 c o.b.toNat)
      return (w.setCur c a r.1.toNat).setPred c o.d.toNat r.2)

def execCurDesc (o : WOp) (s : State) : Out :=
  let a := o.a.toNat
  onCursor (.curDesc o) o s [(a, 32)] false false (fun u c w => do
    let cur := Cur.ofNat (u.w.curAt c a)
    if cur.isNull then return w.setCur c o.d.toNat 0
    else
      let e := u.w.val64 c o.b.toNat
      let p ← u.levelOf cur a
      if p.count ≤ e then walkFault 0x0407 6 p.addr e 0 0 0
      else
        let l ← u.level (u.w.greg o.c.toNat).toNat false
        let x ← u.openAt l e
        return (w.keepLevel c o.d.toNat l x).setCur c o.d.toNat x.toNat)

/-- Write 128 bits to an even G pair, or to a lane's quad. -/
def Wave.setPair (w : Wave) (c : Cell) (r x : Nat) : Wave :=
  match c with
  | .grp => (w.setG r (BitVec.ofNat 64 x)).setG (r + 1) (BitVec.ofNat 64 (x / 2 ^ 64))
  | .lane l => w.setVgrp 4 r l x

/-- CUR.GET reads the entry at POS alone (R251). On a done cursor it reads nothing, a lane cursor's
descriptor included (log 123). -/
def execCurGet (o : WOp) (s : State) : Out :=
  let a := o.a.toNat
  onCursor (.curGet o) o s [(a, 32)] false (o.m.getLsbD 0) (fun u c w => do
    let bits := u.w.curAt c a
    let cur := Cur.ofNat bits
    if o.m.getLsbD 1 then return w.setPair c o.d.toNat cur.toNat
    else if cur.isNull || cur.done then return w.setPair c o.d.toNat (2 ^ 128 - 1)
    else
      let l ← u.levelOf cur a
      let x ← u.coord l cur false
      let e ← u.entryPos l cur (o.m.getLsbD 0)
      return w.setPair c o.d.toNat (x + e % 2 ^ 64 * 2 ^ 64))

/-- CUR.TEST reads DONE alone (R240, R251). -/
def execCurTest (o : WOp) (s : State) : Out :=
  onCursor (.curTest o) o s [] false false (fun u c w =>
    let cur := Cur.ofNat (u.w.curAt c o.a.toNat)
    return w.setPred c o.d.toNat (cur.isNull || cur.done))

/-! ## Co-iteration (R252, R253) -/

/-- One side of a co-iteration: none for a null cursor. -/
abbrev CSide := Option (Lvl × Cur)

def sideDone (x : CSide) : Bool := (x.map (fun q => q.2.done)).getD true

/-- The method of `.isect` (R253): merge, or which side drives. -/
inductive Method where
  | merge | driveA | driveB
  deriving DecidableEq, Repr

def methodOf (ka kb : Nat) : Method :=
  if ka = 0 ∧ kb = 0 then .merge
  else if ka = 3 then (if kb = 0 ∨ kb = 3 then .driveA else .driveB)
  else if kb = 3 then (if ka = 0 then .driveB else .driveA)
  else if ka = 0 then .driveB
  else if kb = 0 then .driveA
  else .merge

/-- A result: coordinate, both entry positions and the presence bits, as an octet. -/
def octet (x a b pres : Nat) : Nat :=
  x + a % 2 ^ 64 * 2 ^ 64 + b % 2 ^ 64 * 2 ^ 128 + pres * 2 ^ 192

def allOnes64 : Nat := 2 ^ 64 - 1

/-- The entry position of a coordinate in a probed side (R252). -/
def Walker.probeSide (u : Walker) (l : Lvl) (c : Cur) (x : Nat) : Walk (Option Nat) :=
  if l.kind = 0 then return (if x < l.dim then some ((c.fin + 2 ^ 40 - l.dim + x) % 2 ^ 40) else none)
  else u.probe l c.fin x

/-- One result of the merge of `.isect`, and both cursors after it. -/
def Walker.isect (u : Walker) (la lb : Lvl) : Nat → Cur → Cur → Walk (Option Nat × Cur × Cur)
  | 0, a, b => return (none, a, b)
  | n + 1, a, b =>
    if a.done || b.done then return (none, a, b)
    else do
      let x ← u.coord la a true
      let y ← u.coord lb b true
      if x = y then
        let p ← u.entryPos la a false
        let q ← u.entryPos lb b false
        let a1 ← u.advance la a
        let b1 ← u.advance lb b
        return (some (octet x p q 3), a1, b1)
      else if x < y then
        let a1 ← u.advance la a
        u.isect la lb n a1 b
      else
        let b1 ← u.advance lb b
        u.isect la lb n a b1

/-- One result of a driven `.isect`: the driver's cursor after it; `swap` when B drives. -/
def Walker.drive (u : Walker) (lx ly : Lvl) (y : Cur) (swap : Bool) : Nat → Cur → Walk (Option Nat × Cur)
  | 0, x => return (none, x)
  | n + 1, x =>
    if x.done then return (none, x)
    else do
      let c ← u.coord lx x true
      let q ← u.probeSide ly y c
      match q with
      | some e =>
        let p ← u.entryPos lx x false
        let x1 ← u.advance lx x
        return (some (if swap then octet c e p 3 else octet c p e 3), x1)
      | none =>
        let x1 ← u.advance lx x
        u.drive lx ly y swap n x1

/-- The coordinate of a side that is not done. -/
def Walker.sideCoord (u : Walker) (x : CSide) : Walk (Option Nat) :=
  match x with
  | some (l, c) => if c.done then return none else do
      let v ← u.coord l c true
      return some v
  | none => return none

/-- The side after a coordinate is delivered, and its entry position, when it holds it. -/
def Walker.sideTake (u : Walker) (x : CSide) (v : Option Nat) (c : Nat) : Walk (CSide × Option Nat) :=
  match x with
  | some (l, cur) =>
    if v = some c then do
      let e ← u.entryPos l cur false
      let d ← u.advance l cur
      return (some (l, d), some e)
    else return (x, none)
  | none => return (x, none)

/-- One result of `.union`. -/
def Walker.union (u : Walker) (a b : CSide) : Walk (Option Nat × CSide × CSide) := do
  let x ← u.sideCoord a
  let y ← u.sideCoord b
  match (match x, y with
      | some p, some q => some (if p ≤ q then p else q)
      | some p, none => some p
      | none, q => q) with
  | none => return (none, a, b)
  | some c =>
    let ra ← u.sideTake a x c
    let rb ← u.sideTake b y c
    return (some (octet c (ra.2.getD allOnes64) (rb.2.getD allOnes64)
      ((if ra.2.isSome then 1 else 0) + (if rb.2.isSome then 2 else 0))), ra.1, rb.1)

/-- Positions a cursor may still pass. -/
def Cur.room (c : Cur) (l : Lvl) : Nat := c.bound l - c.pos + 1

/-- One result of a co-iteration, and both sides after it. -/
def Walker.coit (u : Walker) (isUnion : Bool) (a b : CSide) : Walk (Option Nat × CSide × CSide) :=
  if isUnion then u.union a b
  else match a, b with
    | some (la, ca), some (lb, cb) =>
      match methodOf la.kind lb.kind with
      | .merge => do
        let r ← u.isect la lb (ca.room la + cb.room lb) ca cb
        return (r.1, some (la, r.2.1), some (lb, r.2.2))
      | .driveA => do
        let r ← u.drive la lb cb false (ca.room la) ca
        return (r.1, some (la, r.2), b)
      | .driveB => do
        let r ← u.drive lb la ca true (cb.room lb) cb
        return (r.1, a, some (lb, r.2))
    | _, _ => return (none, a, b)

/-- done of R252, from the sides as they stand. -/
def coitDone (isUnion : Bool) (a b : CSide) : Bool :=
  if isUnion then sideDone a && sideDone b
  else match a, b with
    | some (la, ca), some (lb, cb) => match methodOf la.kind lb.kind with
      | .merge => ca.done || cb.done
      | .driveA => ca.done
      | .driveB => cb.done
    | _, _ => true

/-- The side that a cursor operand in a register is. -/
def Walker.side (u : Walker) (x r : Nat) : Walk CSide :=
  let c := Cur.ofNat x
  if c.isNull then return none
  else do
    let l ← u.levelOf c r
    return some (l, c)

/-- Write a side's cursor back; a null cursor is never written (R240). -/
def Wave.setSide (w : Wave) (c : Cell) (r : Nat) (x : CSide) : Wave :=
  match x with
  | some q => w.setCur c r q.2.toNat
  | none => w

/-- Give a lane its result, or predicate 0. -/
def Wave.setOctet (w : Wave) (o : WOp) (l : Nat) (r : Option Nat) : Wave :=
  match r with
  | some x => (w.setVgrp 8 o.d.toNat l x).setPL o.c.toNat l true
  | none => w.setPL o.c.toNat l false

/-- The wave form: results go to the active lanes in ascending order. -/
def Walker.coitLanes (u : Walker) (o : WOp) : List Nat → CSide → CSide → Wave →
    Walk (CSide × CSide × Wave)
  | [], a, b, w => return (a, b, w)
  | n :: t, a, b, w => do
    let r ← u.coit (o.m.getLsbD 0) a b
    u.coitLanes o t r.2.1 r.2.2 (w.setOctet o n r.1)

/-- The lane form: one step of each lane's own pair of cursors. -/
def coitEach (k : Nat) (w0 : Wave) (o : WOp) : List Nat → Wave → Walk Wave
  | [], w => return w
  | n :: t, w => do
    let u := walkerOf k w0 (.lane n)
    let a ← u.side (w0.curAt (.lane n) o.a.toNat) o.a.toNat
    let b ← u.side (w0.curAt (.lane n) o.b.toNat) o.b.toNat
    let r ← u.coit (o.m.getLsbD 0) a b
    let w1 := ((w.setOctet o n r.1).setSide (.lane n) o.a.toNat r.2.1).setSide (.lane n) o.b.toNat r.2.2
    coitEach k w0 o t w1

/-- Every form of CUR.COIT stops the whole wave on a fault (R243). Where A and B name one cursor, or the
octet overlaps a lane's quad, two copies advance, and the octet is written before A's cursor and B's after
it (log 100). -/
def execCurCoit (o : WOp) (s : State) : Out :=
  let isUnion := o.m.getLsbD 0
  onWave s (fun k w =>
    match w.curCheck (w.cells o) [(o.a.toNat, 32), (o.b.toNat, 40)] false false isUnion with
    | some lo => illegalField s k w lo
    | none =>
      if o.grp && !w.guardGrp o.guard then .next (s.retire k w o.len)
      else
        let body : Walk Wave := if o.grp then do
            let u := walkerOf k w .grp
            let a ← u.side (w.curAt .grp o.a.toNat) o.a.toNat
            let b ← u.side (w.curAt .grp o.b.toNat) o.b.toNat
            let r ← u.coitLanes o (w.active o.guard) a b w
            return ((r.2.2.setSide .grp o.a.toNat r.1).setSide .grp o.b.toNat r.2.1).setGP
              (o.m.extractLsb' 4 4).toNat (coitDone isUnion r.1 r.2.1)
          else coitEach k w o (w.active o.guard) w
        match body.run (WSt.start s) with
        | .ok (w1, x) => .next (x.s.retire k w1 o.len)
        | .error e => walkStop (.curCoit o) s k w e)

end Sys2Proof.Machine
end

