-- ==== Sys2Proof/Machine/Append.lean ====
section
/-! DEFINITION. Append cursors (R254-R257): `APP.OPEN`, `APP.PUT`, `APP.CLOSE`. -/

namespace Sys2Proof.Machine

/-- A cause of an append (R247, R353). -/
def appFault {α : Type} (cause size addr v0 v1 : Nat) : Walk α :=
  wfault ⟨cause, 5, size, 3, addr, v0, v1, 0, 0⟩

/-- Draw a 4 KiB block from the level's heap of the wave's die; APP.NOSPACE when it is empty. -/
def Walker.draw (u : Walker) (l : Lvl) : Walk Nat := fun x =>
  let r := x.s.heapDraw (x.s.ctxOf u.w) (coreDie (slotCore u.k)) l.heap false
  let x1 : WSt := { x with s := r.1, drawn := x.drawn ++ [(l.heap, false)] }
  match r.2 with
  | .block va => .ok (va, x1)
  | .none => .error (.fault ⟨0x0409, 5, 3, 3, l.addr, l.heap, 0, 0, 0⟩ x1.drawn x1.seen)
  | .busy => .error .busy

/-- A chunk header (R246). -/
def chunkHeader (base : Nat) : List Byte := bytesOf 8 0 ++ bytesOf 8 base ++ bytesOf 48 0

/-- Compare-and-swap TAIL from 0, at the descriptor's home slice (R254, R257): the old value. It is a
synchronising access, which follows the wave's own reductions (R101). -/
def Walker.casTail (u : Walker) (addr v : Nat) : Walk Nat := fun x =>
  match (if x.s.redgBusy u.k then some .busy else u.waits x.s true addr 8) with
  | some e => .error e
  | none => match x.s.check (u.obs x.s) none .atomic true addr 8 with
    | (_, .error e) => .error (x.stop ⟨e.cause, 5, 3, 3, e.addr, e.v0, e.v1, 0, 0⟩ addr 8 .atomic)
    | (s1, .ok ps) => match ps with
      | p :: _ =>
        let (s2, old) := s1.atomAt (u.obs x.s) { p.leaf with ap := 1 } p.pa 8 1 v 0
        .ok (old, x.after (s2.mdForget (slotCore u.k) ps) addr 8 .atomic)
      | [] => .ok (0, x)

/-- Offset of TAIL in a descriptor (R246). -/
def tailOff : Nat := 48

def execAppOpen (o : WOp) (s : State) : Out :=
  onCursor (.appOpen o) o s [] true false (fun u c w => do
    let l ← u.openLevel (u.w.val64 c o.a.toNat) true
    if l.kind != 6 || !l.appok then walkFault 0x0401 6 l.addr 0 0 0 0
    else
      let ch ← u.draw l
      u.write ch (chunkHeader 0)
      let old ← u.casTail (l.addr + tailOff) ch
      if old != 0 then appFault 0x040A 3 l.addr 0 0
      else
        u.write (l.addr + 24) (bytesOf 8 ch)
        u.write l.a0 (bytesOf l.pw 0)
        let x : Cur := ⟨6, false, true, l.addr / 64 % 2 ^ 42, 0, 0⟩
        return (w.keepLevel c o.d.toNat l x).setCur c o.d.toNat x.toNat)

/-- Is a value zero under a zero test (R73, R255)? -/
def zeroTest (z v : Nat) : Bool :=
  match z with
  | 1 => v % 2 ^ 32 = 0
  | 2 => v % 2 ^ 64 = 0
  | 3 => v % 2 ^ 31 = 0
  | 4 => v % 2 ^ 63 = 0
  | 5 => v % 2 ^ 15 = 0
  | 6 => v % 2 ^ 15 = 0
  | _ => false

/-- An append under way: the tail chunk, its slots in use, and the entries appended. -/
structure Put where
  tail : Nat
  used : Nat
  pos : Nat

/-- Append one entry, coordinate low and value high. -/
def Walker.put (u : Walker) (l : Lvl) (z : Nat) (p : Put) (q : Nat) : Walk Put := do
  let x := fld q 0 64
  let v := fld q 64 64
  if zeroTest z v then return p
  else if l.dim ≤ x then appFault 0x0404 3 l.addr p.pos x
  else
    let p1 ← if p.used = 252 then do
        let b ← u.draw l
        u.write b (chunkHeader p.pos)
        u.write p.tail (bytesOf 8 b)
        u.write (l.addr + tailOff) (bytesOf 8 b)
        pure (⟨b, 0, p.pos⟩ : Put)
      else pure p
    u.write (p1.tail + 64 + 16 * p1.used) (bytesOf 16 q)
    u.write (p1.tail + 16) (bytesOf 4 (p1.used + 1))
    return ⟨p1.tail, p1.used + 1, p1.pos + 1⟩

/-- Append entries in order. -/
def Walker.putAll (u : Walker) (l : Lvl) (z : Nat) : List Nat → Put → Walk Put
  | [], p => return p
  | q :: t, p => do
    let p1 ← u.put l z p q
    u.putAll l z t p1

/-- APP.PUT (R255). A level with no tail is not open for append: a lane cursor that says so is none of it
(R239; log 41). -/
def execAppPut (o : WOp) (s : State) : Out :=
  let d := o.d.toNat
  let z := (o.m.extractLsb' 0 3).toNat
  onCursor (.appPut o) o s [(d, 24)] true false (fun u c w => do
    let cur := Cur.ofNat (u.w.curAt c d)
    let l ← u.levelOf cur d
    let tail ← u.num (l.addr + tailOff) 8
    if tail = 0 then walkFault 0x0401 6 l.addr 0 0 0 0 else
    let used ← u.num (tail + 16) 4
    if 252 < used then walkFault 0x0408 6 l.addr tail 0 0 0
    else
      let ls := match c with
        | .grp => u.w.active o.guard
        | .lane n => [n]
      let p ← u.putAll l z (ls.map (u.w.vgrp 4 o.b.toNat)) ⟨tail, used, cur.pos⟩
      if o.m.getLsbD 3 then
        u.write (l.a0 + (cur.fin + 1) * l.pw) (bytesOf l.pw p.pos)
        return w.setCur c d (Cur.toNat { cur with pos := p.pos, fin := cur.fin + 1 })
      else return w.setCur c d (Cur.toNat { cur with pos := p.pos }))

/-- A die's remote partition evicts the lines of pages no wider than DIE: their dirty sectors reach their
homes (R85). -/
def State.evictRemote (s : State) (die : Nat) : State :=
  (s.remoteBack die true).modDie die
    (fun d => { d with remote := d.remote.filter (fun p => decide (1 < p.2.share)) })

/-- The writes made through a cursor are performed at their homes (R256): those to a page of scope DIE or
CLUSTER, which R85 lets go home by no release, leave the remote partition by eviction (log 124). -/
def Walker.settle (u : Walker) : Walk Unit :=
  modify (fun x => { x with s :=
    (x.s.drainAll (u.obs x.s) (slotCore u.k)).evictRemote (coreDie (slotCore u.k)) })

def execAppClose (o : WOp) (s : State) : Out :=
  let d := o.d.toNat
  onCursor (.appClose o) o s [(d, 24)] true false (fun u c w => do
    let cur := Cur.ofNat (u.w.curAt c d)
    let l ← u.levelOf cur d
    u.settle
    u.write (l.addr + 40) (bytesOf 8 cur.pos)
    u.write (l.addr + tailOff) (bytesOf 8 0)
    return w.setCur c d (Cur.toNat { cur with done := true, app := false }))

end Sys2Proof.Machine
end

