-- ==== Sys2Proof/WellFormed.lean ====
section
/-! DEFINITION. Which instructions are well formed: those that some word encodes (R133-R135 for the
waves, R274-R290 for the copy engines). The steps of other units have no encoding, and every value
of their operands is well formed. -/

namespace Sys2Proof

/-- A wave instruction's opcode (R133) and its fields; none for a command or another unit's step. -/
def Instr.wave? : Instr → Option (BitVec 8 × WOp)
  | .getid o => some (0x9E#8, o) | .getcap o => some (0x9E#8, o) | .iadd o => some (0x01#8, o)
  | .isub o => some (0x01#8, o) | .ineg o => some (0x01#8, o) | .iabs o => some (0x01#8, o)
  | .imul o => some (0x02#8, o) | .imad o => some (0x02#8, o) | .imin o => some (0x03#8, o)
  | .imax o => some (0x03#8, o) | .and o => some (0x04#8, o) | .or o => some (0x04#8, o)
  | .xor o => some (0x04#8, o) | .not o => some (0x04#8, o) | .andn o => some (0x04#8, o)
  | .bool3 o => some (0x05#8, o) | .shl o => some (0x06#8, o) | .shr o => some (0x06#8, o)
  | .sar o => some (0x06#8, o) | .shf o => some (0x06#8, o) | .bfe o => some (0x07#8, o)
  | .bfi o => some (0x07#8, o) | .popc o => some (0x07#8, o) | .clz o => some (0x07#8, o)
  | .brev o => some (0x07#8, o) | .mov o => some (0x08#8, o) | .movi o => some (0x08#8, o)
  | .sel o => some (0x09#8, o) | .icmp o => some (0x0A#8, o) | .pbool o => some (0x0B#8, o)
  | .idp4 o => some (0x0C#8, o) | .idp2 o => some (0x0C#8, o) | .fadd o => some (0x40#8, o)
  | .fsub o => some (0x40#8, o) | .fmul o => some (0x40#8, o) | .ffma o => some (0x41#8, o)
  | .fmin o => some (0x42#8, o) | .fmax o => some (0x42#8, o) | .fcmp o => some (0x43#8, o)
  | .frcp o => some (0x44#8, o) | .frsq o => some (0x44#8, o) | .fsqrt o => some (0x44#8, o)
  | .fdiv o => some (0x44#8, o) | .fexp2 o => some (0x44#8, o) | .flog2 o => some (0x44#8, o)
  | .cvt o => some (0x45#8, o) | .fneg o => some (0x46#8, o) | .fabs o => some (0x46#8, o)
  | .bra o => some (0x80#8, o) | .braIndirect o => some (0x80#8, o) | .call o => some (0x81#8, o)
  | .callIndirect o => some (0x81#8, o) | .ret o => some (0x81#8, o)
  | .cvgPush o => some (0x82#8, o) | .cvgJoin o => some (0x82#8, o) | .exmGet o => some (0x83#8, o)
  | .exmSet o => some (0x83#8, o) | .yield o => some (0x84#8, o) | .end_ o => some (0x85#8, o)
  | .trap o => some (0x86#8, o) | .rdfirst o => some (0x87#8, o) | .rdlane o => some (0x87#8, o)
  | .wrlane o => some (0x87#8, o) | .bcast o => some (0x87#8, o) | .lperm o => some (0x88#8, o)
  | .poll o => some (0x89#8, o) | .lred o => some (0x89#8, o) | .sameMask o => some (0x89#8, o)
  | .sameAll o => some (0x89#8, o) | .getmode o => some (0x8A#8, o)
  | .setmode o => some (0x8A#8, o) | .getflags o => some (0x8A#8, o)
  | .setflags o => some (0x8A#8, o) | .clrflags o => some (0x8A#8, o) | .ldg o => some (0xA0#8, o)
  | .stg o => some (0xA1#8, o) | .atg o => some (0xA2#8, o) | .redg o => some (0xA3#8, o)
  | .redgRedir o => some (0xA3#8, o) | .pref o => some (0xA4#8, o) | .lds o => some (0xA5#8, o)
  | .sts o => some (0xA6#8, o) | .ats o => some (0xA7#8, o) | .ldc o => some (0xA8#8, o)
  | .fenceRel o => some (0xA9#8, o) | .fenceAcq o => some (0xA9#8, o)
  | .fenceAr o => some (0xA9#8, o) | .icinv o => some (0xA9#8, o) | .qbind o => some (0xC0#8, o)
  | .qbindInit o => some (0xC0#8, o) | .qpush o => some (0xC0#8, o) | .qpop o => some (0xC0#8, o)
  | .qtry o => some (0xC0#8, o) | .qstat o => some (0xC0#8, o) | .barInit o => some (0xC1#8, o)
  | .barArr o => some (0xC1#8, o) | .barWait o => some (0xC1#8, o) | .barExp o => some (0xC1#8, o)
  | .ceStart o => some (0xC2#8, o) | .ceWait o => some (0xC2#8, o) | .gthr o => some (0xC3#8, o)
  | .sctr o => some (0xC3#8, o) | .launch o => some (0xC4#8, o) | .mldb o => some (0xD0#8, o)
  | .mma o => some (0xD1#8, o) | .mst o => some (0xD2#8, o) | .mz o => some (0xD3#8, o)
  | .curOpen o => some (0xE0#8, o) | .curNext o => some (0xE0#8, o)
  | .curSeek o => some (0xE0#8, o) | .curDesc o => some (0xE0#8, o) | .curGet o => some (0xE0#8, o)
  | .curTest o => some (0xE0#8, o) | .curCoit o => some (0xE1#8, o)
  | .appOpen o => some (0xE2#8, o) | .appPut o => some (0xE2#8, o)
  | .appClose o => some (0xE2#8, o) | .vld o => some (0xE3#8, o) | .vst o => some (0xE4#8, o)
  | .vprobe o => some (0xE5#8, o) | .fgCfg o => some (0xF0#8, o) | .fgLoad o => some (0xF0#8, o)
  | .fgSeed o => some (0xF0#8, o) | .fgClamp o => some (0xF0#8, o) | .fgFree o => some (0xF0#8, o)
  | .fgSweep o => some (0xF0#8, o) | .fgRead o => some (0xF0#8, o) | .fgCnt o => some (0xF0#8, o)
  | .sysrd o => some (0xF8#8, o) | .syswr o => some (0xF8#8, o) | .rtt o => some (0xF9#8, o)
  | .rttSkip o => some (0xF9#8, o) | .rttGo o => some (0xF9#8, o) | .clbInv o => some (0xFA#8, o)
  | .tlbInvVa o => some (0xFB#8, o) | .tlbInvCtx o => some (0xFB#8, o)
  | .pmap o => some (0xFC#8, o) | .pmapRec o => some (0xFC#8, o)
  | _ => none

/-- The contexts in which an instruction can be accepted: the widest wave, out of its trap handler at
user or supervisor privilege, and in it (R135). -/
def DecodeCtx.widest : List DecodeCtx :=
  [⟨256, true, false, false⟩, ⟨256, true, true, false⟩, ⟨256, true, true, true⟩]

/-- Does the shape of OP and FN build this instruction, and do its fields pass the checks of R135 in
a context? -/
def WOp.acceptedAs (op : BitVec 8) (o : WOp) (i : Instr) (cx : DecodeCtx) : Bool :=
  match shapeOf op o.fn o.m with
  | .shape sh => decide (sh.build o = i) && (checkShape cx sh (o.toRaw op)).isNone
  | _ => false

/-- A scalar load or store names an index register exactly when I = 0: with no extension word the
three rows of the table tell the forms apart (R280). -/
def CeMem.wf (o : CeMem) (index disp : Bool) (store : Bool) : Bool :=
  o.x.isSome == disp && (disp || o.b.isSome == index) && !(store && o.sx)

def CeDld.wf (o : CeDld) (index disp : Bool) : Bool :=
  o.x.isSome == disp && (disp || o.b.isSome == index)

/-- Can the instruction be encoded? -/
def Instr.wf (i : Instr) : Bool :=
  match i.wave? with
  | some (op, o) => DecodeCtx.widest.any (fun cx => o.acceptedAs op i cx)
  | none =>
    match i with
    | .ld o => o.wf true false false
    | .ldBase o => o.wf false false false
    | .ldDisp o => o.wf false true false
    | .st o => o.wf true false true
    | .stBase o => o.wf false false true
    | .stDisp o => o.wf false true true
    | .dld o => o.wf true false
    | .dldBase o => o.wf false false
    | .dldDisp o => o.wf false true
    | _ => true

end Sys2Proof
end

