-- ==== Sys2Proof/Decode.lean ====
section
/-! DEFINITION. The decoders of the package's two instruction sets: the waves' words (R123-R137) and
the copy engines' commands (R274-R290), each total on any bits and refusing by name; and after
them the encoders, from the same tables. -/

namespace Sys2Proof

/-! ## Wave instructions -/

/-- What decoding answers (R135): OP, then privilege, then FN, then the checks of the shape. -/
def decodeRaw (cx : DecodeCtx) (r : RawW) : Except DecodeTrap Instr :=
  match opFate r.op with
  | .illegal => .error ⟨false, 1, 0, 7⟩
  | .minor => .error ⟨true, 1, 0, 7⟩
  | .assigned =>
    if isSystemOp r.op && !cx.sup then .error ⟨false, 7, 0, 7⟩
    else match shapeOf r.op r.fn r.m with
      | .illegal => .error ⟨false, 2, 19, 23⟩
      | .minor => .error ⟨true, 2, 19, 23⟩
      | .shape sh =>
        match checkShape cx sh r with
        | some t => .error t
        | none => match guardOf r.guard r.gn with
          | some g => .ok (sh.build (r.toWOp g))
          | none => .error ⟨false, 4, 11, 18⟩

/-- The wave instruction that words 0 and 1 hold (R135). -/
def decodeWave (cx : DecodeCtx) (w0 w1 : BitVec 64) : Except DecodeTrap Instr :=
  decodeRaw cx (rawOf w0 w1)

/-! ## Copy-engine commands -/

/-- The fields of a command word and its extension (R274); the extension is 0 when X = 0. -/
structure RawC where
  op : BitVec 6
  x : Bool
  i : Bool
  rd : BitVec 5
  ra : BitVec 5
  rb : BitVec 5
  imm : BitVec 9
  ext : BitVec 32
  deriving DecidableEq, Repr, Inhabited

/-- The command word of the fields (R274). -/
def RawC.word0 (r : RawC) : BitVec 32 :=
  r.imm ++ r.rb ++ r.ra ++ r.rd ++ bit1 r.i ++ bit1 r.x ++ r.op

/-- The fields of a command word (R274). -/
def rawC (w0 w1 : BitVec 32) : RawC where
  op := w0.extractLsb' 0 6
  x := w0.getLsbD 6
  i := w0.getLsbD 7
  rd := w0.extractLsb' 8 5
  ra := w0.extractLsb' 13 5
  rb := w0.extractLsb' 18 5
  imm := w0.extractLsb' 23 9
  ext := if w0.getLsbD 6 then w1 else 0

/-- What decoding a command answers: the command, a reserved-for-minor word, or an illegal one
(R275). -/
inductive CeDecoded where
  | ok (i : Instr)
  | unimpl
  | illegal
  deriving DecidableEq, Repr

/-- A command accepted when its unused fields are zero (R274). -/
def ceIf (ok : Bool) (i : Instr) : CeDecoded := if ok then .ok i else .illegal

/-- An integer command: its register, immediate and extension forms (R276). -/
def ceArith (r : RawC) (reg : Ce3 → Instr) (im : CeI → Instr) (ex : CeX → Instr) : CeDecoded :=
  match r.i, r.x with
  | false, false => ceIf (r.imm = 0) (reg ⟨r.rd, r.ra, r.rb⟩)
  | true, false => ceIf (r.rb = 0) (im ⟨r.rd, r.ra, r.imm⟩)
  | true, true => ceIf (r.rb = 0 && r.imm = 0) (ex ⟨r.rd, r.ra, r.ext⟩)
  | false, true => .illegal

/-- A branch: its register and immediate forms, and the form with an extension word (R278). -/
def ceBranch (r : RawC) (reg im : CeBr → Instr) (ex : CeBrX → Instr) : CeDecoded :=
  if r.x then ceIf (r.rd = 0 && r.imm = 0) (ex ⟨r.i, r.ra, r.rb, r.ext⟩)
  else .ok ((if r.i then im else reg) ⟨r.ra, r.rb, r.imm ++ r.rd⟩)

/-- The operands of a scalar load or store (R280). -/
def RawC.mem (r : RawC) : CeMem where
  d := r.rd
  a := r.ra
  b := if r.i then none else some r.rb
  z := r.imm.extractLsb' 0 2
  sx := r.imm.getLsbD 2
  sp := r.imm.getLsbD 3
  x := if r.x then some r.ext else none

/-- A scalar load or store: its indexed, base and displaced forms (R280). -/
def ceMemory (r : RawC) (store : Bool) (idx base disp : CeMem → Instr) : CeDecoded :=
  ceIf (r.imm.extractLsb' 4 5 = 0 && !(store && r.imm.getLsbD 2) && (!r.i || r.rb = 0))
    ((if r.x then disp else if r.i then base else idx) r.mem)

/-- The operands of a descriptor load (R281). -/
def RawC.dldOp (r : RawC) : CeDld where
  k := r.rd.extractLsb' 0 3
  a := r.ra
  b := if r.i then none else some r.rb
  sp := r.imm.getLsbD 3
  x := if r.x then some r.ext else none

/-- One bit of IMM9 alone may be set. -/
def RawC.immOnly (r : RawC) (mask : BitVec 9) : Bool := r.imm &&& ~~~mask = 0

/-- The command that the fields hold (R275). -/
def decodeRawC (r : RawC) : CeDecoded :=
  match r.op.toNat with
  | 0x01 => ceArith r .ceAdd .ceAddImm .ceAddExt
  | 0x02 => ceArith r .ceSub .ceSubImm .ceSubExt
  | 0x03 => ceArith r .ceMul .ceMulImm .ceMulExt
  | 0x04 => ceArith r .ceAnd .ceAndImm .ceAndExt
  | 0x05 => ceArith r .ceOr .ceOrImm .ceOrExt
  | 0x06 => ceArith r .ceXor .ceXorImm .ceXorExt
  | 0x07 => ceArith r .ceShl .ceShlImm .ceShlExt
  | 0x08 => ceArith r .ceShr .ceShrImm .ceShrExt
  | 0x09 => ceArith r .ceSar .ceSarImm .ceSarExt
  | 0x0A => ceArith r .ceMin .ceMinImm .ceMinExt
  | 0x0B => ceArith r .ceMax .ceMaxImm .ceMaxExt
  | 0x0C => ceIf (r.i && r.ra = 0 && r.rb = 0 && (!r.x || r.imm = 0))
      (if r.x then .liExt r.rd r.ext else .li r.rd r.imm)
  | 0x0D => ceIf (r.i && r.x && r.ra = 0 && r.rb = 0 && r.imm = 0) (.lih r.rd r.ext)
  | 0x0E => ceIf (!r.i && !r.x && r.ra.extractLsb' 2 3 = 0 && r.rb = 0 && r.imm = 0)
      (.getl r.rd (r.ra.extractLsb' 0 2))
  | 0x10 => ceBranch r .beq .beqImm .beqExt
  | 0x11 => ceBranch r .bne .bneImm .bneExt
  | 0x12 => ceBranch r .blt .bltImm .bltExt
  | 0x13 => ceBranch r .bge .bgeImm .bgeExt
  | 0x14 => ceBranch r .bltu .bltuImm .bltuExt
  | 0x15 => ceBranch r .bgeu .bgeuImm .bgeuExt
  | 0x16 => ceIf (!r.i && r.ra = 0 && r.rb = 0 && (!r.x || (r.rd = 0 && r.imm = 0)))
      (if r.x then .jmpExt r.ext else .jmp (r.imm ++ r.rd))
  | 0x17 => ceIf (r.i == r.x && r.rd.extractLsb' 2 3 = 0 && r.rb = 0 && (!r.x || r.ra = 0))
      (if r.x then .loopImm (r.rd.extractLsb' 0 2) r.ext r.imm
       else .loop (r.rd.extractLsb' 0 2) r.ra r.imm)
  | 0x18 => ceIf (!r.i && !r.x && r.rd.extractLsb' 2 3 = 0 && r.ra = 0 && r.rb = 0)
      (.endl (r.rd.extractLsb' 0 2) r.imm)
  | 0x20 => ceMemory r false .ld .ldBase .ldDisp
  | 0x21 => ceMemory r true .st .stBase .stDisp
  | 0x22 => ceIf (r.immOnly 8#9 && r.rd.extractLsb' 3 2 = 0 && (!r.i || r.rb = 0))
      ((if r.x then Instr.dldDisp else if r.i then .dldBase else .dld) r.dldOp)
  | 0x23 => ceIf (r.i == r.x && r.rd.extractLsb' 3 2 = 0 && r.rb = 0
        && r.imm.extractLsb' 5 4 = 0 && (!r.x || r.ra = 0))
      (if r.x then .dsetExt (r.rd.extractLsb' 0 3) (r.imm.extractLsb' 0 5) r.ext
       else .dset (r.rd.extractLsb' 0 3) (r.imm.extractLsb' 0 5) r.ra)
  | 0x24 => ceIf (!r.i && !r.x && r.rb.extractLsb' 3 2 = 0 && r.immOnly 1#9)
      (.addr r.rd r.ra (r.rb.extractLsb' 0 3) (r.imm.getLsbD 0))
  | 0x25 => ceIf (!r.i && !r.x && r.rd = 0 && r.rb = 0 && r.immOnly 8#9)
      (.xfer r.ra (r.imm.getLsbD 3))
  | 0x26 => ceIf (!r.i && !r.x && r.rd = 0 && r.rb = 0 && r.immOnly 1#9)
      (.gsub r.ra (r.imm.getLsbD 0))
  | 0x30 => ceIf (!r.i && !r.x && r.immOnly 1#9 && (!r.imm.getLsbD 0 || r.rb = 0))
      (if r.imm.getLsbD 0 then .waitxCur r.rd r.ra else .waitx ⟨r.rd, r.ra, r.rb⟩)
  | 0x31 => ceIf (!r.i && !r.x && r.immOnly 1#9 && (r.imm.getLsbD 0 || r.rb = 0))
      (if r.imm.getLsbD 0 then .arriveN ⟨r.rd, r.ra, r.rb⟩ else .arrive r.rd r.ra)
  | 0x32 => ceIf (!r.i && !r.x && r.rd = 0 && r.imm = 0) (.sig r.ra r.rb)
  | 0x33 => ceIf (!r.i && !r.x && r.rd = 0 && r.ra = 0 && r.rb = 0 && r.imm = 0) .ceFence
  | 0x34 => ceIf (!r.i && !r.x && r.rd = 0 && r.ra = 0 && r.rb = 0 && r.imm = 0) .halt
  | 0x35 => ceIf (!r.i && !r.x && r.rd = 0 && r.ra = 0 && r.rb = 0 && r.imm = 0) .nop
  | n => if n = 0 || 0x3B ≤ n then .illegal else .unimpl

/-- The command that a word and its extension hold (R275). -/
def decodeCe (w0 w1 : BitVec 32) : CeDecoded := decodeRawC (rawC w0 w1)

/-! ## Encoders -/

/-- Words 0 and 1 of a wave instruction (R123); word 1 is 0 when there is none. -/
def encodeWave (i : Instr) : Option (BitVec 64 × BitVec 64) :=
  i.wave?.map (fun p => ((p.2.toRaw p.1).word0, (p.2.toRaw p.1).ext))

/-- Fields of a command with no extension word. -/
def rawC0 (op : BitVec 6) (rd ra rb : BitVec 5) (imm : BitVec 9) : RawC :=
  ⟨op, false, false, rd, ra, rb, imm, 0⟩

def Ce3.toRaw (o : Ce3) (op : BitVec 6) : RawC := rawC0 op o.d o.a o.b 0
def CeI.toRaw (o : CeI) (op : BitVec 6) : RawC := ⟨op, false, true, o.d, o.a, 0, o.i, 0⟩
def CeX.toRaw (o : CeX) (op : BitVec 6) : RawC := ⟨op, true, true, o.d, o.a, 0, 0, o.x⟩
def CeBr.toRaw (o : CeBr) (op : BitVec 6) (i : Bool) : RawC :=
  ⟨op, false, i, o.off.extractLsb' 0 5, o.a, o.b, o.off.extractLsb' 5 9, 0⟩
def CeBrX.toRaw (o : CeBrX) (op : BitVec 6) : RawC := ⟨op, true, o.imm, 0, o.a, o.b, 0, o.x⟩
def CeMem.toRaw (o : CeMem) (op : BitVec 6) : RawC :=
  ⟨op, o.x.isSome, o.b.isNone, o.d, o.a, o.b.getD 0, 0#5 ++ bit1 o.sp ++ bit1 o.sx ++ o.z, o.x.getD 0⟩
def CeDld.toRaw (o : CeDld) (op : BitVec 6) : RawC :=
  ⟨op, o.x.isSome, o.b.isNone, 0#2 ++ o.k, o.a, o.b.getD 0, 0#5 ++ bit1 o.sp ++ 0#3, o.x.getD 0⟩

/-- The fields of a copy command (R275-R290); none for another instruction. -/
def Instr.ce? : Instr → Option RawC
  | .ceAdd o => some (o.toRaw 1#6) | .ceAddImm o => some (o.toRaw 1#6)
  | .ceAddExt o => some (o.toRaw 1#6)
  | .ceSub o => some (o.toRaw 2#6) | .ceSubImm o => some (o.toRaw 2#6)
  | .ceSubExt o => some (o.toRaw 2#6)
  | .ceMul o => some (o.toRaw 3#6) | .ceMulImm o => some (o.toRaw 3#6)
  | .ceMulExt o => some (o.toRaw 3#6)
  | .ceAnd o => some (o.toRaw 4#6) | .ceAndImm o => some (o.toRaw 4#6)
  | .ceAndExt o => some (o.toRaw 4#6)
  | .ceOr o => some (o.toRaw 5#6) | .ceOrImm o => some (o.toRaw 5#6)
  | .ceOrExt o => some (o.toRaw 5#6)
  | .ceXor o => some (o.toRaw 6#6) | .ceXorImm o => some (o.toRaw 6#6)
  | .ceXorExt o => some (o.toRaw 6#6)
  | .ceShl o => some (o.toRaw 7#6) | .ceShlImm o => some (o.toRaw 7#6)
  | .ceShlExt o => some (o.toRaw 7#6)
  | .ceShr o => some (o.toRaw 8#6) | .ceShrImm o => some (o.toRaw 8#6)
  | .ceShrExt o => some (o.toRaw 8#6)
  | .ceSar o => some (o.toRaw 9#6) | .ceSarImm o => some (o.toRaw 9#6)
  | .ceSarExt o => some (o.toRaw 9#6)
  | .ceMin o => some (o.toRaw 10#6) | .ceMinImm o => some (o.toRaw 10#6)
  | .ceMinExt o => some (o.toRaw 10#6)
  | .ceMax o => some (o.toRaw 11#6) | .ceMaxImm o => some (o.toRaw 11#6)
  | .ceMaxExt o => some (o.toRaw 11#6)
  | .beq o => some (o.toRaw 16#6 false) | .beqImm o => some (o.toRaw 16#6 true)
  | .beqExt o => some (o.toRaw 16#6)
  | .bne o => some (o.toRaw 17#6 false) | .bneImm o => some (o.toRaw 17#6 true)
  | .bneExt o => some (o.toRaw 17#6)
  | .blt o => some (o.toRaw 18#6 false) | .bltImm o => some (o.toRaw 18#6 true)
  | .bltExt o => some (o.toRaw 18#6)
  | .bge o => some (o.toRaw 19#6 false) | .bgeImm o => some (o.toRaw 19#6 true)
  | .bgeExt o => some (o.toRaw 19#6)
  | .bltu o => some (o.toRaw 20#6 false) | .bltuImm o => some (o.toRaw 20#6 true)
  | .bltuExt o => some (o.toRaw 20#6)
  | .bgeu o => some (o.toRaw 21#6 false) | .bgeuImm o => some (o.toRaw 21#6 true)
  | .bgeuExt o => some (o.toRaw 21#6)
  | .li d i => some ⟨12#6, false, true, d, 0, 0, i, 0⟩
  | .liExt d x => some ⟨12#6, true, true, d, 0, 0, 0, x⟩
  | .lih d x => some ⟨13#6, true, true, d, 0, 0, 0, x⟩
  | .getl d k => some (rawC0 14#6 d (0#3 ++ k) 0 0)
  | .jmp off => some (rawC0 22#6 (off.extractLsb' 0 5) 0 0 (off.extractLsb' 5 9))
  | .jmpExt x => some ⟨22#6, true, false, 0, 0, 0, 0, x⟩
  | .loop k a i => some (rawC0 23#6 (0#3 ++ k) a 0 i)
  | .loopImm k x i => some ⟨23#6, true, true, 0#3 ++ k, 0, 0, i, x⟩
  | .endl k i => some (rawC0 24#6 (0#3 ++ k) 0 0 i)
  | .ld o => some (o.toRaw 32#6) | .ldBase o => some (o.toRaw 32#6) | .ldDisp o => some (o.toRaw 32#6)
  | .st o => some (o.toRaw 33#6) | .stBase o => some (o.toRaw 33#6) | .stDisp o => some (o.toRaw 33#6)
  | .dld o => some (o.toRaw 34#6) | .dldBase o => some (o.toRaw 34#6)
  | .dldDisp o => some (o.toRaw 34#6)
  | .dset k f a => some (rawC0 35#6 (0#2 ++ k) a 0 (0#4 ++ f))
  | .dsetExt k f x => some ⟨35#6, true, true, 0#2 ++ k, 0, 0, 0#4 ++ f, x⟩
  | .addr d a k chk => some (rawC0 36#6 d a (0#2 ++ k) (0#8 ++ bit1 chk))
  | .xfer a sp => some (rawC0 37#6 0 a 0 (0#5 ++ bit1 sp ++ 0#3))
  | .gsub a sc => some (rawC0 38#6 0 a 0 (0#8 ++ bit1 sc))
  | .waitx o => some (o.toRaw 48#6)
  | .waitxCur d a => some (rawC0 48#6 d a 0 1)
  | .arrive d a => some (rawC0 49#6 d a 0 0)
  | .arriveN o => some (rawC0 49#6 o.d o.a o.b 1)
  | .sig a b => some (rawC0 50#6 0 a b 0)
  | .ceFence => some (rawC0 51#6 0 0 0 0)
  | .halt => some (rawC0 52#6 0 0 0 0)
  | .nop => some (rawC0 53#6 0 0 0 0)
  | _ => none

/-- The command word and the extension word of a copy command (0 when there is none). -/
def encodeCe (i : Instr) : Option (BitVec 32 × BitVec 32) := i.ce?.map (fun r => (r.word0, r.ext))

/-! ## The table's words -/

/-- What the decoder reads from an instruction whose bits are `w`: with at most 32 bits given, a
copy command whose extension word is bits 63 to 32; else a wave instruction, in a wave of 256
registers and 64 lanes at user privilege, or, for an opcode that user privilege may not issue, in
the handlers. -/
def decodeTableWord (nbits w : Nat) : Option Instr :=
  if nbits ≤ 32 then
    match decodeCe (BitVec.ofNat 32 w) (BitVec.ofNat 32 (w / 2 ^ 32)) with
    | .ok i => some i
    | _ => none
  else
    let r := rawOf (BitVec.ofNat 64 w) (BitVec.ofNat 64 (w / 2 ^ 64))
    (DecodeCtx.widest.findSome? (fun cx => match decodeRaw cx r with
      | .ok i => some i
      | .error _ => none))

end Sys2Proof
end

