-- ==== Sys2Proof/Machine/Levels.lean ====
section
/-! DEFINITION. Counters of launches, graphs, phases and jobs (R13, R331, R332), the completion words they
write (R330), and the event ring (R374, R383, R388). -/

namespace Sys2Proof.Machine

/-- A level of a context. -/
def State.level? (s : State) (ctx id : Nat) : Option Level :=
  (s.ctxs.find ctx).bind (fun c => c.levels.find id)

/-- Change a level, if it exists. -/
def State.modLevel (s : State) (ctx id : Nat) (f : Level → Level) : State :=
  s.modCtx ctx (fun c => match c.levels.find id with
    | some l => { c with levels := c.levels.put id (f l) }
    | none => c)

/-- What a level reports (R330): 7 after a die loss, 1 when a launch within it was cancelled, else the
refusal of the record that ends it. -/
def Level.status (l : Level) : Nat := if l.lost then 7 else if l.cancelled then 1 else l.refused

/-- The observer that the front end of a context's device is: the serving I/O die (R338). -/
def State.frontObs (s : State) (ctx dev : Nat) : Obs :=
  ⟨ctx, dieMask (s.devDies ctx dev), 4 + s.servingIo ctx dev, none, none⟩

/-- The dies of a context's partition. -/
def State.partOf (s : State) (ctx : Nat) : List Nat :=
  match s.ctxs.find ctx with
  | some c => partDies s.pkg.cur c.part
  | none => []

/-! ## The event ring (R374, R383) -/

/-- A record's 128 bytes. A header field that the record's kind gives no value is free. -/
def Event.bytes (e : Event) (x y : W64) : List Byte :=
  let unit := e.kind = 1 || e.kind = 2
  let token := if e.kind = 1 then e.token % 2 ^ 32 else fld x.toNat 0 32
  let launch := if unit || e.kind = 3 then e.launch else y.toNat
  let gang := if unit || e.kind = 3 then e.gangId % 2 ^ 32 else fld x.toNat 32 32
  let wg := if unit || e.kind = 3 then e.gangWg % 2 ^ 8 else fld x.toNat 0 8
  let slot := if e.kind = 1 then e.slot % 2 ^ 8 else fld x.toNat 8 8
  let head := bytesOf 32 (e.kind + token * 2 ^ 32 + launch % 2 ^ 64 * 2 ^ 64 + gang * 2 ^ 128
    + wg * 2 ^ 160 + slot * 2 ^ 168)
  head ++ (e.payload ++ rep 96 0#8).take 96

/-- Write the oldest waiting record of a context, as a host-visible release, once its ring has room and
memory to lie in; then the MSI-X message, through an I/O die whose link is up (R374, R383, R389). The
islands on the way are the step's to wait for (`whenOn`, R399). -/
def State.eventWrite (s : State) (ctx : Nat) : Option State :=
  match s.ctxs.find ctx with
  | none => none
  | some c => match c.events with
    | [] => none
    | e :: t =>
      let r := c.regs
      let n := 2 ^ r.evLog.toNat
      let pa := r.evBase.toNat + 128 * (r.evTail.toNat % n)
      if r.evBase = 0 || decide (n ≤ (r.evTail - r.evHead).toNat) then none
      else
        let fn := if r.evVec.getLsbD 11 then 1 else 0
        let s1 := (((s.fullRelease (s.partOf ctx)).tick.tick.physWrite (dieMask (s.devDies ctx 0)) pa
          (e.bytes (Config.freeWord s.free) (Config.freeWord (s.free + 1))))).modCtx ctx (fun x => { x with
            events := t, regs := { x.regs with evTail := x.regs.evTail + 1 } })
        some (if r.evEn && s.hostLink fn then { s1 with
          outbox := s1.outbox ++ [.msix fn (r.evVec.toNat % 2048)] } else s1)

/-- Write the waiting records of a context that can be written: a completion word, CSTAT and the effect of a
cancel follow the records of the events before them (R388; a ring without room delays its records alone, log
112). -/
def State.flushEvents (s : State) (ctx : Nat) : State :=
  (List.range (((s.ctxs.find ctx).map (·.events.length)).getD 0)).foldl
    (fun (x : State) _ => (x.eventWrite ctx).getD x) s

/-! ## Completion -/

/-- The host-visible release of a counter's completion, on every die of the device: buffered stores of
waves that a cancel discarded reach memory too (R119, R332, R377). -/
def State.levelRelease (s : State) (ctx dev : Nat) : State := s.fullRelease (s.devDies ctx dev)

/-- The 16 bytes of a completion word (R330). -/
def wordBytes (id level status cause : Nat) : List Byte :=
  bytesOf 16 (id + level * 2 ^ 64 + status * 2 ^ 72 + cause * 2 ^ 80)

/-- Write a completion word at DONE, after the records of earlier events (R388); where it cannot be written,
post an event record of kind 6, which a context with no ring loses (R330, R374). -/
def State.writeWord (s0 : State) (ctx dev : Nat) (done : W64) (id level status cause : Nat) : State :=
  let s := s0.flushEvents ctx
  let bs := wordBytes id level status cause
  let r : State × Option Nat :=
    if done.toNat % 16 != 0 then (s, some 0)
    else match s.writeG (s.frontObs ctx dev) .engine true done.toNat bs with
      | (s1, some e) => (s1, some e.cause)
      | (s1, none) => (s1, none)
  match r with
  | (s1, none) => s1
  | (s1, some c) =>
    if ((s1.ctxs.find ctx).map (fun x => x.regs.evBase)).getD 0 = 0 then s1
    else s1.post ctx ⟨6, 0, id, 0, 0, 0, bs ++ bytesOf 8 done.toNat ++ bytesOf 2 c⟩

/-- The word of a complete level, if the record that ended it asked for one; CAUSE is that of a copy fault with
STATUS 8, and else zero (R330). -/
def State.levelWord (s : State) (ctx id : Nat) (l : Level) : State :=
  match l.done with
  | some d => s.writeWord ctx l.dev d id l.level l.status (if l.status = 8 then l.cause else 0)
  | none => s

/-- One part of a level is complete. -/
def Level.part (l : Level) (p : Level) : Level :=
  if p.complete then p
  else { p with open_ := p.open_ - 1, cancelled := p.cancelled || l.cancelled }

/-- Complete a level that has been ended and has no part left, and then, in turn, the levels above it
(R332). -/
def State.settleLevel (s : State) (ctx : Nat) : Nat → Nat → State
  | 0, _ => s
  | n + 1, id =>
    match s.level? ctx id with
    | none => s
    | some l =>
      if l.complete || l.open_ != 0 || !l.ended then s
      else
        let s1 := (s.levelRelease ctx l.dev).modLevel ctx id (fun x => { x with complete := true })
        ((s1.levelWord ctx id l).modLevel ctx l.parent l.part).settleLevel ctx n l.parent

/-- Settle a level and those above it: a launch, a graph, a phase and a job at most. -/
def State.settle (s : State) (ctx id : Nat) : State := s.settleLevel ctx 4 id

/-- A launch or COPY completes with a status and cause: its entry leaves the windows, and its counter
completes (R332, R338). -/
def State.launchDone (s : State) (ctx id status cause : Nat) : State :=
  let s1 : State := { s with entries := s.entries.filter (fun e => !(e.ctx = ctx && e.id = id)) }
  (s1.modLevel ctx id (fun l => { l with open_ := 0, ended := true, refused := status, cause := cause })).settle
    ctx id

end Sys2Proof.Machine
end

