-- ==== Sys2Proof/Machine/QueueBar.lean ====
section
/-! DEFINITION. Named queues and barrier objects as the waves use them (R205-R219): `QBIND`, `QPUSH`,
`QPOP`, `QTRY`, `QSTAT`, `BAR.INIT`, `BAR.ARR`, `BAR.WAIT`, `BAR.EXP`. -/

namespace Sys2Proof.Machine

/-- The low 32 bits of a G register, as a scratch offset (R206). -/
def Wave.off32 (w : Wave) (r : Nat) : Nat := (w.greg r).toNat % 2 ^ 32

/-- Run a group-wide meaning with the wave's gang. -/
def onGang (s : State) (o : WOp) (name : String) (f : Nat → Wave → Gang → Out) : Out :=
  onGroup s o (fun k w => match s.gangs.find w.gang with
    | some g => f k w g
    | none => .refused (.notEnabled name))

/-! ## Queues (R208-R212) -/

/-- A header operand of `QBIND.init`: capacity, entry size and allowance, when it is legal (R209). -/
def bindOperand (v : Nat) : Option (Nat × Nat × Nat) :=
  let cap := fld v 0 16
  let allow := if fld v 32 16 = 0 then cap else fld v 32 16
  if capOk cap && decide (allow ≤ cap) && fld v 17 15 = 0 && fld v 48 16 = 0
    then some (cap, fld v 16 1, allow) else none

/-- Bind a queue register to a header (R209). -/
def Wave.setQ (w : Wave) (q off : Nat) : Wave :=
  { w with regs := { w.regs with q := w.regs.q.put q (BitVec.ofNat 32 off) } }

def execQbind (o : WOp) (s : State) : Out :=
  onGang s o "QBIND" (fun k w g =>
    let off := w.off32 o.a.toNat
    if off % 32 = 0 && g.inBounds off 32 then .next (s.retire k (w.setQ o.d.toNat off) o.len)
    else illegalField s k w 32)

/-- Must an instruction on the queue at an offset wait for an earlier scratch access of the wave: its
header, and the entry area that the header names (R108, R237)? -/
def State.queBusy (s : State) (k : Nat) (g : Gang) (off : Nat) : Bool :=
  s.scrBusy k off (32 + (g.que off).cap * (g.que off).ebytes)

def execQbindInit (o : WOp) (s : State) : Out :=
  onGang s o "QBIND" (fun k w g =>
    let off := w.off32 o.a.toNat
    if !(off % 32 = 0 && g.inBounds off 32) then illegalField s k w 32
    else match bindOperand (w.greg o.b.toNat).toNat with
      | none => illegalField s k w 40
      | some (cap, esz, allow) =>
        let q : Que := { g.que off with head := 0, tail := 0, cap := cap, esz := esz, rsv0 := 0,
                                        allow := allow, rsv1 := 0 }
        if !g.inBounds off (32 + cap * q.ebytes) then illegalField s k w 32
        else if s.redgBusy k || s.queBusy k g off then stall s
        else
          let s1 := (s.setGang w.gang (g.setQue off q)).retire k (w.setQ o.d.toNat off) o.len
          .next (s1.qretry w.gang off))

/-- The header that a queue register names, when the register is bound and the header can be used
(R206, R209). -/
def Wave.queue (w : Wave) (g : Gang) (q : Nat) (sz : Option Nat) : Option Nat :=
  match w.regs.q.find q with
  | some off => if g.queOk off.toNat sz then some off.toNat else none
  | none => none

/-- Does the queue that a queue register names wait for an earlier access of the wave? -/
def State.queueBusy (s : State) (k : Nat) (w : Wave) (g : Gang) (q : Nat) : Bool :=
  (w.regs.q.find q).any (fun off => s.queBusy k g off.toNat)

/-- Run a queue instruction on the header of Q[B], whose entry size is the instruction's SZ. -/
def onQueue (s : State) (o : WOp) (name : String) (sized : Bool)
    (f : Nat → Wave → Gang → Nat → Out) : Out :=
  onWave s (fun k w =>
    if o.grp && !w.guardGrp o.guard then .next (s.retire k w o.len)
    else match s.gangs.find w.gang with
      | none => .refused (.notEnabled name)
      | some g =>
        if s.queueBusy k w g o.b.toNat then stall s
        else match w.queue g o.b.toNat (if sized then some (o.m.toNat % 2) else none) with
          | none => illegalField s k w 40
          | some off => f k w g off)

/-- Can n entries never be moved (R210)? -/
def Que.never (q : Que) (n : Nat) : Bool := decide (q.allow + q.count < n)

def execQpush (o : WOp) (s : State) : Out :=
  onQueue s o "QPUSH" true (fun k w g off =>
    let es := w.qsources o
    let q := g.que off
    if q.never es.length then illegalField s k w 40
    else if s.relBusy k then stall s
    else
      let s1 := s.releasePoint k w false
      if es = [] then .next (s1.retire k w o.len)
      else if es.length ≤ q.allow && (s.qblocked w.gang off true).isEmpty then
        let s2 := (s1.setGang w.gang (g.pushEntries off es)).retire k w o.len
        .next (s2.qretry w.gang off)
      else
        let s2 := s1.setGang w.gang (g.markWait off true w.qbit true)
        .next (s2.waitOn k w .push off 0 (.qpush o)))

def execQpop (o : WOp) (s : State) : Out :=
  onQueue s o "QPOP" true (fun k w g off =>
    let n := w.qcount o
    let q := g.que off
    if q.never n then illegalField s k w 40
    else if s.redgBusy k then stall s
    else if n = 0 then .next (s.retire k w o.len)
    else if n ≤ q.count && (s.qblocked w.gang off false).isEmpty then
      let s1 := (s.setGang w.gang (g.dropEntries off n)).acquirePoint k w
      .next ((s1.retire k (w.qdeliver o (g.peekEntries off n)) o.len).qretry w.gang off)
    else
      let s1 := s.setGang w.gang (g.markWait off false w.qbit true)
      .next (s1.waitOn k w .pop off 0 (.qpop o)))

/-- Write the answer of `QTRY` (R211). -/
def Wave.qtryPred (w : Wave) (o : WOp) (b : Bool) : Wave :=
  (w.cells o).foldl (fun (x : Wave) c => x.setPred c o.c.toNat b) w

def execQtry (o : WOp) (s : State) : Out :=
  onQueue s o "QTRY" true (fun k w g off =>
    let n := w.qcount o
    let q := g.que off
    if q.never n then illegalField s k w 40
    else if s.redgBusy k then stall s
    else if n = 0 then .next (s.retire k (w.qtryPred o true) o.len)
    else if n ≤ q.count && (s.qblocked w.gang off false).isEmpty then
      let s1 := (s.setGang w.gang (g.dropEntries off n)).acquirePoint k w
      let w1 := (w.qdeliver o (g.peekEntries off n)).qtryPred o true
      .next ((s1.retire k w1 o.len).qretry w.gang off)
    else .next (s.retire k (w.qtryPred o false) o.len))

def execQstat (o : WOp) (s : State) : Out :=
  onQueue s o "QSTAT" false (fun k w g off =>
    let q := g.que off
    if s.redgBusy k then stall s else
    let v := q.count + q.allow * 2 ^ 32 + q.esz * 2 ^ 48 + Nat.log2 q.cap * 2 ^ 56
    .next (s.retire k (w.setG o.d.toNat (BitVec.ofNat 64 v)) o.len))

/-! ## Barriers (R214-R219) -/

/-- The object of a barrier instruction passes the checks of R206: its place, its reserved fields, and
an EXPECT of at least 1 (R214, R218). -/
def Gang.barFull (g : Gang) (off : Nat) : Bool := g.waitable off && (g.bar off).expect != 0

/-- The operand of `BAR.INIT` and `BAR.EXP`: word 1, or G[B]. -/
def Wave.barVal (w : Wave) (o : WOp) : Nat :=
  match o.ext with
  | some x => x.toNat
  | none => (w.greg o.b.toNat).toNat

/-- ILLEGAL for the value of that operand: the G register, or the whole of word 1 (R137; log 134). -/
def illegalVal (s : State) (k : Nat) (w : Wave) (o : WOp) : Out :=
  if o.ext.isSome then illegalOp s k w 64 127 else illegalField s k w 40

def execBarInit (o : WOp) (s : State) : Out :=
  onGang s o "BAR_INIT" (fun k w g =>
    let off := w.off32 o.a.toNat
    let v := w.barVal o
    if !g.barOk off then illegalField s k w 32
    else if v = 0 ∨ 2 ^ 16 ≤ v then illegalVal s k w o
    else if s.redgBusy k || s.scrBusy k off 16 then stall s
    else
      let b : Bar := ⟨0, v, v, 0, 0, 0, 0, 0⟩
      let g1 : Gang := { g.setBar off b with bars := nubNat (off :: g.bars) }
      let s1 := (s.setGang w.gang g1).retire k w o.len
      .next (s1.wakeOn w.gang off (fun _ => true) 0x40))

def execBarArr (o : WOp) (s : State) : Out :=
  onGang s o "BAR_ARR" (fun k w g =>
    let off := w.off32 o.a.toNat
    let c := if o.m = 1 then (w.greg o.b.toNat).toNat % 2 ^ 16 else 1
    if !g.barOk off then illegalField s k w 32
    else if s.relBusy k then stall s
    else if !g.barFull off then illegalField s k w 32
    else if c = 0 then illegalField s k w 40
    else
      let b := g.bar off
      let s1 := (s.releasePoint k w false).retire k (w.setG o.d.toNat (BitVec.ofNat 64 b.gen)) o.len
      .next (s1.putBar w.gang off (b.arrive c) true))

def execBarWait (o : WOp) (s : State) : Out :=
  onGang s o "BAR_WAIT" (fun k w g =>
    let off := w.off32 o.a.toNat
    if !g.barOk off then illegalField s k w 32
    else if s.redgBusy k || s.scrBusy k off 16 then stall s
    else if !g.waitable off then illegalField s k w 32
    else
      let b := g.bar off
      let t := if o.m = 1 then b.gen else (w.greg o.b.toNat).toNat % 16
      if b.err != 0 then
        .next ((s.acquirePoint k w).retire k (w.setG o.d.toNat (BitVec.ofNat 64 b.err)) o.len)
      else if b.gen != t then
        .next ((s.acquirePoint k w).retire k (w.setG o.d.toNat 0) o.len)
      else .next (s.waitOn k w .barrier off t (.barWait o)))

/-- `BAR.EXP` (R219): the object with v added to the field that M names, or OVER. -/
def Bar.expect' (b : Bar) (m v : Nat) : Bar :=
  match m with
  | 0 => if 2 ^ 24 ≤ b.inn + v then b.setErr errOver else { b with inn := b.inn + v }
  | 1 => if 2 ^ 24 ≤ b.out + v then b.setErr errOver else { b with out := b.out + v }
  | _ => if 2 ^ 16 ≤ b.pend + v then b.setErr errOver else { b with pend := b.pend + v }

def execBarExp (o : WOp) (s : State) : Out :=
  onGang s o "BAR_EXP" (fun k w g =>
    let off := w.off32 o.a.toNat
    let v := w.barVal o
    if !g.barOk off then illegalField s k w 32
    else if s.redgBusy k || s.scrBusy k off 16 then stall s
    else if !g.barFull off then illegalField s k w 32
    else if (if o.m = 2 then 2 ^ 16 else 2 ^ 24) ≤ v then illegalVal s k w o
    else
      .next ((s.retire k w o.len).putBar w.gang off ((g.bar off).expect' o.m.toNat v) false))

end Sys2Proof.Machine
end

