-- ==== Sys2Proof/Machine/Tensor.lean ====
section
/-! DEFINITION. Tensor descriptors and the addresses of elements (R87-R89), and an in-flight transfer's
granules (R285, R288, R291). -/

namespace Sys2Proof.Machine

/-! ## Descriptors (R87, R88) -/

/-- A tensor descriptor's fields. -/
structure TDesc where
  base : Nat
  idx : Nat
  ext : List Nat
  str : List Int
  fmt : Nat
  rank : Nat
  ind : Nat
  iw : Nat
  deriving DecidableEq, Repr, Inhabited

/-- The fields of a 512-bit descriptor; the stride of dimension 0 is 1. -/
def TDesc.ofNat (x : Nat) : TDesc where
  base := fld x 0 64
  idx := fld x 64 64
  ext := (List.range 6).map (fun d => fld x (128 + 32 * d) 32)
  str := 1 :: (List.range 5).map (fun d => sgnN (fld x (320 + 36 * d) 36) 36)
  fmt := fld x 500 4
  rank := fld x 504 3
  ind := fld x 507 3
  iw := fld x 510 2

def TDesc.extent (t : TDesc) (d : Nat) : Nat := nth t.ext d 0
def TDesc.stride (t : TDesc) (d : Nat) : Int := nth t.str d 0
/-- Bits of an element. -/
def TDesc.bits (t : TDesc) : Nat := fmtW t.fmt
/-- Bytes of an index entry. -/
def TDesc.ibytes (t : TDesc) : Nat := 2 * 2 ^ t.iw

/-- R88: is the descriptor valid? -/
def TDesc.valid (t : TDesc) : Bool :=
  decide (1 ≤ t.rank) && decide (t.rank ≤ 6) && decide (t.fmt ≤ 12) && t.base % 16 = 0
    && t.extent 0 * t.bits % 128 = 0
    && (List.range 6).all (fun d => decide (d < t.rank) || (t.extent d = 0 && t.stride d = 0))
    && (if t.ind = 0 then t.idx = 0 && t.iw = 0
        else decide (t.ind < t.rank) && t.iw != 3)
    && (t.fmt != 0 || (List.range 5).all (fun d => t.stride (d + 1) % 2 = 0))

/-! ## Element addresses (R89) -/

/-- The address of the index entry that a coordinate selects. -/
def TDesc.idxAddr (t : TDesc) (c : Nat) : Nat := (t.idx + c * t.ibytes) % 2 ^ 64

/-- The element number of coordinates, given the index entry's value. -/
def TDesc.elemNo (t : TDesc) (cs : List Nat) (j : Nat) : Int :=
  (List.range t.rank).foldl (fun (e : Int) d =>
    e + (if d != 0 && d = t.ind then (j : Int) else ((nth cs d 0 : Nat) : Int)) * t.stride d) 0

/-- The byte address of an element, and for INT4S whether it is the high nibble. -/
def TDesc.addrOf (t : TDesc) (e : Int) : Nat × Bool :=
  if t.fmt = 0 then ((((t.base : Int) + e / 2) % 2 ^ 64).toNat, e % 2 = 1)
  else ((((t.base : Int) + e * (t.bits / 8 : Nat)) % 2 ^ 64).toNat, false)

/-- Bytes that an element's access touches. -/
def TDesc.ebytes (t : TDesc) : Nat := if t.fmt = 0 then 1 else t.bits / 8

/-! ## Command blocks (R283) -/

def xSD (b : Nat) : Nat := fld b 0 3
def xSSP (b : Nat) : Bool := bitN b 3
def xDD (b : Nat) : Nat := fld b 4 3
def xDSP (b : Nat) : Bool := bitN b 7
def xTR (b : Nat) : Bool := bitN b 8
def xSC (b : Nat) : Bool := bitN b 9
def xSAT (b : Nat) : Bool := bitN b 10
def xEDGE (b : Nat) : Nat := fld b 11 2
def xCNT (b : Nat) : Bool := bitN b 13
def xNC (b : Nat) : Bool := bitN b 14
def xCMPB (b : Nat) : Bool := bitN b 15
def xRND (b : Nat) : Nat := fld b 16 2
def xBSP (b : Nat) : Bool := bitN b 18
def xScale (b : Nat) : Nat := fld b 32 32
def xBG (b : Nat) : Nat := fld b 64 64
def xSorg (b d : Nat) : Int := sgnN (fld b (128 + 32 * d) 32) 32
def xBox (b d : Nat) : Nat := fld b (320 + 32 * d) 32
def xDorg (b d : Nat) : Nat := fld b (512 + 32 * d) 32
def xBar (b : Nat) : Nat := fld b 704 32
def xBmap (b : Nat) : Nat := fld b 768 64

/-- Box elements. -/
def xCount (b rank : Nat) : Nat := (List.range rank).foldl (fun n d => n * xBox b d) 1

/-- The box coordinate of a linear number, dimension 0 fastest: n dimensions from d on. -/
def xCoord (b : Nat) : Nat → Nat → Nat → List Nat
  | 0, _, _ => []
  | n + 1, d, j => (j % xBox b d) :: xCoord b n (d + 1) (j / xBox b d)

/-- Swap dimensions 0 and 1 (R285). -/
def swap01 : List Nat → List Nat
  | a :: c :: t => c :: a :: t
  | l => l

/-- The destination coordinate of a box coordinate (R285). -/
def xDst (b : Nat) (cs : List Nat) : List Nat :=
  ((if xTR b then swap01 cs else cs).zipIdx).map (fun p => xDorg b p.2 + p.1)

/-- The source coordinate of a box coordinate, or none for zero fill or background (R285). -/
def xSrc (b : Nat) (t : TDesc) (cs : List Nat) : Option (List Nat) :=
  let ss := (cs.zipIdx).map (fun p => xSorg b p.2 + (p.1 : Int))
  let inside := (ss.zipIdx).all (fun p => decide (0 ≤ p.1) && decide (p.1 < t.extent p.2))
  if inside then some (ss.map Int.toNat)
  else if xEDGE b = 2 then
    if (List.range t.rank).any (fun d => t.extent d = 0) then none
    else some ((ss.zipIdx).map (fun p => (clampInt 0 ((t.extent p.2 : Int) - 1) p.1).toNat))
  else none

/-! ## Granules of transfers in flight (R291) -/

/-- The observer that a program is. -/
def State.progObs (s : State) (e : Nat) (p : Prog) : Obs := s.jobObs p.owner (engineDie e)

/-- The gang of a program. -/
def State.progGang (s : State) (p : Prog) : Option Gang := p.owner.gang.bind (fun n => s.gangs.find n)

/-- A granule: its space and its number. -/
abbrev Gran := Bool × Nat

/-- A scratch address is its low 32 bits, a global address is modulo 2^64 (R89): R280 says so of a scalar
access, and R283 names no check on the high bits of a block's scratch addresses (log 121). -/
def spAddr (sp : Bool) (a : Nat) : Nat := if sp then a % 2 ^ 32 else a % 2 ^ 64

/-- The granules of a range of bytes. -/
def granules (sp : Bool) (a n : Nat) : List Gran :=
  if n = 0 then [] else (List.range ((a + n - 1) / 16 + 1 - a / 16)).map (fun i => (sp, a / 16 + i))

/-- The granules that a transfer has yet to write. A faulted transfer, which a resume goes on with, holds
them too. -/
def Xfer.writes (x : Xfer) : List Gran := x.todo.map (fun q => (q.sp, q.sec))

/-- The box elements that a transfer has yet to read: those of its remaining sectors, or all of a
compressing transfer's until its packed bytes are formed. -/
def Xfer.pending (x : Xfer) : List Nat :=
  if xCMPB x.block.toNat then
    (if x.packed.isSome then []
     else List.range (xCount x.block.toNat (TDesc.ofNat x.src.toNat).rank))
  else x.todo.flatMap (·.elems)

/-- The granules of the destination index entries of elements (R285). -/
def xDstIdx (b : Nat) (d : TDesc) (js : List Nat) : List Gran :=
  if d.ind = 0 || xCMPB b then []
  else js.flatMap (fun j => granules (xDSP b)
    (spAddr (xDSP b) (d.idxAddr (nth (xDst b (xCoord b d.rank 0 j)) d.ind 0))) d.ibytes)

/-- The granules that a transfer has yet to read: the source elements that it has yet to read, and the
index entries on both sides; `ix` gives the value of a source's. -/
def Xfer.reads (x : Xfer) (ix : Bool → Nat → Nat → Nat) : List Gran :=
  let b := x.block.toNat
  let t := TDesc.ofNat x.src.toNat
  x.pending.flatMap (fun j =>
    match xSrc b t (xCoord b t.rank 0 j) with
    | none => []
    | some cs =>
      let ia := t.idxAddr (nth cs t.ind 0)
      let jx := if t.ind = 0 then 0 else ix (xSSP b) ia t.ibytes
      (if t.ind = 0 then [] else granules (xSSP b) (spAddr (xSSP b) ia) t.ibytes)
        ++ granules (xSSP b) (spAddr (xSSP b) (t.addrOf (t.elemNo cs jx)).1) t.ebytes)
    ++ xDstIdx b (TDesc.ofNat x.dst.toNat) x.pending

/-- The value of an index entry as it stands, to find what a transfer will read. -/
def State.peekIdx (s : State) (e : Nat) (p : Prog) (sp : Bool) (a n : Nat) : Nat :=
  if sp then ((s.progGang p).map (fun g => g.scrNat (spAddr true a) n)).getD 0
  else match (s.span (s.progObs e p) none .read a n).2 with
    | .ok ps => natOf (s.readPieces (s.progObs e p) .engine ps).2
    | .error _ => 0

/-- Must an access of the program wait for a transfer in flight (R291)? -/
def State.xferHolds (s : State) (e : Nat) (p : Prog) (wr : Bool) (gs : List Gran) : Bool :=
  p.xfers.any (fun x => gs.any (fun g => x.writes.contains g
    || (wr && (x.reads (s.peekIdx e p)).contains g)))

/-- The line of the bytes at a VA that an access writes, by VA ÷ 128 and PA ÷ 128. -/
def State.lineOf (s : State) (o : Obs) (va : Nat) : List (Nat × Nat) :=
  match (s.span o none .write va 16).2 with
  | .ok (x :: _) => [(va / 128, x.pa / 128)]
  | _ => []

/-- Does an island on the way to some granules not perform (R399)? -/
def State.granOff (s : State) (e : Nat) (p : Prog) (gs : List Gran) : Bool :=
  !s.slicesOn (s.progObs e p) ((gs.filter (fun g => !g.1)).map (fun g => (g.2 * 16, 16)))

/-- Do transfers before it hold a sector of a transfer (R291)? -/
def State.heldSector (s : State) (e : Nat) (p : Prog) (before : List Xfer) (x : Xfer) (q : XSector) :
    Bool :=
  let b : Prog := { p with xfers := before }
  s.xferHolds e b true [(q.sp, q.sec)]
    || s.xferHolds e b false (({ x with todo := [q] } : Xfer).reads (s.peekIdx e p))

/-- Does an earlier transfer of the program hold a sector of a later one (R291)? -/
def State.xHeld (s : State) (e : Nat) (p : Prog) (i : Nat) (x : Xfer) (q : XSector) : Bool :=
  s.heldSector e p (p.xfers.take i) x q

/-- Which transfers of a program perform no more until a fault is answered: the faulted ones, and those
whose every sector waits behind one of them. -/
def State.xStuck (s : State) (e : Nat) (p : Prog) : List Bool :=
  (p.xfers.zipIdx).foldl (fun (acc : List Bool) q =>
    let before := ((p.xfers.take q.2).zip acc).filterMap (fun z => if z.2 then some z.1 else none)
    acc ++ [q.1.faulted || (!before.isEmpty && q.1.todo.all (s.heldSector e p before q.1))]) []

end Sys2Proof.Machine
end

