-- ==== Sys2Proof/Machine/Engine.lean ====
section
/-! DEFINITION. Copy engines (R220-R222, R272-R275, R291-R297): starting and waiting for a program, the
issue of its commands, its accesses and their checks, and its faults. -/

namespace Sys2Proof.Machine

/-! ## Waiting for a program (R222) -/

/-- The handle of a program (R221): its slot, workgroup and sequence number. -/
def handleOf (slot wg seq : Nat) : Nat := slot + wg * 2 ^ 8 + seq * 2 ^ 16

/-- What `CE.WAIT` reports of a program that no longer runs (R222). -/
def Prog.status (p : Prog) : Option Nat :=
  match p.st with
  | 3 => some (1 + (p.frec.toNat % 2 ^ 16) * 2 ^ 16)
  | 4 => some 0
  | 7 => some 2
  | _ => none

/-- Does a wave's handle name the program that an engine's slot started with a sequence number? A handle
names an engine by the workgroup of the waiting wave's own gang (R222). -/
def State.names (s : State) (w : Wave) (h e slot seq : Nat) : Bool :=
  (s.gangs.find w.gang).any (fun g => g.cores.contains e && h = handleOf slot (indexIn g.cores e) seq)

/-- End the copy waits on a program, of every gang on the core: an acquire point each (R45). -/
def State.wakeCopy (s : State) (e slot : Nat) (p : Prog) (status : Nat) : State :=
  (s.waiters (fun w x => x.kind = .copy && s.names w x.obj e slot p.seq)).foldl
    (fun (x : State) q => match q.2.wait.map Wait.insn with
      | some (.ceWait o) =>
        x.endWait q.1 (q.2.setG o.d.toNat (BitVec.ofNat 64 status)) (q.2.pc + 8) true
      | _ => x) s

/-- Is a program's slot free for another start (R221, R296)? -/
def Prog.isFree (p : Prog) : Bool := p.st = 0 || p.st = 4 || p.st = 7 || (p.st = 3 && p.discarded)

/-- The lowest free slot of an engine: R221 says a free slot, and not which (log 99). -/
def Engine.freeSlot (e : Engine) : Option Nat :=
  (List.range 8).find? (fun i => match e.slots.find i with
    | some p => p.isFree
    | none => true)

/-- A program leaves its slot: its footprint goes, and the waves that wait for a slot of its engine
re-issue (R43, R110). -/
def State.freeProg (s : State) (e job : Nat) : State :=
  (s.dropFp job).reissueAll (fun _ x => x.kind = .footprint && x.gen = 1 && x.obj = e)

/-! ## Starting a program (R220, R221, R272) -/

/-- The ranges of a footprint block, and whether its reserved bits are zero (R220). -/
def footprintOf (blk : Nat) : List Range × Bool :=
  ((List.range 4).map (fun j =>
      let x := blk / 2 ^ (128 * j)
      (⟨fld x 0 64, fld x 64 48, bitN x 112, bitN x 113⟩ : Range)),
    (List.range 4).all (fun j => fld (blk / 2 ^ (128 * j)) 114 14 = 0))

/-- Does every scratch range lie in the allocation? -/
def Gang.rangesOk (g : Gang) (rs : List Range) : Bool :=
  rs.all (fun r => r.len = 0 || !r.sp || g.inBounds r.base r.len)

/-- DBG.HOLD of a context (R372). -/
def State.holds (s : State) (ctx : Nat) (f : CtxRegs → Bool) : Bool :=
  ((s.ctxs.find ctx).map (fun c => f c.regs)).getD false

/-- A program as `CE.START`, or a COPY record, starts it (R272, R298). -/
def Prog.start (o : Owner) (held : Bool) (pc : W64) (es : List W64) (dbar : W32) (seq job : Nat)
    (lo : W64) (len : Nat) (fblock : BitVec 512) : Prog where
  st := if held then 6 else 1
  e := (es.zipIdx).foldl (fun (m : Map W64) p => m.set p.2 0 p.1) []
  d := []
  l := []
  cpc := pc
  dbar := dbar
  seq := seq
  frec := 0
  fbars := []
  fblock := fblock
  job := job
  ord := 0
  waitObj := 0
  waitGen := 0
  waitReg := 0
  lo := lo
  len := len
  owner := o
  xfers := []
  token := 0
  discarded := false

/-- The lowest register of CE.START's eight whose value fails a check of R220, if any; the ranges
otherwise. -/
def startCheck (w : Wave) (g : Gang) (a : Nat) : Except Nat (List Range) :=
  let bar := (w.greg (a + 5)).toNat
  let fp := (w.greg (a + 6)).toNat
  let blk := g.scrNat fp 64
  let ranges := if fp = 0xFFFFFFFF then [] else (footprintOf blk).1
  if (w.greg a).toNat % 4 != 0 then .error a
  else if 2 ^ 32 ≤ bar || (bar != 0xFFFFFFFF && !g.barOk bar) then .error (a + 5)
  else if 2 ^ 32 ≤ fp || (fp != 0xFFFFFFFF && !(fp % 16 = 0 && g.inBounds fp 64)) then .error (a + 6)
  else if fp != 0xFFFFFFFF && !((footprintOf blk).2 && g.rangesOk ranges) then .error (a + 6)
  else if w.greg (a + 7) != 0 then .error (a + 7)
  else .ok ranges

/-- Who starts a job at the wave's current segment (R114). -/
def State.ownerOf (s : State) (k : Nat) (w : Wave) (g : Gang) : Owner :=
  { ctx := g.ctx, dev := g.dev, gang := some w.gang, slot := some (k, (s.curseg.getD k 0).toNat),
    launch := g.launch }

/-- The registered job that holds the read of a 64-byte block of scratch by `CE.START`, `GTHR` or `SCTR`
(R110). -/
def State.blockHeld (s : State) (w : Wave) (off : Nat) : Option Nat := s.heldBy w.gang false true off 64

def execCeStart (o : WOp) (s : State) : Out :=
  onGang s o "CE_START" (fun k w g =>
    let a := o.a.toNat
    let c := slotCore k
    if s.relBusy k then stall s
    else match s.blockHeld w (w.greg (a + 6)).toNat with
    | some j => .next (s.waitOn k w .footprint j 0 (.ceStart o))
    | none => match startCheck w g a with
      | .error _ => illegalField s k w 32
      | .ok ranges => match (s.engine c).freeSlot with
        | none => .next (s.waitOn k w .footprint c 1 (.ceStart o))
        | some slot =>
          if !s.fpRoom c ranges then .next (s.waitOn k w .footprint c 2 (.ceStart o))
          else
            let s1 := s.releasePoint k w false
            let eng := s1.engine c
            let fp := (w.greg (a + 6)).toNat
            let kd := ((s1.entry? g.ctx g.launch).map (·.kd)).getD default
            let p := Prog.start (s1.ownerOf k w g) (s1.holds g.ctx (·.holdCe)) (w.greg a)
              ((List.range 4).map (fun i => w.greg (a + 1 + i)))
              ((w.greg (a + 5)).extractLsb' 0 32) eng.starts s1.nextJob kd.copy kd.copyLen
              (if fp = 0xFFFFFFFF then 0 else BitVec.ofNat 512 (g.scrNat fp 64))
            let s2 := s1.setEngine c { eng with
              starts := (eng.starts + 1) % 2 ^ 32
              slots := eng.slots.put slot p }
            let s3 := { s2.registerFp c s1.nextJob w.gang ranges with nextJob := s1.nextJob + 1 }
            .next (s3.retire k
              (w.setG o.d.toNat (BitVec.ofNat 64 (handleOf slot w.wg eng.starts))) o.len))

def execCeWait (o : WOp) (s : State) : Out :=
  onGang s o "CE_WAIT" (fun k w g =>
    let h := (w.greg o.a.toNat).toNat
    let slot := fld h 0 8
    let wg := fld h 8 2
    if decide (7 < slot) || fld h 10 6 != 0 || fld h 48 16 != 0 || decide (g.cores.length ≤ wg) then
      illegalField s k w 32
    else if s.redgBusy k then stall s
    else
      let done := fun (st : Nat) => Host.Outcome.next
        ((s.acquirePoint k w).retire k (w.setG o.d.toNat (BitVec.ofNat 64 st)) o.len)
      match s.prog? (nth g.cores wg 0) slot with
      | none => done 3
      | some p =>
        if p.st = 0 || p.seq != fld h 16 32 then done 3
        else match p.status with
          | some st => done st
          | none => .next (s.waitOn k w .copy h 0 (.ceWait o)))

/-! ## Faults (R294, R295) -/

/-- CAUSE and XC of a fault (R295, R387). -/
def CeCause.code (c : CeCause) : Nat × Nat :=
  match c with
  | .unimpl => (0x01, 0) | .illegal => (0x02, 0) | .fetch => (0x03, 0)
  | .xlat x => (0x10, x.toNat) | .canon => (0x11, 0) | .bound => (0x12, 0) | .align => (0x13, 0)
  | .descInvalid => (0x20, 0) | .box => (0x21, 0) | .conv => (0x22, 0) | .block => (0x23, 0)
  | .operand => (0x24, 0) | .bar => (0x25, 0) | .gsub => (0x26, 0) | .space => (0x27, 0)
  | .mem x => (0x28, x.toNat) | .race n => (0x300 + n.toNat, 0)

/-- An engine's cause for a failed access of global memory (R294, R353, R387). -/
def ceOf (e : XErr) : CeCause :=
  if e.cause = 0x0100 then .canon
  else match e.cause / 256 with
    | 1 => .xlat (BitVec.ofNat 8 e.cause)
    | 3 => .race (BitVec.ofNat 8 e.cause)
    | _ => .mem (BitVec.ofNat 8 e.cause)

/-- The fault record of R295. -/
def ceRecord (c : CeCause) (nxf : Nat) (fpc rpc : W64) (faddr : Nat) (w0 w1 : BitVec 32) : BitVec 320 :=
  BitVec.ofNat 320 ((CeCause.code c).1 + nxf % 8 * 2 ^ 16 + (CeCause.code c).2 * 2 ^ 24
    + fpc.toNat * 2 ^ 64 + rpc.toNat * 2 ^ 128 + faddr % 2 ^ 64 * 2 ^ 192 + w0.toNat * 2 ^ 256
    + w1.toNat * 2 ^ 288)

/-- Set an ERR bit of a program's barrier objects; 0xFFFFFFFF is none. -/
def State.barErr (s : State) (o : Owner) (bit : Nat) (offs : List Nat) : State :=
  match o.gang with
  | none => s
  | some g => (nubNat (offs.filter (· != 0xFFFFFFFF))).foldl
      (fun (x : State) off => x.modBar g off false (fun b => b.setErr bit)) s

/-- The program of a COPY record ends, with the status and cause of its launch (R333). -/
def State.copyEnd (s : State) (e slot : Nat) (p : Prog) (status cause : Nat) : State :=
  (s.setProg e slot { p with xfers := [], discarded := true }).launchDone p.owner.ctx p.owner.launch
    status cause

/-- A program's fault is reported (R294): ERR.CEF is set in its default barrier and those that the
faulting command counts on, its record is reported, and `CE.WAIT` ends. A program of a COPY record is
discarded, with no event record, and its launch completes with STATUS 8 (R333). -/
def State.ceReport (s : State) (e slot : Nat) (p : Prog) : State :=
  if p.owner.gang.isNone then s.copyEnd e slot { p with st := 3 } 8 (p.frec.toNat % 2 ^ 16)
  else
  let tok := ((s.ctxs.find p.owner.ctx).map (·.nextToken)).getD 0
  let p1 := { p with st := 3, token := tok, discarded := false }
  let g := p.owner.gang.bind (fun n => s.gangs.find n)
  let ev : Event := ⟨1, tok, p.owner.launch, ((g.map (·.gangId)).getD 0),
    ((g.map (fun x => indexIn x.cores e)).getD 0), slot, bytesOf 40 p.frec.toNat⟩
  let s1 := ((s.setProg e slot p1).barErr p.owner errCef (p.dbar.toNat :: p.fbars)).wakeCopy e slot p1
    ((p1.status).getD 0)
  (s1.post p.owner.ctx ev).modCtx p.owner.ctx (fun c => { c with nextToken := tok + 1 })

/-- Has every transfer before the nth performed its writes, as far as the faults let it? -/
def State.doneTo (s : State) (e : Nat) (p : Prog) (n : Nat) : Bool := ((s.xStuck e p).take n).all id

/-- The transfer that the fault record names, or the number of transfers where it names a command that is
none of them. -/
def Prog.culpritAt (p : Prog) : Nat := (p.xfers.findIdx? (·.culprit)).getD p.xfers.length

/-- A fault follows every write of the commands before it (R109, R294): the barriers of faulted transfers
take CEF, and the program's fault is reported, once the transfers before them have performed their
writes. -/
def State.ceSettle (s : State) (e slot : Nat) : State :=
  match s.prog? e slot with
  | none => s
  | some p =>
    let due := fun (n : Nat) (x : Xfer) => x.faulted && !x.told && s.doneTo e p n
    let bars := (p.xfers.zipIdx).filterMap (fun q => if due q.2 q.1 then q.1.bar else none)
    let p1 := { p with xfers := (p.xfers.zipIdx).map (fun q =>
      if due q.2 q.1 then { q.1 with told := true } else q.1) }
    let s1 := (s.setProg e slot p1).barErr p.owner errCef bars
    if p.st = 8 && s.doneTo e p p.culpritAt then s1.ceReport e slot p1 else s1

/-- A program faults (R294): it stops with its record, which is reported once the earlier transfers are
done. `bars` are the barriers that the faulting command counts on. -/
def ceFaultAt (s : State) (e slot : Nat) (p : Prog) (r : BitVec 320) (bars : List Nat) : State :=
  (s.setProg e slot { p with st := 8, frec := r, fbars := bars }).ceSettle e slot

/-- A command faults at issue: FPC is the command, RPC the command after it; a failed fetch issued
nothing, so RPC is the command too. `nxf` counts the faulting `XFER`. -/
def ceFault (s : State) (e slot : Nat) (p : Prog) (c : CeCause) (faddr nxf : Nat)
    (bars : List Nat) : Out :=
  let w0 := s.insn.1.extractLsb' 0 32
  let w1 := s.insn.2.extractLsb' 0 32
  let rpc := if c = .fetch then p.cpc else p.cpc + (if w0.getLsbD 6 then 8 else 4)
  .next (ceFaultAt s e slot p
    (ceRecord c ((p.xfers.filter (fun x => !x.faulted)).length + nxf) p.cpc rpc faddr w0 w1) bars)

/-- Run a command of the program at its engine's turn. -/
def onProg (s : State) (f : Nat → Nat → Prog → Out) : Out :=
  match s.curE with
  | none => .refused .noProgram
  | some (e, slot) => match s.prog? e slot with
    | none => .refused .noProgram
    | some p => f e slot p

/-- The program goes on at the next command. -/
def ceNext (s : State) (e slot : Nat) (p : Prog) (len : Nat) : Out :=
  .next (s.setProg e slot { p with cpc := p.cpc + BitVec.ofNat 64 len })

/-- CE_ILLEGAL: a command that fails its fetch, or whose word is refused, faults before any effect
(R274, R275). -/
def execCeIllegal (c : CeCause) (w0 w1 : BitVec 32) (addr : Nat) (s : State) : Out :=
  onProg { s with insn := (w0.setWidth 64, w1.setWidth 64) } (fun e slot p =>
    ceFault { s with insn := (w0.setWidth 64, w1.setWidth 64) } e slot p c addr 0 [])

/-! ## Accesses of a program (R280, R291, R294) -/

/-- A checked access: bytes of scratch, or pieces of global memory. -/
inductive EMem where
  | scr (off : Nat)
  | glb (ps : List Piece)
  deriving DecidableEq, Repr, Inhabited

/-- The checks of R294, in their order, on n bytes. FADDR of CE.SPACE is the address that the access names, as
R295 does not say whether that cause has one (log 33). -/
def State.engCheck (s : State) (o : Obs) (g : Option Gang) (sp : Bool) (need : Need) (sync : Bool)
    (addr n align : Nat) : State × Except (CeCause × Nat) EMem :=
  if sp then
    match g with
    | none => (s, .error (.space, addr))
    | some x =>
      let off := addr % 2 ^ 32
      if !x.inBounds off n then (s, .error (.bound, off))
      else if off % align != 0 then (s, .error (.align, off))
      else (s, .ok (.scr off))
  else if !canonical addr then (s, .error (.canon, addr))
  else if addr % align != 0 then (s, .error (.align, addr))
  else match s.check o none need sync addr n with
    | (s1, .error e) => (s1, .error (ceOf e, e.addr))
    | (s1, .ok ps) => (s1, .ok (.glb ps))

/-- Read n bytes of a checked access. -/
def State.engRead (s : State) (o : Obs) (g : Option Gang) (m : EMem) (n : Nat) : State × List Byte :=
  match m with
  | .scr off => (s, ((g.map (fun x => x.scrRead off n)).getD []))
  | .glb ps => s.readPieces o .engine ps

/-- Write bytes of a checked access; a store is performed at its home (R109). -/
def State.engWrite (s : State) (o : Obs) (g : Option Nat) (m : EMem) (bs : List Byte) : State :=
  match m with
  | .scr off => match g with
    | some n => s.modGang n (fun x => x.scrWrite off bs)
    | none => s
  | .glb ps => s.writePieces o .engine ps bs

/-- Read n bytes for a program, with the checks. -/
def State.progRead (s : State) (e : Nat) (p : Prog) (sp : Bool) (addr n align : Nat) :
    State × Except (CeCause × Nat) (List Byte) :=
  let o := s.progObs e p
  match s.engCheck o (s.progGang p) sp .read false addr n align with
  | (s1, .error x) => (s1, .error x)
  | (s1, .ok m) =>
    let (s2, bs) := s1.engRead o (s1.progGang p) m n
    (s2, .ok bs)

/-- Write bytes for a program, with the checks. -/
def State.progWrite (s : State) (e : Nat) (p : Prog) (sp sync : Bool) (addr align : Nat)
    (bs : List Byte) : State × Option (CeCause × Nat) :=
  let o := s.progObs e p
  match s.engCheck o (s.progGang p) sp .write sync addr bs.length align with
  | (s1, .error x) => (s1, some x)
  | (s1, .ok m) => (s1.engWrite o p.owner.gang m bs, none)

/-! ## The engine's next command (R273-R275) -/

/-- Fetch one command word: canonical, in the program's copy section, translating with X (R274). -/
def State.ceWord (s : State) (e : Nat) (p : Prog) (a : Nat) : State × Option (BitVec 32) :=
  if !canonical a || decide (a < p.lo.toNat) || decide (p.lo.toNat + p.len < a + 4) then (s, none)
  else
    let o := s.progObs e p
    match s.span o none .fetch a 4 with
    | (s1, .error _) => (s1, none)
    | (s1, .ok ps) => match s1.reachAll o a ps with
      | (s2, some _) => (s2, none)
      | (s2, none) =>
        let (s3, bs) := s2.readPieces o .die ps
        (s3, some (BitVec.ofNat 32 (natOf bs)))

/-- The command at CPC, or the fault that its fetch or its word raises: CE.FETCH before CE.ILLEGAL, for the
all-ones word too, whose bit X asks for a second word (log 129). -/
def State.ceFetch (s : State) (e : Nat) (p : Prog) : State × Instr :=
  match s.ceWord e p p.cpc.toNat with
  | (s1, none) => (s1, .ceIllegal .fetch 0 0 p.cpc.toNat)
  | (s1, some w0) =>
    let r := if w0.getLsbD 6 then s1.ceWord e p ((p.cpc + 4).toNat) else (s1, some 0)
    match r with
    | (s2, none) => (s2, .ceIllegal .fetch w0 0 ((p.cpc + 4).toNat))
    | (s2, some w1) =>
      let s3 := { s2 with insn := (w0.setWidth 64, w1.setWidth 64) }
      match decodeCe w0 w1 with
      | .ok i => (s3, i)
      | .unimpl => (s3, .ceIllegal .unimpl w0 w1 0)
      | .illegal => (s3, .ceIllegal .illegal w0 w1 0)

/-- The next ready program after the one that issued last (R273). -/
def Engine.nextSlot (x : Engine) (ok : Prog → Bool) : Option (Nat × Prog) :=
  (List.range 8).findSome? (fun i =>
    let n := (x.last + 1 + i) % 8
    match x.slots.find n with
    | some p => if p.st = 1 && ok p then some (n, p) else none
    | none => none)

/-- May a program issue a command: not once a pre-emption of its gang is pending (R297)? -/
def State.mayIssue (s : State) (p : Prog) : Bool :=
  match p.owner.gang.bind (fun n => s.gangs.find n) with
  | some g => g.phase = .resident
  | none => true

/-- The island of a copy engine: its core's base, or that of four engines of an I/O die (R396). -/
def engineIsland (e : Nat) : Nat :=
  if e < 1024 then 240 * coreDie e + 6 * corePhys e + 5
  else 960 + 32 * ((e - 1024) / 32) + 18 + (e - 1024) % 32 / 4

end Sys2Proof.Machine
end

