-- ==== Sys2Proof/Machine/Gather.lean ====
section
/-! DEFINITION. Gather and scatter jobs (R223-R227): the job block, acceptance by a gather unit, and the
sectors of a job. -/

namespace Sys2Proof.Machine

/-! ## The job block (R223) -/

def gTable (b : Nat) : Nat := fld b 0 64
def gIndex (b : Nat) : Nat := fld b 64 64
def gData (b : Nat) : Nat := fld b 128 64
def gDstr (b : Nat) : Nat := fld b 192 32
def gSecs (b : Nat) : Nat := fld b 224 12 + 1
def gRow (b : Nat) : Nat := 16 * gSecs b
def gWidth (b : Nat) : Nat := 2 * 2 ^ fld b 236 2
def gDsp (b : Nat) : Bool := bitN b 238
def gCount (b : Nat) : Nat := fld b 240 16 + 1
def gOpc (b : Nat) : Nat := fld b 256 3
def gEf (b : Nat) : Nat := fld b 259 4
def gBar (b : Nat) : Nat := fld b 288 32
/-- Stride between data rows. -/
def gStep (b : Nat) : Nat := if gDstr b = 0 then gRow b else gDstr b
/-- Bytes from the first data row to the end of the last. -/
def gSpan (b : Nat) : Nat := (gCount b - 1) * gStep b + gRow b
/-- Sectors that the job writes or consumes. -/
def gTotal (b : Nat) : Nat := gCount b * gSecs b

/-- The checks of R206 and R223 on a block; of its barrier object those of R206, whole. -/
def gBlockOk (g : Gang) (b : Nat) (sctr : Bool) : Bool :=
  gTable b % 16 = 0 && fld b 236 2 != 3 && gIndex b % gWidth b = 0 && gData b % 16 = 0
    && gDstr b % 16 = 0 && (gDstr b = 0 || decide (gRow b ≤ gDstr b)) && !bitN b 239
    && (if sctr then decide (gOpc b ≤ 3)
          && (if gOpc b = 3 then gEf b = 0 else gEf b = 4 || gEf b = 8 || gEf b = 10)
        else gOpc b = 0 && gEf b = 0)
    && fld b 263 25 = 0 && fld b 320 192 = 0
    && (gBar b = 0xFFFFFFFF || g.barFull (gBar b))
    && (!gDsp b || g.inBounds (gData b) (gSpan b))

/-- The footprint of a job (R224). -/
def gRanges (b : Nat) (sctr : Bool) : List Range :=
  [⟨gIndex b, gCount b * gWidth b, false, false⟩, ⟨gData b, gSpan b, !sctr, gDsp b⟩]

/-! ## Acceptance (R224) -/

/-- The island of a gather unit (R396). -/
def unitIsland (die u : Nat) : Nat := 240 * die + 216 + u

/-- A free gather unit of a die, whose island performs (R399). -/
def State.freeUnit (s : State) (die : Nat) : Option Nat :=
  (List.range 16).find? (fun u => s.islandOn (unitIsland die u)
    && !s.gjobs.any (fun j => j.accepted && coreDie j.core = die && j.unit = u))

/-- Charge a job's sectors to its barrier (R224): none when the charge would overflow, which sets
OVER. -/
def State.gCharge (s : State) (g b : Nat) (sctr : Bool) : State × Bool :=
  match s.gangs.find g with
  | none => (s, false)
  | some x =>
    if gBar b = 0xFFFFFFFF then (s, true)
    else
      let o := x.bar (gBar b)
      let n := gTotal b
      if 2 ^ 24 ≤ (if sctr then o.out else o.inn) + n then
        (s.modBar g (gBar b) false (fun y => y.setErr errOver), false)
      else (s.modBar g (gBar b) false (fun y =>
        if sctr then { y with out := y.out + n } else { y with inn := y.inn + n }), true)

/-- A gather unit accepts a job: the charge and the footprint in one step (R224). -/
def State.gAccept (s : State) (j : GJob) (unit : Nat) : State :=
  let b := j.block.toNat
  let g := (j.owner.gang).getD 0
  let r := s.gCharge g b j.sctr
  if r.2 then
    { r.1.registerFp j.core j.job g (gRanges b j.sctr) with
      gjobs := r.1.gjobs ++ [{ j with unit := unit, accepted := true, prog := none,
                                      held := r.1.holds j.owner.ctx (·.holdGu) }] }
  else r.1

/-- A new job. -/
def GJob.fresh (o : Owner) (job core b : Nat) (sctr : Bool) : GJob :=
  { job := job, block := BitVec.ofNat 512 b, sctr := sctr, owner := o, core := core, unit := 0,
    accepted := false, held := false, next := 0, index := 0, rows := [], busy := [], prog := none }

/-- GTHR and SCTR (R223, R224): a release point, which waits for the wave's earlier accesses before the
block is read. -/
def gatherStart (o : WOp) (s : State) (i : Instr) (name : String) (sctr : Bool) : Out :=
  onGang s o name (fun k w g =>
    let off := w.off32 o.a.toNat
    let b := g.scrNat off 64
    let c := slotCore k
    if s.relBusy k then stall s
    else match s.blockHeld w off with
    | some x => .next (s.waitOn k w .footprint x 0 i)
    | none =>
      if !(off % 16 = 0 && g.inBounds off 64 && gBlockOk g b sctr) then illegalField s k w 32
      else match s.freeUnit (coreDie c) with
      | none => .next (s.waitOn k w .footprint (coreDie c) 3 i)
      | some u =>
        if !s.fpRoom c (gRanges b sctr) then .next (s.waitOn k w .footprint c 2 i)
        else
          let s1 := s.releasePoint k w false
          let j := GJob.fresh (s1.ownerOf k w g) s1.nextJob c b sctr
          let s2 := { s1 with nextJob := s1.nextJob + 1 }.retire k w o.len
          .next (s2.gAccept j u))

def execGthr (o : WOp) (s : State) : Out := gatherStart o s (.gthr o) "GTHR" false
def execSctr (o : WOp) (s : State) : Out := gatherStart o s (.sctr o) "SCTR" true

/-- A gather unit accepts the job of a `GSUB` that waits (R290): the program goes on. -/
def execGatherUnitAccept (idx : Nat) (s : State) : Out :=
  match s.gjobs[idx]? with
  | none => .refused (.notEnabled "GATHER_UNIT_ACCEPT")
  | some j =>
    match s.freeUnit (coreDie j.core) with
    | none => .refused (.notEnabled "GATHER_UNIT_ACCEPT")
    | some u =>
      if j.accepted || !s.fpRoom j.core (gRanges j.block.toNat j.sctr) then
        .refused (.notEnabled "GATHER_UNIT_ACCEPT")
      else
        let s1 := { s with gjobs := s.gjobs.eraseIdx idx }.gAccept j u
        match j.prog with
        | some (e, slot) => match s1.prog? e slot with
          | some p => .next (s1.setProg e slot { p with st := 1, cpc := p.cpc + 4 })
          | none => .next s1
        | none => .next s1

/-! ## Sectors of a job (R225-R227) -/

/-- The job leaves its unit (R110, R224): its footprint goes, and the waves that wait for a unit of
its die re-issue. -/
def State.gEnd (s : State) (idx : Nat) (j : GJob) : State :=
  let s1 : State := { s with gjobs := s.gjobs.eraseIdx idx }
  (s1.dropFp j.job).reissueAll
    (fun _ x => x.kind = .footprint && x.gen = 3 && x.obj = coreDie j.core)

/-- A job faults (R227): ERR.GTF, the fault record, and it does not resume. -/
def State.gFault (s : State) (idx : Nat) (j : GJob) (e : XErr) (size : Nat) : State :=
  let b := j.block.toNat
  let f : LFault := ⟨e.cause, 8, sizeLog size, 0, e.addr, e.v0, e.v1, 0, 0⟩
  let gs := j.owner.gang.bind (fun n => s.gangs.find n)
  let ev : Event := ⟨2, 0, j.owner.launch, ((gs.map (·.gangId)).getD 0),
    ((gs.map (fun x => indexIn x.cores j.core)).getD 0), 0, bytesOf 64 (f.record 0).toNat⟩
  ((s.gEnd idx j).barErr j.owner errGtf [gBar b]).post j.owner.ctx ev

/-- One sector is done: the count-down, and the job's end after the last. -/
def State.gDone (s : State) (idx : Nat) (j : GJob) (n : Nat) : State :=
  let b := j.block.toNat
  let s1 := if gBar b = 0xFFFFFFFF then s
    else s.modBar ((j.owner.gang).getD 0) (gBar b) true (fun y => y.count j.sctr)
  if n + 1 = gTotal b then s1.gEnd idx j else s1

/-- The lines into which a job has open sector writes after a sector at a VA: those it has begun and will
write again (R86). -/
def State.gBusy (s : State) (o : Obs) (j : GJob) (a : Nat) (again : Nat → Bool) : List (Nat × Nat) :=
  (s.lineOf o a ++ j.busy.filter (fun l => l.1 != a / 128)).filter (fun l => again l.1)

/-- Keep a job's progress. -/
def State.gPut (s : State) (idx : Nat) (j : GJob) : State :=
  { s with gjobs := setNth s.gjobs idx j }

/-- The row number of a position, read when its first sector is reached. -/
def State.gIndexAt (s : State) (o : Obs) (j : GJob) (p sec : Nat) :
    State × Except XErr Nat :=
  let b := j.block.toNat
  if sec != 0 then (s, .ok j.index)
  else match s.readG o .engine false ((gIndex b + p * gWidth b) % 2 ^ 64) (gWidth b) with
    | (s1, .error e) => (s1, .error e)
    | (s1, .ok bs) => (s1, .ok (natOf bs))

/-- Is a row number the null index (R223)? -/
def gNull (b i : Nat) : Bool := i = 2 ^ (8 * gWidth b) - 1

/-- The address of a data sector. -/
def gDataAt (b n : Nat) : Nat := (gData b + n / gSecs b * gStep b + 16 * (n % gSecs b)) % 2 ^ 64

/-- Does a gather write a line again after its sector n: data rows rise, so its next sector says? -/
def gAgain (b n line : Nat) : Bool := decide (n + 1 < gTotal b) && gDataAt b (n + 1) / 128 = line

/-- Does a scatter write a line again after a sector of the row at position p: later in this row, or at a
later position of the run, which names a row there (R225, R226)? -/
def State.sAgain (s : State) (o : Obs) (j : GJob) (p sec i line : Nat) : Bool :=
  let b := j.block.toNat
  (decide (sec + 1 < gSecs b) && bytesMeet ((gTable b + i * gRow b + 16 * (sec + 1)) % 2 ^ 64)
      (16 * (gSecs b - (sec + 1))) (128 * line) 128)
    || (List.range (min (gCount b) (p / 4096 * 4096 + 4096) - (p + 1))).any (fun d =>
        match (s.gIndexAt o j (p + 1 + d) 0).2 with
        | .ok x => !gNull b x && bytesMeet ((gTable b + x * gRow b) % 2 ^ 64) (gRow b) (128 * line) 128
        | .error _ => false)

/-- Write a data sector of a gather. -/
def State.gWrite (s : State) (o : Obs) (j : GJob) (p sec : Nat) (bs : List Byte) : State × Option XErr :=
  let b := j.block.toNat
  let a := gData b + p * gStep b + 16 * sec
  if gDsp b then (s.modGang ((j.owner.gang).getD 0) (fun g => g.scrWrite a bs), none)
  else s.writeG o .engine false (a % 2 ^ 64) bs

/-- Read a data sector of a scatter. -/
def State.gRead (s : State) (o : Obs) (j : GJob) (p sec : Nat) : State × Except XErr (List Byte) :=
  let b := j.block.toNat
  let a := gData b + p * gStep b + 16 * sec
  if gDsp b then
    (s, .ok (((s.gangs.find ((j.owner.gang).getD 0)).map (fun g => g.scrRead a 16)).getD (rep 16 0)))
  else s.readG o .engine false (a % 2 ^ 64) 16

/-- The table row of an index, read once in each run of 4,096 positions (R225). -/
def State.gRowOf (s : State) (o : Obs) (j : GJob) (i : Nat) : State × Except XErr (List Byte) :=
  let b := j.block.toNat
  match j.rows.find i with
  | some r => (s, .ok r)
  | none => s.readG o .engine false ((gTable b + i * gRow b) % 2 ^ 64) (gRow b)

/-- The next sector of a gather job (R225), in rising order of position and sector (log 40). SIZE of a table
row's failed read, whose length need not be a power of two, is that of a sector (log 114). -/
def State.gatherNext (s : State) (idx : Nat) (j : GJob) : State :=
  let b := j.block.toNat
  let o := s.jobObs j.owner (coreDie j.core)
  let n := j.next
  let p := n / gSecs b
  let sec := n % gSecs b
  let j0 := if p % 4096 = 0 && sec = 0 then { j with rows := [] } else j
  match s.gIndexAt o j0 p sec with
  | (s1, .error e) => s1.gFault idx j0 e (gWidth b)
  | (s1, .ok i) =>
    let row := if gNull b i then (s1, .ok (rep (gRow b) 0)) else s1.gRowOf o j0 i
    match row with
    | (s2, .error e) => s2.gFault idx j0 e 16
    | (s2, .ok r) =>
      match s2.gWrite o j0 p sec ((r.drop (16 * sec)).take 16) with
      | (s3, some e) => s3.gFault idx j0 e 16
      | (s3, none) =>
        let j1 := { j0 with
          next := n + 1, index := i
          rows := if gNull b i then j0.rows else j0.rows.put i r
          busy := if gDsp b then [] else s3.gBusy o j0 (gDataAt b n) (gAgain b n) }
        (s3.gPut idx j1).gDone idx j1 n

/-- Combine two elements of a scatter (R226). -/
def gFold (opc ef old v : Nat) : Nat :=
  if ef = 4 then
    match opc with
    | 0 => (old + v) % 2 ^ 32
    | 1 => if sgnN old 32 < sgnN v 32 then v else old
    | _ => if sgnN v 32 < sgnN old 32 then v else old
  else match opc with
    | 0 => atomAdd ef old v
    | 1 => atomMinMax ef true old v
    | _ => atomMinMax ef false old v

/-- Combine two sectors, element by element. -/
def gFoldSec (opc ef : Nat) (old v : List Byte) : List Byte :=
  if opc = 3 then v
  else
    let w := if ef = 8 then 2 else 4
    (List.range (16 / w)).flatMap (fun i =>
      bytesOf w (gFold opc ef (natOf ((old.drop (w * i)).take w)) (natOf ((v.drop (w * i)).take w))))

/-- The next sector of a scatter job (R226): positions in ascending order, so that the fold is the
one of R226. -/
def State.scatterNext (s : State) (idx : Nat) (j : GJob) : State :=
  let b := j.block.toNat
  let o := s.jobObs j.owner (coreDie j.core)
  let n := j.next
  let p := n / gSecs b
  let sec := n % gSecs b
  match s.gIndexAt o j p sec with
  | (s1, .error e) => s1.gFault idx j e (gWidth b)
  | (s1, .ok i) =>
    let j1 := { j with next := n + 1, index := i }
    if gNull b i then (s1.gPut idx j1).gDone idx j1 n
    else
      let a := (gTable b + i * gRow b + 16 * sec) % 2 ^ 64
      match s1.gRead o j p sec with
      | (s2, .error e) => s2.gFault idx j e 16
      | (s2, .ok v) =>
        match (if gOpc b = 3 then (s2, .ok v) else s2.readG o .engine false a 16) with
        | (s3, .error e) => s3.gFault idx j e 16
        | (s3, .ok old) =>
          match s3.writeG o .engine false a (gFoldSec (gOpc b) (gEf b) old v) with
          | (s4, some e) => s4.gFault idx j e 16
          | (s4, none) =>
            let j2 := { j1 with busy := s4.gBusy o j1 a (s4.sAgain o j1 p sec i) }
            (s4.gPut idx j2).gDone idx j2 n

/-- The bytes that the next sector of a job touches: its row number, its table row and its data sector. -/
def State.gTouches (s : State) (o : Obs) (j : GJob) : List (Nat × Nat) :=
  let b := j.block.toNat
  let p := j.next / gSecs b
  let sec := j.next % gSecs b
  let data := (gData b + p * gStep b + 16 * sec) % 2 ^ 64
  ((gIndex b + p * gWidth b) % 2 ^ 64, gWidth b) :: (if gDsp b then [] else [(data, 16)])
    ++ (match (s.gIndexAt o j p sec).2 with
      | .ok i => if gNull b i then [] else [((gTable b + i * gRow b) % 2 ^ 64, gRow b)]
      | .error _ => [])

/-- Do the island of a job's unit, and those on the way of its next sector, perform (R399)? -/
def State.gOn (s : State) (j : GJob) : Bool :=
  let die := coreDie j.core
  s.islandOn (unitIsland die j.unit)
    && s.slicesOn (s.jobObs j.owner die) (s.gTouches (s.jobObs j.owner die) j)

/-- Run a sector of the accepted job at an index. -/
def onJob (s : State) (idx : Nat) (sctr : Bool) (name : String) (f : GJob → State) : Out :=
  match s.gjobs[idx]? with
  | none => .refused (.notEnabled name)
  | some j => if !j.accepted || j.held || j.sctr != sctr || !s.gOn j then .refused (.notEnabled name)
    else .next (f j)

def execGatherSector (idx : Nat) (s : State) : Out :=
  onJob s idx false "GATHER_SECTOR" (fun j => s.gatherNext idx j)

def execScatterSector (idx : Nat) (s : State) : Out :=
  onJob s idx true "SCATTER_SECTOR" (fun j => s.scatterNext idx j)

end Sys2Proof.Machine
end

