-- ==== Sys2Proof/Machine/Xfer.lean ====
section
/-! DEFINITION. `XFER` (R283-R288): its checks, the sectors it will perform, and each sector's
elements, conversions, writes and count-down. -/

namespace Sys2Proof.Machine

/-! ## Conversion of elements (R286) -/

/-- Is a pair of formats allowed (check 4)? -/
def xPair (sf df : Nat) (sc : Bool) : Bool :=
  if sf = 12 || df = 12 then
    !sc && ((sf = 12 && df = 12) || (sf = 4 && df = 12) || (sf = 12 && df = 4))
  else true

/-- Convert an element's bits. -/
def xConv (b sf df bits : Nat) : Nat :=
  if sf = df && !xSC b then
    if sf = 0 && bits % 16 = 8 then 0 else bits % 2 ^ fmtW sf
  else if df = 12 || sf = 12 then (convert df sf .rne false bits).1
  else if sf ≤ 5 && df ≤ 5 && !xSC b then (intToInt df (xSAT b) (intVal sf bits).1).1
  else
    let v := (readFmt sf bits).1
    let x := if xSC b then (scaleVal v (decFl (fmtOf 10) (xScale b))).1 else v
    if df ≤ 5 then (toInt df (rmOf (xRND b)) (xSAT b) x).1
    else (toFloat df (rmOf (xRND b)) (xSAT b) x).1

/-! ## The checks of R284 -/

/-- The barrier that a block counts on: none with NC, 0xFFFFFFFF for a default barrier of none. -/
def xBarOf (b : Nat) (dbar : W32) : Nat := if xBar b = 0xFFFFFFFF then dbar.toNat else xBar b

/-- Fields of a block for dimensions at or above a rank. -/
def xHigh (f : Nat → Nat) (rank : Nat) : Bool := (List.range 6).all (fun d => decide (d < rank) || f d = 0)

/-- The checks of R284 in their order: the cause and FADDR of the first that fails. A BAR that names a
default barrier of none is no barrier to count on, and so is checked with NC = 0 alone (log 106). -/
def xCheck (b : Nat) (src dst : TDesc) (g : Option Gang) (dbar : W32) : Option (CeCause × Nat) :=
  let n := xCount b src.rank
  let bar := xBarOf b dbar
  if fld b 19 13 != 0 || fld b 736 32 != 0 || fld b 832 192 != 0 || xEDGE b = 3
      || (xCMPB b && xBmap b % 16 != 0) then some (.block, 0)
  else if !src.valid || !dst.valid then some (.descInvalid, 0)
  else if (if xCMPB b then dst.rank != 1 || xTR b else src.rank != dst.rank)
      || (xTR b && decide (src.rank < 2))
      || !xHigh (fun d => fld b (128 + 32 * d) 32) src.rank || !xHigh (xBox b) src.rank
      || !xHigh (xDorg b) dst.rank then some (.box, 0)
  else if !xPair src.fmt dst.fmt (xSC b) then some (.conv, 0)
  else if (if xCMPB b then decide (dst.extent 0 < xDorg b 0 + n)
      else n != 0 && (List.range dst.rank).any (fun d =>
        let bd := if xTR b && decide (d < 2) then xBox b (1 - d) else xBox b d
        decide (dst.extent d < xDorg b d + bd))) then some (.box, 0)
  else if !xNC b && bar = 0xFFFFFFFF then some (.bar, 0)
  else if !xNC b && !((g.map (fun x => x.barOk bar)).getD false) then some (.bar, bar)
  else if g.isNone && (xSSP b || xDSP b || (xCMPB b && xBSP b)) then some (.space, 0)
  else none

/-! ## The sectors of a transfer (R288) -/

/-- Add an element to the sector that holds it. -/
def addSector (sp : Bool) (sec : Nat) (es : List Nat) : List XSector → List XSector
  | [] => [⟨sp, sec, es⟩]
  | q :: t => if q.sp = sp && q.sec = sec then { q with elems := q.elems ++ es } :: t
    else q :: addSector sp sec es t

/-- The address of element j's destination, and whether it is a high nibble. A destination index entry
is read with the checks of R294. -/
def State.xDstAddr (s : State) (e : Nat) (p : Prog) (b : Nat) (t : TDesc) (j : Nat) :
    State × Except (CeCause × Nat) (Nat × Bool) :=
  let cs := xDst b (xCoord b t.rank 0 j)
  if t.ind = 0 then (s, .ok (t.addrOf (t.elemNo cs 0)))
  else match s.progRead e p (xDSP b) (t.idxAddr (nth cs t.ind 0)) t.ibytes t.ibytes with
    | (s1, .error x) => (s1, .error x)
    | (s1, .ok bs) => (s1, .ok (t.addrOf (t.elemNo cs (natOf bs))))

/-- The kth box element in the order of destination coordinates, dimension 0 fastest (R89): with TR, box
dimensions 0 and 1 change places. -/
def xNth (b k : Nat) : Nat :=
  if xTR b then
    let b0 := xBox b 0
    let b1 := xBox b 1
    k / b1 % b0 + b0 * (k % b1) + k / (b0 * b1) * (b0 * b1)
  else k

/-- The sectors of a transfer without CMPB, each with its elements in the order of their destination
coordinates: of elements that fall on one place, the last stays (R89). -/
def State.xSectors (s : State) (e : Nat) (p : Prog) (b : Nat) (t : TDesc) :
    State × Except (CeCause × Nat) (List XSector) :=
  (List.range (xCount b t.rank)).foldl (fun acc j =>
    match acc with
    | (st, .error x) => (st, .error x)
    | (st, .ok qs) => match st.xDstAddr e p b t (xNth b j) with
      | (st1, .error x) => (st1, .error x)
      | (st1, .ok (a, _)) => (st1, .ok (addSector (xDSP b) (spAddr (xDSP b) a / 16) [xNth b j] qs)))
    (s, .ok [])

/-- Bytes of the bitmap of n elements. -/
def bmapBytes (n : Nat) : Nat := 8 * ((n + 63) / 64)

/-- The sectors of a compressing transfer: those of the span and of the bitmap (R288). -/
def xSpanSectors (b : Nat) (dst : TDesc) (n : Nat) : List XSector :=
  let lo := dst.base * 8 + xDorg b 0 * dst.bits
  let cut := fun (g : Gran) => (g.1, spAddr g.1 (g.2 * 16) / 16)
  let span := if n = 0 then []
    else (granules (xDSP b) (lo / 8) ((lo + n * dst.bits + 7) / 8 - lo / 8)).map cut
  let bm := (granules (xBSP b) (xBmap b) (bmapBytes n)).map cut
  (span ++ bm.filter (fun g => !span.contains g)).map (fun g => ⟨g.1, g.2, []⟩)

/-! ## Elements -/

/-- The background value of a destination element (R285): the low bytes of BG, neither scaled nor converted.
For INT4S it is the low nibble, and the code 1000b, which no engine writes, is clamped to −7 (R53, log
94). -/
def xBack (b : Nat) (d : TDesc) : Nat :=
  let y := xBG b % 2 ^ d.bits
  if d.fmt = 0 && y = 8 then 9 else y

/-- The value of element j as written (R285, R286). -/
def State.xValue (s : State) (e : Nat) (p : Prog) (x : Xfer) (j : Nat) :
    State × Except (CeCause × Nat) Nat :=
  let b := x.block.toNat
  let t := TDesc.ofNat x.src.toNat
  let d := TDesc.ofNat x.dst.toNat
  match xSrc b t (xCoord b t.rank 0 j) with
  | none => (s, .ok (if xEDGE b = 1 then xBack b d else 0))
  | some cs =>
    let ix := if t.ind = 0 then (s, .ok [])
      else s.progRead e p (xSSP b) (t.idxAddr (nth cs t.ind 0)) t.ibytes t.ibytes
    match ix with
    | (s1, .error er) => (s1, .error er)
    | (s1, .ok bs) =>
      let (a, hi) := t.addrOf (t.elemNo cs (natOf bs))
      match s1.progRead e p (xSSP b) a t.ebytes 1 with
      | (s2, .error er) => (s2, .error er)
      | (s2, .ok v) =>
        let bits := if hi then natOf v / 16 else natOf v
        (s2, .ok (xConv b t.fmt d.fmt bits))

/-- Write some bits of bytes of a destination: the checks of a write, the other bits kept. -/
def State.progPatch (s : State) (e : Nat) (p : Prog) (sp : Bool) (a : Nat) (val mask : List Byte) :
    State × Option (CeCause × Nat) :=
  let o := s.progObs e p
  match s.engCheck o (s.progGang p) sp .write false a val.length 1 with
  | (s1, .error x) => (s1, some x)
  | (s1, .ok m) =>
    let (s2, old) := if mask.all (· = 0xFF#8) then (s1, val)
      else s1.engRead o (s1.progGang p) m val.length
    let new := (val.zip (mask.zip old)).map (fun q => (q.1 &&& q.2.1) ||| (q.2.2 &&& ~~~q.2.1))
    (s2.engWrite o p.owner.gang m new, none)

/-- The bytes, and the bits of them, that an element's value takes at its address. -/
def elemBytes (t : TDesc) (v : Nat) (hi : Bool) : List Byte × List Byte :=
  if t.fmt = 0 then
    (if hi then ([BitVec.ofNat 8 (v * 16)], [0xF0#8]) else ([BitVec.ofNat 8 (v % 16)], [0x0F#8]))
  else (bytesOf t.ebytes v, rep t.ebytes 0xFF#8)

/-- Perform element j: read, convert, write. -/
def State.xElem (s : State) (e : Nat) (p : Prog) (x : Xfer) (j : Nat) :
    State × Option (CeCause × Nat) :=
  let b := x.block.toNat
  let d := TDesc.ofNat x.dst.toNat
  match s.xValue e p x j with
  | (s1, .error er) => (s1, some er)
  | (s1, .ok v) => match s1.xDstAddr e p b d j with
    | (s2, .error er) => (s2, some er)
    | (s2, .ok (a, hi)) => s2.progPatch e p (xDSP b) a (elemBytes d v hi).1 (elemBytes d v hi).2

/-! ## Compression (R287) -/

/-- The value of every box element of a compressing transfer. -/
def State.xValues (s : State) (e : Nat) (p : Prog) (x : Xfer) (n : Nat) :
    State × Except (CeCause × Nat) (List Nat) :=
  (List.range n).foldl (fun acc j =>
    match acc with
    | (st, .error er) => (st, .error er)
    | (st, .ok vs) => match st.xValue e p x j with
      | (st1, .error er) => (st1, .error er)
      | (st1, .ok v) => (st1, .ok (vs ++ [v]))) (s, .ok [])

/-- What a compressing transfer writes: the non-zero elements packed from DORG0 on, and the bitmap. -/
def xPack (b : Nat) (d : TDesc) (vs : List Nat) : List (Bool × Nat × Byte × Byte) :=
  let nz := (vs.zipIdx).filter (fun q => !isZeroElem d.fmt q.1)
  let els := (nz.zipIdx).flatMap (fun q =>
    let (a, hi) := d.addrOf ((xDorg b 0 + q.2 : Nat) : Int)
    let w := elemBytes d q.1.1 hi
    ((w.1.zip w.2).zipIdx).map (fun r => (xDSP b, spAddr (xDSP b) (a + r.2), r.1.1, r.1.2)))
  let bits := nz.foldl (fun (m : Nat) q => m + 2 ^ q.2) 0
  let bm := ((bytesOf (bmapBytes vs.length) bits).zipIdx).map (fun r =>
    (xBSP b, spAddr (xBSP b) (xBmap b + r.2), r.1, 0xFF#8))
  els ++ bm

/-- Write the packed bytes that lie in a sector. -/
def State.xPacked (s : State) (e : Nat) (p : Prog) (q : XSector)
    (ws : List (Bool × Nat × Byte × Byte)) : State × Option (CeCause × Nat) :=
  (ws.filter (fun w => w.1 = q.sp && w.2.1 / 16 = q.sec)).foldl (fun acc w =>
    match acc with
    | (st, some er) => (st, some er)
    | (st, none) => st.progPatch e p w.1 w.2.1 [w.2.2.1] [w.2.2.2]) (s, none)

/-! ## Issue (R283, R284, R291) -/

/-- The block of an `XFER`, as it stands. -/
def State.peekBlock (s : State) (e : Nat) (p : Prog) (sp : Bool) (a : Nat) : Option Nat :=
  match (s.progRead e p sp a 128 16).2 with
  | .ok bs => some (natOf bs)
  | .error _ => none

/-- Must an `XFER` whose block lies at an address wait (R291): for a transfer to finish when four are in
flight, or for one that writes its block or its destination's index entries? -/
def State.xferBusy (s : State) (e : Nat) (p : Prog) (sp : Bool) (a : Nat) : Bool :=
  decide (4 ≤ (p.xfers.filter (fun x => !x.faulted)).length)
    || s.xferHolds e p false (granules sp a 128) || s.granOff e p (granules sp a 128)
    || (s.peekBlock e p sp a).any (fun b =>
        let src := TDesc.ofNat (p.d.getD (xSD b) 0).toNat
        let dst := TDesc.ofNat (p.d.getD (xDD b) 0).toNat
        (xCheck b src dst (s.progGang p) p.dbar).isNone
          && s.xferHolds e p false (xDstIdx b dst (List.range (xCount b src.rank))))

def execXfer (a : BitVec 5) (sp : Bool) (s : State) : Out :=
  onProg s (fun e slot p =>
    let at_ := spAddr sp (p.getE a.toNat).toNat
    if s.xferBusy e p sp at_ then stall s
    else match s.progRead e p sp at_ 128 16 with
      | (s1, .error er) => ceFault s1 e slot p er.1 er.2 1 []
      | (s1, .ok bs) =>
        let b := natOf bs
        let sd := p.d.getD (xSD b) 0
        let dd := p.d.getD (xDD b) 0
        let src := TDesc.ofNat sd.toNat
        let dst := TDesc.ofNat dd.toNat
        let bar := xBarOf b p.dbar
        let bars := if xNC b then [] else [bar]
        match xCheck b src dst (s1.progGang p) p.dbar with
        | some er => ceFault s1 e slot p er.1 er.2 1 bars
        | none =>
          let n := xCount b src.rank
          let qs := if xCMPB b then (s1, .ok (xSpanSectors b dst n)) else s1.xSectors e p b dst
          match qs with
          | (s2, .error er) => ceFault s2 e slot p er.1 er.2 1 bars
          | (s2, .ok todo) =>
            let x : Xfer := ⟨BitVec.ofNat 1024 b, sd, dd, if xNC b then none else some bar, p.cpc,
              s.insn.1.extractLsb' 0 32, todo, none, false, false, false, []⟩
            ceNext s2 e slot { p with xfers := if todo = [] then p.xfers else p.xfers ++ [x] } 4)

/-! ## One sector (R288, R291, R294) -/

/-- A transfer faults at a sector (R294, R295): of a running program it is the fault that the record
names. RPC of a program that waits in WAITX is the WAITX itself (log 128). -/
def State.xFault (s : State) (e slot i : Nat) (p : Prog) (x : Xfer) (er : CeCause × Nat) : State :=
  let n := (p.xfers.filter (fun y => !y.faulted)).length
  let first := !(p.st = 3 || p.st = 8)
  let y : Xfer := { x with faulted := true, told := false, culprit := first, busy := [] }
  let p1 := { p with xfers := setNth p.xfers i y }
  if first then ceFaultAt s e slot p1 (ceRecord er.1 n x.cpc p.cpc er.2 x.word 0) []
  else (s.setProg e slot p1).ceSettle e slot

/-- The lines into which a transfer has open sector writes after a sector: those it has begun and not
finished (R86). -/
def State.xBusy (s : State) (e : Nat) (p : Prog) (x : Xfer) (q : XSector) (left : List XSector) :
    List (Nat × Nat) :=
  let now := if q.sp then [] else s.lineOf (s.progObs e p) (q.sec * 16)
  (now ++ x.busy.filter (fun l => q.sp || l.1 != q.sec / 8)).filter
    (fun l => left.any (fun y => !y.sp && y.sec / 8 = l.1))

/-- The bytes that a compressing transfer writes, formed at its first sector. -/
def State.xFormed (s : State) (e : Nat) (p : Prog) (x : Xfer) :
    State × Except (CeCause × Nat) (List (Bool × Nat × Byte × Byte)) :=
  let b := x.block.toNat
  match x.packed with
  | some ws => (s, .ok ws)
  | none => match s.xValues e p x (xCount b (TDesc.ofNat x.src.toNat).rank) with
    | (s1, .error er) => (s1, .error er)
    | (s1, .ok l) => (s1, .ok (xPack b (TDesc.ofNat x.dst.toNat) l))

/-- Perform a sector of a transfer: its writes, and what `packed` becomes. -/
def State.xSector (s : State) (e : Nat) (p : Prog) (x : Xfer) (q : XSector) :
    State × Except (CeCause × Nat) (Option (List (Bool × Nat × Byte × Byte))) :=
  if xCMPB x.block.toNat then
    match s.xFormed e p x with
    | (s1, .error er) => (s1, .error er)
    | (s1, .ok ws) => match s1.xPacked e p q ws with
      | (s2, some er) => (s2, .error er)
      | (s2, none) => (s2, .ok (some ws))
  else
    match q.elems.foldl (fun (acc : State × Option (CeCause × Nat)) j =>
        match acc with
        | (st, some er) => (st, some er)
        | (st, none) => st.xElem e p x j) (s, none) with
    | (s1, some er) => (s1, .error er)
    | (s1, none) => (s1, .ok none)

/-- Does an island of the engine, or on the way of a sector, not perform (R399)? -/
def State.xOff (s : State) (e : Nat) (p : Prog) (x : Xfer) (q : XSector) : Bool :=
  !s.islandOn (engineIsland e)
    || s.granOff e p ((q.sp, q.sec) :: ({ x with todo := [q] } : Xfer).reads (s.peekIdx e p))

/-- XFER_SECTOR: transfer idx mod 4 of a program performs the sector idx ÷ 4 of those it has left,
writes it whole and counts it down (R288). -/
def execXferSector (eng slot idx : Nat) (s : State) : Out :=
  match s.prog? eng slot with
  | none => .refused (.notEnabled "XFER_SECTOR")
  | some p =>
    match p.xfers[idx % 4]? with
    | none => .refused (.notEnabled "XFER_SECTOR")
    | some x => match x.todo[idx / 4]? with
      | none => .refused (.notEnabled "XFER_SECTOR")
      | some q =>
        if x.faulted || p.isFree || s.xHeld eng p (idx % 4) x q || s.xOff eng p x q then
          .refused (.notEnabled "XFER_SECTOR")
        else match s.xSector eng p x q with
          | (s1, .error er) => .next (s1.xFault eng slot (idx % 4) p x er)
          | (s1, .ok pk) =>
            let left := x.todo.eraseIdx (idx / 4)
            let xs := if left = [] then p.xfers.eraseIdx (idx % 4)
              else setNth p.xfers (idx % 4)
                { x with todo := left, packed := pk, busy := s1.xBusy eng p x q left }
            let s2 := s1.setProg eng slot { p with xfers := xs }
            let s3 := match x.bar, p.owner.gang with
              | some bar, some g => s2.modBar g bar true (fun y => y.count (xCNT x.block.toNat))
              | _, _ => s2
            .next (if p.st = 3 || p.st = 8 then s3.ceSettle eng slot else s3)

end Sys2Proof.Machine
end

