-- ==== Sys2Proof/Machine/CopyCmd.lean ====
section
/-! DEFINITION. The commands of the copy engines (R276-R282, R289, R290): integer commands, control,
scalar memory, descriptors, and synchronisation. -/

namespace Sys2Proof.Machine

/-! ## Integer commands (R276, R277) -/

def shl64 (a b : W64) : W64 := if 64 ≤ b.toNat then 0 else a <<< b.toNat
def shr64 (a b : W64) : W64 := if 64 ≤ b.toNat then 0 else a >>> b.toNat
def sar64 (a b : W64) : W64 := a.sshiftRight (if 64 ≤ b.toNat then 63 else b.toNat)
def min64 (a b : W64) : W64 := if b.slt a then b else a
def max64 (a b : W64) : W64 := if a.slt b then b else a

/-- E[d] := v, and the program goes on. -/
def ceSet (s : State) (d : BitVec 5) (len : Nat) (f : Prog → W64) : Out :=
  onProg s (fun e slot p => ceNext s e slot (p.setE d.toNat (f p)) len)

def ce3 (o : Ce3) (s : State) (f : W64 → W64 → W64) : Out :=
  ceSet s o.d 4 (fun p => f (p.getE o.a.toNat) (p.getE o.b.toNat))
def ceImm (o : CeI) (s : State) (f : W64 → W64 → W64) : Out :=
  ceSet s o.d 4 (fun p => f (p.getE o.a.toNat) (o.i.signExtend 64))
def ceExt (o : CeX) (s : State) (f : W64 → W64 → W64) : Out :=
  ceSet s o.d 8 (fun p => f (p.getE o.a.toNat) (o.x.signExtend 64))

def execCeAdd (o : Ce3) (s : State) : Out := ce3 o s (fun a b => a + b)
def execCeAddImm (o : CeI) (s : State) : Out := ceImm o s (fun a b => a + b)
def execCeAddExt (o : CeX) (s : State) : Out := ceExt o s (fun a b => a + b)
def execCeSub (o : Ce3) (s : State) : Out := ce3 o s (fun a b => a - b)
def execCeSubImm (o : CeI) (s : State) : Out := ceImm o s (fun a b => a - b)
def execCeSubExt (o : CeX) (s : State) : Out := ceExt o s (fun a b => a - b)
def execCeMul (o : Ce3) (s : State) : Out := ce3 o s (fun a b => a * b)
def execCeMulImm (o : CeI) (s : State) : Out := ceImm o s (fun a b => a * b)
def execCeMulExt (o : CeX) (s : State) : Out := ceExt o s (fun a b => a * b)
def execCeAnd (o : Ce3) (s : State) : Out := ce3 o s (fun a b => a &&& b)
def execCeAndImm (o : CeI) (s : State) : Out := ceImm o s (fun a b => a &&& b)
def execCeAndExt (o : CeX) (s : State) : Out := ceExt o s (fun a b => a &&& b)
def execCeOr (o : Ce3) (s : State) : Out := ce3 o s (fun a b => a ||| b)
def execCeOrImm (o : CeI) (s : State) : Out := ceImm o s (fun a b => a ||| b)
def execCeOrExt (o : CeX) (s : State) : Out := ceExt o s (fun a b => a ||| b)
def execCeXor (o : Ce3) (s : State) : Out := ce3 o s (fun a b => a ^^^ b)
def execCeXorImm (o : CeI) (s : State) : Out := ceImm o s (fun a b => a ^^^ b)
def execCeXorExt (o : CeX) (s : State) : Out := ceExt o s (fun a b => a ^^^ b)
def execCeShl (o : Ce3) (s : State) : Out := ce3 o s (shl64)
def execCeShlImm (o : CeI) (s : State) : Out := ceImm o s (shl64)
def execCeShlExt (o : CeX) (s : State) : Out := ceExt o s (shl64)
def execCeShr (o : Ce3) (s : State) : Out := ce3 o s (shr64)
def execCeShrImm (o : CeI) (s : State) : Out := ceImm o s (shr64)
def execCeShrExt (o : CeX) (s : State) : Out := ceExt o s (shr64)
def execCeSar (o : Ce3) (s : State) : Out := ce3 o s (sar64)
def execCeSarImm (o : CeI) (s : State) : Out := ceImm o s (sar64)
def execCeSarExt (o : CeX) (s : State) : Out := ceExt o s (sar64)
def execCeMin (o : Ce3) (s : State) : Out := ce3 o s (min64)
def execCeMinImm (o : CeI) (s : State) : Out := ceImm o s (min64)
def execCeMinExt (o : CeX) (s : State) : Out := ceExt o s (min64)
def execCeMax (o : Ce3) (s : State) : Out := ce3 o s (max64)
def execCeMaxImm (o : CeI) (s : State) : Out := ceImm o s (max64)
def execCeMaxExt (o : CeX) (s : State) : Out := ceExt o s (max64)

def execLi (d : BitVec 5) (i : BitVec 9) (s : State) : Out := ceSet s d 4 (fun _ => i.signExtend 64)
def execLiExt (d : BitVec 5) (x : BitVec 32) (s : State) : Out :=
  ceSet s d 8 (fun _ => x.signExtend 64)
def execLih (d : BitVec 5) (x : BitVec 32) (s : State) : Out :=
  ceSet s d 8 (fun p => x ++ (p.getE d.toNat).extractLsb' 0 32)

/-- L[k] (R272): INDEX below, COUNT above. -/
def Prog.getL (p : Prog) (k : Nat) : W64 := p.l.getD k 0
def Prog.setL (p : Prog) (k index count : Nat) : Prog :=
  { p with l := p.l.set k 0 (BitVec.ofNat 64 (index % 2 ^ 32 + count % 2 ^ 32 * 2 ^ 32)) }

def execGetl (d : BitVec 5) (k : BitVec 2) (s : State) : Out :=
  ceSet s d 4 (fun p => ((p.getL k.toNat).extractLsb' 0 32).setWidth 64)

/-! ## Control (R278, R279) -/

/-- CPC := v. -/
def ceJump (s : State) (e slot : Nat) (p : Prog) (pc : W64) : Out :=
  .next (s.setProg e slot { p with cpc := pc })

/-- A branch: to CPC + 4 × off when the condition holds, else to the next command. -/
def ceBranchTo (s : State) (len : Nat) (off : W64) (cond : Prog → Bool) : Out :=
  onProg s (fun e slot p =>
    if cond p then ceJump s e slot p (p.cpc + off * 4) else ceNext s e slot p len)

/-- Operand b of a branch: E[b], or sext64 of the field. -/
def brOperand (p : Prog) (imm : Bool) (b : BitVec 5) : W64 :=
  if imm then b.signExtend 64 else p.getE b.toNat

def ceBr (o : CeBr) (imm : Bool) (s : State) (f : W64 → W64 → Bool) : Out :=
  ceBranchTo s 4 (o.off.signExtend 64) (fun p => f (p.getE o.a.toNat) (brOperand p imm o.b))
def ceBrX (o : CeBrX) (s : State) (f : W64 → W64 → Bool) : Out :=
  ceBranchTo s 8 (o.x.signExtend 64) (fun p => f (p.getE o.a.toNat) (brOperand p o.imm o.b))

def execBeq (o : CeBr) (s : State) : Out := ceBr o false s (fun a b => decide (a = b))
def execBeqImm (o : CeBr) (s : State) : Out := ceBr o true s (fun a b => decide (a = b))
def execBeqExt (o : CeBrX) (s : State) : Out := ceBrX o s (fun a b => decide (a = b))
def execBne (o : CeBr) (s : State) : Out := ceBr o false s (fun a b => decide (a ≠ b))
def execBneImm (o : CeBr) (s : State) : Out := ceBr o true s (fun a b => decide (a ≠ b))
def execBneExt (o : CeBrX) (s : State) : Out := ceBrX o s (fun a b => decide (a ≠ b))
def execBlt (o : CeBr) (s : State) : Out := ceBr o false s (fun a b => a.slt b)
def execBltImm (o : CeBr) (s : State) : Out := ceBr o true s (fun a b => a.slt b)
def execBltExt (o : CeBrX) (s : State) : Out := ceBrX o s (fun a b => a.slt b)
def execBge (o : CeBr) (s : State) : Out := ceBr o false s (fun a b => !a.slt b)
def execBgeImm (o : CeBr) (s : State) : Out := ceBr o true s (fun a b => !a.slt b)
def execBgeExt (o : CeBrX) (s : State) : Out := ceBrX o s (fun a b => !a.slt b)
def execBltu (o : CeBr) (s : State) : Out := ceBr o false s (fun a b => a.ult b)
def execBltuImm (o : CeBr) (s : State) : Out := ceBr o true s (fun a b => a.ult b)
def execBltuExt (o : CeBrX) (s : State) : Out := ceBrX o s (fun a b => a.ult b)
def execBgeu (o : CeBr) (s : State) : Out := ceBr o false s (fun a b => !a.ult b)
def execBgeuImm (o : CeBr) (s : State) : Out := ceBr o true s (fun a b => !a.ult b)
def execBgeuExt (o : CeBrX) (s : State) : Out := ceBrX o s (fun a b => !a.ult b)

def execJmp (off : BitVec 14) (s : State) : Out :=
  ceBranchTo s 4 (off.signExtend 64) (fun _ => true)
def execJmpExt (x : BitVec 32) (s : State) : Out :=
  ceBranchTo s 8 (x.signExtend 64) (fun _ => true)

/-- LOOP (R279): an IMM9 of 0 faults with CE.ILLEGAL. -/
def ceLoop (k : BitVec 2) (i : BitVec 9) (len : Nat) (s : State) (count : Prog → Nat) : Out :=
  onProg s (fun e slot p =>
    if i = 0 then ceFault s e slot p .illegal 0 0 []
    else
      let p1 := p.setL k.toNat 0 (count p)
      if count p = 0 then ceJump s e slot p1 (p.cpc + BitVec.ofNat 64 (4 * i.toNat + 4))
      else ceNext s e slot p1 len)

def execLoop (k : BitVec 2) (a : BitVec 5) (i : BitVec 9) (s : State) : Out :=
  ceLoop k i 4 s (fun p => (p.getE a.toNat).toNat % 2 ^ 32)
def execLoopImm (k : BitVec 2) (x : BitVec 32) (i : BitVec 9) (s : State) : Out :=
  ceLoop k i 8 s (fun _ => x.toNat)

def execEndl (k : BitVec 2) (i : BitVec 9) (s : State) : Out :=
  onProg s (fun e slot p =>
    if i = 0 then ceFault s e slot p .illegal 0 0 []
    else
      let v := (p.getL k.toNat).toNat
      let index := (v + 1) % 2 ^ 32
      let p1 := p.setL k.toNat index (v / 2 ^ 32)
      if index < v / 2 ^ 32 then ceJump s e slot p1 (p.cpc - BitVec.ofNat 64 (4 * i.toNat))
      else ceNext s e slot p1 4)

/-! ## Scalar memory (R280) -/

/-- An address: base, index times size, and displacement. -/
def ceAddr (p : Prog) (a : BitVec 5) (b : Option (BitVec 5)) (x : Option (BitVec 32)) (sz : Nat) : Nat :=
  let i : W64 := (b.map (fun r => p.getE r.toNat * BitVec.ofNat 64 sz)).getD 0
  let d : W64 := (x.map (fun v => v.signExtend 64)).getD 0
  (p.getE a.toNat + i + d).toNat

def ldSize (o : CeMem) : Nat := 2 ^ o.z.toNat

def ceLen (x : Option (BitVec 32)) : Nat := if x.isSome then 8 else 4

/-- Must an access of the program by a scalar command wait for a transfer in flight (R291)? -/
def State.memBusy (s : State) (e : Nat) (p : Prog) (wr : Bool) (o : CeMem) : Bool :=
  let gs := granules o.sp (spAddr o.sp (ceAddr p o.a o.b o.x (ldSize o))) (ldSize o)
  s.xferHolds e p wr gs || s.granOff e p gs

/-- LD: waits for a transfer in flight that writes a granule it reads (R291). -/
def ceLoad (o : CeMem) (s : State) : Out :=
  onProg s (fun e slot p =>
    let a := ceAddr p o.a o.b o.x (ldSize o)
    if s.memBusy e p false o then stall s
    else match s.progRead e p o.sp a (ldSize o) (ldSize o) with
      | (s1, .error er) => ceFault s1 e slot p er.1 er.2 0 []
      | (s1, .ok bs) =>
        let v := natOf bs
        let x := if o.sx then intCode 64 (sgnN v (8 * (ldSize o))) else v
        ceNext s1 e slot (p.setE o.d.toNat (BitVec.ofNat 64 x)) (ceLen o.x))

def execLd (o : CeMem) (s : State) : Out := ceLoad o s
def execLdBase (o : CeMem) (s : State) : Out := ceLoad o s
def execLdDisp (o : CeMem) (s : State) : Out := ceLoad o s

/-- ST: waits for a transfer in flight that reads or writes a granule it writes (R291). -/
def ceStore (o : CeMem) (s : State) : Out :=
  onProg s (fun e slot p =>
    let a := ceAddr p o.a o.b o.x (ldSize o)
    if s.memBusy e p true o then stall s
    else match s.progWrite e p o.sp false a (ldSize o) (bytesOf (ldSize o) (p.getE o.d.toNat).toNat) with
      | (s1, some er) => ceFault s1 e slot p er.1 er.2 0 []
      | (s1, none) => ceNext s1 e slot p (ceLen o.x))

def execSt (o : CeMem) (s : State) : Out := ceStore o s
def execStBase (o : CeMem) (s : State) : Out := ceStore o s
def execStDisp (o : CeMem) (s : State) : Out := ceStore o s

/-! ## Descriptors (R281, R282) -/

def Prog.setD (p : Prog) (k : Nat) (v : BitVec 512) : Prog := { p with d := p.d.set k 0 v }

/-- Must a descriptor load wait for a transfer in flight (R291)? -/
def State.dldBusy (s : State) (e : Nat) (p : Prog) (o : CeDld) : Bool :=
  let gs := granules o.sp (spAddr o.sp (ceAddr p o.a o.b o.x 64)) 64
  s.xferHolds e p false gs || s.granOff e p gs

/-- DLD: 64 bytes, 16-byte aligned, not validated. -/
def ceDescLoad (o : CeDld) (s : State) : Out :=
  onProg s (fun e slot p =>
    let a := ceAddr p o.a o.b o.x 64
    if s.dldBusy e p o then stall s
    else match s.progRead e p o.sp a 64 16 with
      | (s1, .error er) => ceFault s1 e slot p er.1 er.2 0 []
      | (s1, .ok bs) =>
        ceNext s1 e slot (p.setD o.k.toNat (BitVec.ofNat 512 (natOf bs))) (ceLen o.x))

def execDld (o : CeDld) (s : State) : Out := ceDescLoad o s
def execDldBase (o : CeDld) (s : State) : Out := ceDescLoad o s
def execDldDisp (o : CeDld) (s : State) : Out := ceDescLoad o s

/-- The place of a field of a descriptor by its code: lowest bit and width (R87, R281). -/
def descField (f : Nat) : Option (Nat × Nat) :=
  match f with
  | 0 => some (0, 64)
  | 1 => some (64, 64)
  | 13 => some (500, 4)
  | 14 => some (504, 3)
  | 15 => some (507, 3)
  | 16 => some (510, 2)
  | _ =>
    if 2 ≤ f ∧ f ≤ 7 then some (128 + 32 * (f - 2), 32)
    else if 8 ≤ f ∧ f ≤ 12 then some (320 + 36 * (f - 8), 36)
    else none

/-- Replace n bits of a descriptor from lo. -/
def setBits (x : BitVec 512) (lo n v : Nat) : BitVec 512 :=
  (x &&& ~~~(BitVec.ofNat 512 ((2 ^ n - 1) * 2 ^ lo))) ||| BitVec.ofNat 512 (v % 2 ^ n * 2 ^ lo)

def ceDset (k : BitVec 3) (f : BitVec 5) (len : Nat) (s : State) (v : Prog → W64) : Out :=
  onProg s (fun e slot p =>
    match descField f.toNat with
    | none => ceFault s e slot p .unimpl 0 0 []
    | some (lo, n) =>
      ceNext s e slot (p.setD k.toNat (setBits (p.d.getD k.toNat 0) lo n (v p).toNat)) len)

def execDset (k : BitVec 3) (f a : BitVec 5) (s : State) : Out :=
  ceDset k f 4 s (fun p => p.getE a.toNat)
def execDsetExt (k : BitVec 3) (f : BitVec 5) (x : BitVec 32) (s : State) : Out :=
  ceDset k f 8 s (fun _ => x.signExtend 64)

/-- The coordinates of an `ADDR`: 64-bit values of E registers (R282). -/
def Prog.addrCoords (p : Prog) (a : BitVec 5) (t : TDesc) : List Nat :=
  (List.range t.rank).map (fun i => (p.getE (a.toNat + i)).toNat)

/-- The index entry that an `ADDR` reads, if it reads one: its descriptor is valid and indirect, and no
checked coordinate is out of bounds (R282). -/
def Prog.addrIndex (p : Prog) (a : BitVec 5) (k : BitVec 3) (chk : Bool) : Option (Nat × Nat) :=
  let t := TDesc.ofNat (p.d.getD k.toNat 0).toNat
  let cs := p.addrCoords a t
  if !t.valid || decide (32 < a.toNat + t.rank) || t.ind = 0
      || (chk && (List.range t.rank).any (fun i => decide (t.extent i ≤ nth cs i 0))) then none
  else some (t.idxAddr (nth cs t.ind 0), t.ibytes)

/-- Must an `ADDR` wait for a transfer in flight (R291)? -/
def State.addrBusy (s : State) (e : Nat) (p : Prog) (a : BitVec 5) (k : BitVec 3) (chk : Bool) : Bool :=
  (p.addrIndex a k chk).any (fun q => s.xferHolds e p false (granules false q.1 q.2)
    || s.granOff e p (granules false q.1 q.2))

/-- ADDR (R282). -/
def execAddr (d a : BitVec 5) (k : BitVec 3) (chk : Bool) (s : State) : Out :=
  onProg s (fun e slot p =>
    let t := TDesc.ofNat (p.d.getD k.toNat 0).toNat
    if s.addrBusy e p a k chk then stall s
    else if !t.valid || decide (32 < a.toNat + t.rank) then ceFault s e slot p .descInvalid 0 0 []
    else
      let cs := p.addrCoords a t
      if chk && (List.range t.rank).any (fun i => decide (t.extent i ≤ nth cs i 0)) then
        ceNext s e slot (p.setE d.toNat (BitVec.allOnes 64)) 4
      else
        let done := fun (st : State) (j : Nat) =>
          ceNext st e slot (p.setE d.toNat (BitVec.ofNat 64 (t.addrOf (t.elemNo cs j)).1)) 4
        if t.ind = 0 then done s 0
        else
          let ia := t.idxAddr (nth cs t.ind 0)
          match s.progRead e p false ia t.ibytes t.ibytes with
          | (s1, .error er) => ceFault s1 e slot p er.1 er.2 0 []
          | (s1, .ok bs) => done s1 (natOf bs))

/-! ## Synchronisation (R289, R292) -/

/-- Has the program a transfer in flight? -/
def Prog.inFlight (p : Prog) : Bool := p.xfers.any (fun x => !x.faulted)

/-- The barrier offset in E[a], checked as check 6 of R284. FADDR of CE.BAR is the offset, and of CE.SPACE 0
(log 33). -/
def barOperand (s : State) (p : Prog) (a : BitVec 5) : Except (CeCause × Nat) (Nat × Nat × Bar) :=
  let v := (p.getE a.toNat).toNat % 2 ^ 32
  let off := if v = 0xFFFFFFFF then p.dbar.toNat else v
  match p.owner.gang with
  | none => .error (.space, 0)
  | some g =>
    if off = 0xFFFFFFFF then .error (.bar, 0)
    else match (s.gangs.find g).filter (fun x => x.barOk off) with
      | some x => .ok (g, off, x.bar off)
      | none => .error (.bar, off)

/-- Must a `WAITX` wait for a transfer in flight that writes its object (R291)? -/
def State.waitxBusy (s : State) (e : Nat) (p : Prog) (a : BitVec 5) : Bool :=
  match barOperand s p a with
  | .ok (_, off, _) => s.xferHolds e p false (granules true off 16)
  | .error _ => false

/-- WAITX: as BAR.WAIT, with the token given or the current generation. -/
def ceWaitx (d a : BitVec 5) (tok : Option (BitVec 5)) (s : State) : Out :=
  onProg s (fun e slot p =>
    match barOperand s p a with
    | .error er => ceFault s e slot p er.1 er.2 0 []
    | .ok (_, off, b) =>
      if s.waitxBusy e p a then stall s
      else
        let t := (tok.map (fun r => (p.getE r.toNat).toNat % 16)).getD b.gen
        let done := fun (v : Nat) =>
          ceNext (s.acquire (s.progObs e p)) e slot (p.setE d.toNat (BitVec.ofNat 64 v)) 4
        if b.status != 0 then done b.status
        else if b.gen != t then done 0
        else
          let p1 := { p with st := 2, waitObj := off, waitGen := t, waitReg := d.toNat,
                             ord := s.nextOrder }
          .next { s.setProg e slot p1 with nextOrder := s.nextOrder + 1 })

def execWaitx (o : Ce3) (s : State) : Out := ceWaitx o.d o.a (some o.b) s
def execWaitxCur (d a : BitVec 5) (s : State) : Out := ceWaitx d a none s

/-- ARRIVE: as BAR.ARR, once every earlier access is performed; a count of 0 faults. -/
def ceArrive (d a : BitVec 5) (n : Option (BitVec 5)) (s : State) : Out :=
  onProg s (fun e slot p =>
    if p.inFlight then stall s
    else match barOperand s p a with
    | .error er => ceFault s e slot p er.1 er.2 0 []
    | .ok (g, off, b) =>
      let c := (n.map (fun r => (p.getE r.toNat).toNat % 2 ^ 16)).getD 1
      if c = 0 then ceFault s e slot p .operand 0 0 []
      else
        let p1 := { p.setE d.toNat (BitVec.ofNat 64 b.gen) with cpc := p.cpc + 4 }
        .next (((s.release (s.progObs e p) false).setProg e slot p1).modBar g off true
          (fun y => y.arrive c)))

def execArrive (d a : BitVec 5) (s : State) : Out := ceArrive d a none s
def execArriveN (o : Ce3) (s : State) : Out := ceArrive o.d o.a (some o.b) s

/-- Write bytes of a checked access as a synchronising store, at its serialisation point (R101). -/
def State.engSync (s : State) (o : Obs) (m : EMem) (bs : List Byte) : State :=
  match m with
  | .scr _ => s
  | .glb ps => s.writePieces o .place ps bs

/-- SIG: an 8-byte `.rel` store to global memory, performed at the word's serialisation point (R101). A page
of scope PART or wider makes the release host-visible (R119). It waits for the islands on its way (R399). -/
def execSig (a b : BitVec 5) (s : State) : Out :=
  onProg s (fun e slot p =>
    let at_ := (p.getE a.toNat).toNat
    let o := s.progObs e p
    if p.inFlight || !s.slicesOn o [(at_, 8)] then stall s
    else match s.engCheck o (s.progGang p) false .write true at_ 8 8 with
      | (s1, .error er) => ceFault s1 e slot p er.1 er.2 0 []
      | (s1, .ok m) =>
        let wide := match m with
          | .glb ps => ps.any (fun x => decide (3 ≤ x.leaf.share))
          | .scr _ => false
        ceNext ((s1.release o wide).engSync o m (bytesOf 8 (p.getE b.toNat).toNat)) e slot p 4)

/-- FENCE: every earlier access is performed; a release and an acquire point (R292). -/
def execCeFence (s : State) : Out :=
  onProg s (fun e slot p =>
    if p.inFlight then stall s
    else ceNext ((s.release (s.progObs e p) false).acquire (s.progObs e p)) e slot p 4)

def execNop (s : State) : Out := onProg s (fun e slot p => ceNext s e slot p 4)

/-- GSUB (R290): as GTHR or SCTR. Until a unit and a footprint entry are free the program waits, and
its job stands unaccepted. FADDR of its CE.SPACE is E[RA], and of CE.GSUB 0 (log 33). -/
def execGsub (a : BitVec 5) (sctr : Bool) (s : State) : Out :=
  onProg s (fun e slot p =>
    if p.inFlight then stall s
    else match s.progGang p with
    | none => ceFault s e slot p .space (p.getE a.toNat).toNat 0 []
    | some g =>
      let off := (p.getE a.toNat).toNat % 2 ^ 32
      let b := g.scrNat off 64
      if !(off % 16 = 0 && g.inBounds off 64 && gBlockOk g b sctr) then
        ceFault s e slot p .gsub 0 0 []
      else
        let s1 := s.release (s.progObs e p) false
        let j := GJob.fresh p.owner s.nextJob e b sctr
        let s2 := { s1 with nextJob := s.nextJob + 1 }
        match s.freeUnit (engineDie e) with
        | some u =>
          if s.fpRoom e (gRanges b sctr) then
            .next ((s2.setProg e slot { p with cpc := p.cpc + 4 }).gAccept j u)
          else .next { s2.setProg e slot { p with st := 5 } with
            gjobs := s2.gjobs ++ [{ j with prog := some (e, slot) }] }
        | none => .next { s2.setProg e slot { p with st := 5 } with
            gjobs := s2.gjobs ++ [{ j with prog := some (e, slot) }] })

/-! ## The engine's turn (R273) -/

/-- Would a command stand still: its operands are not available, or a limit of R291 holds it? -/
def State.ceBusy (s : State) (e : Nat) (p : Prog) : Instr → Bool
  | .ld o => s.memBusy e p false o
  | .ldBase o => s.memBusy e p false o
  | .ldDisp o => s.memBusy e p false o
  | .st o => s.memBusy e p true o
  | .stBase o => s.memBusy e p true o
  | .stDisp o => s.memBusy e p true o
  | .dld o => s.dldBusy e p o
  | .dldBase o => s.dldBusy e p o
  | .dldDisp o => s.dldBusy e p o
  | .addr _ a k chk => s.addrBusy e p a k chk
  | .xfer a sp => s.xferBusy e p sp (spAddr sp (p.getE a.toNat).toNat)
  | .waitx o => s.waitxBusy e p o.a
  | .waitxCur _ a => s.waitxBusy e p a
  | .arrive _ _ => p.inFlight
  | .arriveN _ => p.inFlight
  | .sig _ _ => p.inFlight
  | .ceFence => p.inFlight
  | .gsub _ _ => p.inFlight
  | .halt => p.inFlight
  | _ => false

/-- Is a program's next command ready to issue (R273)? Its fetch waits for the islands on its way (R399). -/
def State.ceReady (s : State) (e : Nat) (p : Prog) : Bool :=
  s.mayIssue p && s.slicesOn (s.progObs e p) [(p.cpc.toNat, 8)] && !s.ceBusy e p (s.ceFetch e p).2

/-- An engine's turn: its next ready program's command, with the program at its turn; none when no
program is ready. -/
def State.engineTurn (s : State) (e : Nat) : State × Option Instr :=
  match (if s.islandOn (engineIsland e) then (s.engine e).nextSlot (s.ceReady e) else none) with
  | none => (s, none)
  | some (slot, p) =>
    let x := s.engine e
    let s1 := { s.setEngine e { x with last := slot } with curE := some (e, slot) }
    let (s2, i) := s1.ceFetch e p
    (s2, some i)

end Sys2Proof.Machine
end

