-- ==== Sys2Proof/Machine/Filigree.lean ====
section
/-! DEFINITION. Filigree (R263-R271): the FG instructions, which append commands, and the commands as the
die's array executes them. -/

namespace Sys2Proof.Machine

/-! ## Appending (R264) -/

/-- Commands that a die's list holds (R264). -/
def fgListSize : Nat := 16

/-- Does the context of a wave own the Filigree of its die (R19)? -/
def State.fgOwns (s : State) (k : Nat) (w : Wave) : Bool :=
  (s.die (coreDie (slotCore k))).fil.owner = s.ctxOf w && s.ctxOf w != 0

/-- The array with a gang among its users; a first user finds nothing kept for another (R271, log 111). -/
def Filigree.use (f : Filigree) (gang : Nat) : Filigree :=
  { f with
    users := if f.users.contains gang then f.users else f.users ++ [gang]
    kept := if f.users.isEmpty then [] else f.kept }

/-- An FG instruction: its checks, the release, and the append; `align` is what G[A] must be a multiple
of. It waits for the wave's earlier accesses before it reads the queue's header, which one of them may write
(R104, R108). The release point comes once: an instruction that re-issues after a wait for room keeps its segment
(R43, R96, R114). SEQ counts from the grant of the die's Filigree to the context (log 101). -/
def fgAppend (i : Instr) (o : WOp) (s : State) (name : String) (fn align : Nat) : Out :=
  onGang s o name (fun k w g =>
    let die := coreDie (slotCore k)
    let ga := w.greg o.a.toNat
    if !s.fgOwns k w then illegalOp s k w 0 7
    else if s.relBusy k then stall s
    else match w.queue g o.b.toNat (some 0) with
      | none => illegalField s k w 40
      | some off =>
        if ga.toNat % align != 0 then illegalField s k w 32
        else
          let s1 := if w.pointed then s else s.releasePoint k w false
          let fil := (s1.die die).fil
          if fgListSize ≤ fil.cmds.length then .next (s1.waitOn k { w with pointed := true } .fgList die 0 i)
          else
            let c : FgCmd := ⟨fn, ga, w.greg o.c.toNat, o.m.getLsbD 0, off, fil.appended % 2 ^ 32,
              s1.ownerOf k w g, none, if fn = 5 then ga.toNat % 2 ^ 32 else 0, 0⟩
            let s2 := s1.modDie die (fun d => { d with
              fil := { d.fil.use w.gang with
                cmds := d.fil.cmds ++ [c], appended := d.fil.appended + 1 } })
            .next (s2.retire k { w with pointed := false } o.len))

def execFgCfg (o : WOp) (s : State) : Out := fgAppend (.fgCfg o) o s "FG_CFG" 0 1
def execFgLoad (o : WOp) (s : State) : Out := fgAppend (.fgLoad o) o s "FG_LOAD" 1 128
def execFgSeed (o : WOp) (s : State) : Out := fgAppend (.fgSeed o) o s "FG_SEED" 2 1
def execFgClamp (o : WOp) (s : State) : Out := fgAppend (.fgClamp o) o s "FG_CLAMP" 3 1
def execFgFree (o : WOp) (s : State) : Out := fgAppend (.fgFree o) o s "FG_FREE" 4 1
def execFgSweep (o : WOp) (s : State) : Out := fgAppend (.fgSweep o) o s "FG_SWEEP" 5 1
def execFgRead (o : WOp) (s : State) : Out := fgAppend (.fgRead o) o s "FG_READ" 6 8
def execFgCnt (o : WOp) (s : State) : Out := fgAppend (.fgCnt o) o s "FG_CNT" 7 2

/-! ## The array (R263, R265) -/

/-- A p-bit of a fresh configuration (R266). -/
def PBit.init : PBit := ⟨false, 0, [], 0, false, 0⟩

def Filigree.bit (f : Filigree) (i : Nat) : PBit := f.bits.getD i PBit.init
def Filigree.setBit (f : Filigree) (i : Nat) (b : PBit) : Filigree :=
  { f with bits := f.bits.set i PBit.init b }

/-- The command at the head of a list completes with a status and detail. -/
def Filigree.finish (f : Filigree) (st detail : Nat) : Filigree :=
  match f.cmds with
  | c :: t => { f with cmds := { c with status := some (st, detail) } :: t }
  | [] => f

/-- Is the gang of a command about to be pre-empted, which stops the array at a colour's end (R271)? -/
def State.fgStopping (s : State) (c : FgCmd) : Bool :=
  match c.owner.gang.bind (fun n => s.gangs.find n) with
  | some g => g.phase = .stopping
  | none => false

/-- The island of a die's Filigree (R396). -/
def filIsland (die : Nat) : Nat := 240 * die + 232

/-- The bytes that a load, a read or a count touches (R267, R270). -/
def Filigree.touches (f : Filigree) (c : FgCmd) : List (Nat × Nat) :=
  match c.fn with
  | 1 => [(c.ga.toNat, 128 * f.nb)]
  | 6 => [(c.ga.toNat, (fld c.gc.toNat 16 17 + 63) / 64 * 8)]
  | 7 => [(c.ga.toNat, 2 * fld c.gc.toNat 16 17)]
  | _ => []

/-- The observer that a Filigree is, for a command (R265). -/
def State.fgObs (s : State) (die : Nat) (c : FgCmd) : Obs := { s.jobObs c.owner die with slot := none }

/-- Do the island of a die's array, and those on the way of a command, perform (R399)? -/
def State.fgOn (s : State) (die : Nat) (c : FgCmd) : Bool :=
  s.islandOn (filIsland die) && s.slicesOn (s.fgObs die c) ((s.die die).fil.touches c)

/-- Run the command at the head of a die's list, when it has this function and has not completed, and the
islands perform (R399): STATUS 1 comes first while no configuration is in force (R265). -/
def onFg (s : State) (die fn : Nat) (name : String) (f : Filigree → FgCmd → Out) : Out :=
  let fil := (s.die die).fil
  match fil.cmds with
  | c :: _ =>
    if c.fn = fn && c.status.isNone && !s.fgStopping c && s.fgOn die c then
      if fn != 0 && fil.nb = 0 then
        .next (s.modDie die (fun d => { d with fil := fil.finish 1 0 }))
      else f fil c
    else .refused (.notEnabled name)
  | [] => .refused (.notEnabled name)

/-- The array as a command leaves it. -/
def State.setFil (s : State) (die : Nat) (f : Filigree) : State := s.modDie die (fun d => { d with fil := f })

/-- The configuration word (R266): NB, NCOL, DET and BETA. -/
def fgConfig (x : Nat) : Option (Nat × Nat × Bool × BitVec 16) :=
  let nb := fld x 0 17
  if nb = 0 || decide (65536 < nb) || fld x 22 10 != 0 || fld x 48 16 != 0 then none
  else some (nb, fld x 17 4 + 1, bitN x 21, BitVec.ofNat 16 (fld x 32 16))

def execFilExecCfg (die : Nat) (s : State) : Out :=
  onFg s die 0 "FIL_EXEC_CFG" (fun f c =>
    match fgConfig c.ga.toNat with
    | none => .next (s.setFil die (f.finish 2 0))
    | some (nb, ncol, det, beta) =>
      .next (s.setFil die { f.finish 0 0 with
        nb := nb, ncol := ncol, det := det, beta := beta, sweep := 0, bits := [] }))

/-- FG.FREE ends the configuration; KEY stays (R266). -/
def execFilExecFree (die : Nat) (s : State) : Out :=
  onFg s die 4 "FIL_EXEC_FREE" (fun f _ =>
    .next (s.setFil die { f.finish 0 0 with
      nb := 0, ncol := 0, det := false, beta := 0, sweep := 0, bits := [] }))

def execFilExecSeed (die : Nat) (s : State) : Out :=
  onFg s die 2 "FIL_EXEC_SEED" (fun f c =>
    .next (s.setFil die { f.finish 0 0 with key := c.ga, sweep := 0 }))

def execFilExecClamp (die : Nat) (s : State) : Out :=
  onFg s die 3 "FIL_EXEC_CLAMP" (fun f c =>
    let x := c.ga.toNat
    let i := fld x 0 16
    if fld x 18 46 != 0 || decide (f.nb ≤ i) then .next (s.setFil die (f.finish 2 0))
    else
      let b := f.bit i
      let b1 : PBit := if bitN x 17 then { b with s := bitN x 16, clamp := true }
        else { b with clamp := false }
      .next (s.setFil die ((f.finish 0 0).setBit i b1)))

/-! ## Loading (R267) -/

/-- A record of the coupling table: the bit it describes, when it is well formed on its own. -/
def fgRecord (nb ncol x : Nat) : Option PBit :=
  let n := fld x 24 8
  let nbr := (List.range 32).map (fun j => fld x (64 + 16 * j) 16)
  let wt := (List.range 32).map (fun j => BitVec.ofNat 8 (fld x (576 + 8 * j) 8))
  let colour := fld x 16 4
  if fld x 21 3 != 0 || fld x 32 32 != 0 || fld x 832 192 != 0 || decide (32 < n)
      || (nbr.drop n).any (· != 0) || (wt.drop n).any (· != 0)
      || (nbr.take n).any (fun j => decide (nb ≤ j)) || decide (ncol ≤ colour) then none
  else some ⟨bitN x 20, BitVec.ofNat 16 (fld x 0 16), (nbr.take n).zip (wt.take n), colour, false, 0⟩

/-- The colour field of a record. -/
def fgColour (x : Nat) : Nat := fld x 16 4

/-- The lowest faulting record, or the bits (R267). -/
def fgTable (nb ncol : Nat) (xs : List Nat) : Except Nat (List PBit) :=
  let rs := xs.map (fgRecord nb ncol)
  let bad := (List.range xs.length).find? (fun i => match nth rs i none with
    | none => true
    | some b => b.cpl.any (fun c => fgColour (nth xs c.1 0) = b.colour))
  match bad with
  | some i => .error i
  | none => .ok (rs.filterMap id)

/-- Cut bytes into records of 128. -/
def fgRecords : Nat → List Byte → List Nat
  | 0, _ => []
  | n + 1, bs => natOf (bs.take 128) :: fgRecords n (bs.drop 128)

def execFilExecLoad (die : Nat) (s : State) : Out :=
  onFg s die 1 "FIL_EXEC_LOAD" (fun f c =>
    match s.readG (s.fgObs die c) .die false c.ga.toNat (128 * f.nb) with
    | (s1, .error _) => .next (s1.setFil die (f.finish 4 0))
    | (s1, .ok bs) =>
      match fgTable f.nb f.ncol (fgRecords f.nb bs) with
      | .error i => .next (s1.setFil die (f.finish 3 i))
      | .ok bits =>
        .next (s1.setFil die { f.finish 0 0 with
          bits := (bits.zipIdx).foldl (fun (m : Map PBit) p => m.set p.2 PBit.init p.1) [] }))

/-! ## Sweeps (R268, R269) -/

/-- One round of Philox4x32 (log 13). -/
def philoxRound (k : Nat × Nat) (c : Nat × Nat × Nat × Nat) : Nat × Nat × Nat × Nat :=
  let p0 := 0xD2511F53 * c.1
  let p1 := 0xCD9E8D57 * c.2.2.1
  ((p1 / 2 ^ 32 ^^^ c.2.1 ^^^ k.1), p1 % 2 ^ 32, (p0 / 2 ^ 32 ^^^ c.2.2.2 ^^^ k.2), p0 % 2 ^ 32)

/-- n rounds, the key bumped between them. -/
def philox : Nat → Nat × Nat → Nat × Nat × Nat × Nat → Nat × Nat × Nat × Nat
  | 0, _, c => c
  | n + 1, k, c => philox n ((k.1 + 0x9E3779B9) % 2 ^ 32, (k.2 + 0xBB67AE85) % 2 ^ 32) (philoxRound k c)

/-- The random source of a bit in DET mode. -/
def fgRandom (key sweep i colour : Nat) : Nat :=
  let r := philox 10 (key % 2 ^ 32, key / 2 ^ 32) (i / 8, colour, sweep % 2 ^ 32, sweep / 2 ^ 32)
  let x := r.1 + r.2.1 * 2 ^ 32 + r.2.2.1 * 2 ^ 64 + r.2.2.2 * 2 ^ 96
  fld x (16 * (i % 8)) 16

/-- e^y of y = n ÷ 65536 below 12, in fixed point: the sixteenth power of e^(y/16). -/
def expOf (n : Nat) : Nat :=
  (List.range 4).foldl (fun e _ => e * e / 2 ^ fixBits) (expFix (n * 2 ^ (fixBits - 20)))

/-- T of R268 for z = BETA × I. -/
def fgThreshold (z : Int) : Nat :=
  if 786432 ≤ z then 65536
  else if z ≤ -786432 then 0
  else
    let e := expOf z.natAbs
    let one := 2 ^ fixBits
    if 0 ≤ z then (2 ^ 17 * e + (e + one)) / (2 * (e + one))
    else (2 ^ 17 * one + (e + one)) / (2 * (e + one))

/-- The local field of a bit (R268). -/
def Filigree.field (f : Filigree) (b : PBit) : Int :=
  b.cpl.foldl (fun (acc : Int) c => acc + (if (f.bit c.1).s then c.2.toInt else -c.2.toInt)) b.h.toInt

/-- The next state of a bit, from its random number. -/
def Filigree.update (f : Filigree) (b : PBit) (u : Nat) : Bool :=
  decide (u < fgThreshold ((f.beta.toNat : Int) * f.field b))

/-- The random number of a bit of a colour, and the state after. -/
def State.fgDraw (s : State) (f : Filigree) (colour i : Nat) : State × Nat :=
  if f.det then (s, fgRandom f.key.toNat f.sweep.toNat i colour)
  else (s.tick, (Config.entropy s.free).toNat)

/-- All unclamped bits of a colour update at once. -/
def State.fgColourPass (s : State) (f : Filigree) (colour : Nat) : State × Filigree :=
  ((List.range f.nb).filter (fun i => (f.bit i).colour = colour && !(f.bit i).clamp)).foldl
    (fun (acc : State × Filigree) i =>
      let (s1, u) := acc.1.fgDraw f colour i
      (s1, acc.2.setBit i { f.bit i with s := f.update (f.bit i) u })) (s, f)

/-- The end of a sweep: counts and S. -/
def Filigree.endSweep (f : Filigree) : Filigree :=
  let f1 := (List.range f.nb).foldl (fun (x : Filigree) i =>
    let b := x.bit i
    if b.s then x.setBit i { b with count := if b.count < 65535 then b.count + 1 else 65535 } else x) f
  { f1 with sweep := f1.sweep + 1 }

/-- Change the command at the head. -/
def Filigree.modHead (f : Filigree) (g : FgCmd → FgCmd) : Filigree :=
  match f.cmds with
  | c :: t => { f with cmds := g c :: t }
  | [] => f

/-- One colour of the sweep at the head (R268, R271). -/
def execFilSweepColour (die : Nat) (s : State) : Out :=
  onFg s die 5 "FIL_SWEEP_COLOUR" (fun f c =>
    if c.ga.toNat / 2 ^ 32 != 0 || c.ga.toNat % 2 ^ 32 = 0 then .next (s.setFil die (f.finish 2 0))
    else
      let (s1, f1) := s.fgColourPass f c.colour
      if c.colour + 1 < f1.ncol then
        .next (s1.setFil die (f1.modHead (fun x => { x with colour := c.colour + 1 })))
      else
        let f2 := f1.endSweep.modHead (fun x => { x with left := c.left - 1, colour := 0 })
        .next (s1.setFil die (if c.left ≤ 1 then f2.finish 0 0 else f2)))

/-! ## Reading (R270) -/

/-- The range word: FIRST and COUNT. -/
def fgRange (nb x : Nat) : Option (Nat × Nat) :=
  let n := fld x 16 17
  if fld x 33 31 != 0 || n = 0 || decide (65536 < n) || decide (nb < fld x 0 16 + n) then none
  else some (fld x 0 16, n)

def execFilExecRead (die : Nat) (s : State) : Out :=
  onFg s die 6 "FIL_EXEC_READ" (fun f c =>
    match fgRange f.nb c.gc.toNat with
    | none => .next (s.setFil die (f.finish 2 0))
    | some (first, n) =>
      let bit := fun (j : Nat) => decide (j < n) && (f.bit (first + j)).s
      let bs := (List.range ((n + 63) / 64 * 8)).map (fun i =>
        BitVec.ofNat 8 (((List.range 8).map (fun b => if bit (8 * i + b) then 2 ^ b else 0)).foldl (· + ·) 0))
      match s.writeG (s.fgObs die c) .engine false c.ga.toNat bs with
      | (s1, some _) => .next (s1.setFil die (f.finish 4 0))
      | (s1, none) => .next (s1.setFil die (f.finish 0 0)))

def execFilExecCnt (die : Nat) (s : State) : Out :=
  onFg s die 7 "FIL_EXEC_CNT" (fun f c =>
    match fgRange f.nb c.gc.toNat with
    | none => .next (s.setFil die (f.finish 2 0))
    | some (first, n) =>
      let bs := (List.range n).flatMap (fun j => bytesOf 2 (f.bit (first + j)).count)
      match s.writeG (s.fgObs die c) .engine false c.ga.toNat bs with
      | (s1, some _) => .next (s1.setFil die (f.finish 4 0))
      | (s1, none) =>
        let f1 := if c.clr then (Machine.span first n).foldl (fun (x : Filigree) i =>
          x.setBit i { x.bit i with count := 0 }) (f.finish 0 0) else f.finish 0 0
        .next (s1.setFil die f1))

/-! ## Completions (R265) -/

/-- The completion entry of a command. -/
def FgCmd.entry (c : FgCmd) : Nat :=
  let st := c.status.getD (0, 0)
  c.fn + st.1 * 2 ^ 8 + st.2 * 2 ^ 16 + c.seq * 2 ^ 32

/-- The command at the head leaves the list, and waves that wait for room re-issue (R43). -/
def State.fgPop (s : State) (die : Nat) : State :=
  let s1 := s.modDie die (fun d => { d with fil := { d.fil with cmds := d.fil.cmds.drop 1 } })
  s1.reissueAll (fun _ x => x.kind = .fgList && x.obj = die)

/-- The completion of the head command is pushed, a release on behalf of the Filigree (R98, R265); it
waits while the queue has no allowance, its header cannot be used (log 46), or the island does not
perform (R399). -/
def execFilCompletionPush (die : Nat) (s : State) : Out :=
  match (s.die die).fil.cmds with
  | [] => .refused (.notEnabled "FIL_COMPLETION_PUSH")
  | c :: _ =>
    match c.status, c.owner.gang with
    | some _, some gk =>
      match s.gangs.find gk with
      | none => .next (s.fgPop die)
      | some g =>
        if g.queOk c.queue (some 0) && decide (0 < (g.que c.queue).allow) && s.islandOn (filIsland die) then
          let s1 := (s.release (s.fgObs die c) false).setGang gk (g.pushEntries c.queue [c.entry])
          .next ((s1.fgPop die).qretry gk c.queue)
        else .refused (.notEnabled "FIL_COMPLETION_PUSH")
    | _, _ => .refused (.notEnabled "FIL_COMPLETION_PUSH")

end Sys2Proof.Machine
end

