-- ==== Sys2Proof/Machine/Deal.lean ====
section
/-! DEFINITION. Clasp's deal (R12, R15, R16, R340-R342): the positions of a gang size, what a core has to
lend, and the position that takes a gang. -/

namespace Sys2Proof.Machine

/-! ## What a core lends (R14, R15, R16) -/

/-- What is in use on a core: waves and register bytes by quarter, scratch bytes, gangs, and whether the
cluster's L1s are fused. -/
structure Occ where
  waves : List Nat
  bytes : List Nat
  scr : Nat
  gangs : Nat
  fused : Bool
  deriving DecidableEq, Repr, Inhabited

/-- An empty core. -/
def Occ.none : Occ := ⟨[0, 0, 0, 0], [0, 0, 0, 0], 0, 0, false⟩

/-- Register bytes of a wave of a kernel. -/
def KDesc.waveBytes (k : KDesc) : Nat := k.vregs * (if k.w64 then 64 else 32) * 4

/-- Scratch bytes of a workgroup (R14). -/
def KDesc.scr (k : KDesc) : Nat := k.scrkb * 1024

/-- The quarter with the most free register bytes, the lowest on a tie. -/
def Occ.base (o : Occ) : Nat := (minBy (fun q => nth o.bytes q 0) (List.range 4)).getD 0

/-- Add n to an entry of a list. -/
def bump (l : List Nat) (i n : Nat) : List Nat := setNth l i (nth l i 0 + n)

/-- A core with some waves of a workgroup placed: wave w on quarter (b + w) mod 4. -/
def Occ.addWg (o : Occ) (k : KDesc) (ws : List Nat) : Occ :=
  let b := o.base
  let r := ws.foldl (fun (x : Occ) w =>
    { x with waves := bump x.waves ((b + w) % 4) 1, bytes := bump x.bytes ((b + w) % 4) k.waveBytes }) o
  { r with scr := o.scr + k.scr, gangs := o.gangs + 1, fused := o.fused || k.l1fuse }

/-- Does the core take some waves of a workgroup: R15, and R16 for a fused cluster? -/
def Occ.admits (o : Occ) (k : KDesc) (ws : List Nat) : Bool :=
  let y := o.addWg k ws
  y.waves.all (fun x => decide (x ≤ 16)) && y.bytes.all (fun x => decide (x ≤ 262144))
    && decide (y.scr ≤ 393216) && !o.fused && (!k.l1fuse || o.gangs = 0)

/-- What is in use on a core, some gangs left out. -/
def State.occOf (s : State) (gone : List Nat) (c : Nat) : Occ :=
  let ws := s.waves.filter (fun p => slotCore p.1 = c && !gone.contains p.2.gang)
  let gs := s.gangs.filter (fun p => p.2.cores.contains c && p.2.phase != .saved && !gone.contains p.1)
  { waves := (List.range 4).map (fun q => (ws.filter (fun p => p.2.quarter = q)).length)
    bytes := (List.range 4).map (fun q =>
      ((ws.filter (fun p => p.2.quarter = q)).map (fun p => p.2.vregs * p.2.width * 4)).sum)
    scr := (gs.map (fun p => p.2.scr)).sum
    gangs := gs.length
    fused := match (s.core c).fused with
      | some g => !gone.contains g
      | Option.none => false }

/-! ## Positions (R340) -/

/-- The positions of gangs of n workgroups on some dies: cores, pairs or clusters whose cores are all
enabled, in logical order. -/
def State.positions (s : State) (dies : List Nat) (n : Nat) : List (List Nat) :=
  dies.flatMap (fun d => (List.range (36 / n)).filterMap (fun i =>
    let cs := (List.range n).map (fun j => d * 64 + n * i + j)
    if cs.all s.enabled then some cs else Option.none))

/-- Can a position take a gang, whose workgroup on its nth core has the waves `ws n`; `m` holds the cores
already changed? -/
def takes (base : Nat → Occ) (m : Map Occ) (k : KDesc) (ws : Nat → List Nat) (cs : List Nat) : Bool :=
  (cs.zipIdx).all (fun c => (m.getD c.1 (base c.1)).admits k (ws c.2))

/-- The first position after the last that can take the gang, scanning cyclically. -/
def dealOne (base : Nat → Occ) (ok : List Nat → Bool) (ps : List (List Nat)) (k : KDesc)
    (ws : Nat → List Nat) (m : Map Occ) (last : Option Nat) : Option Nat :=
  let start := match last with
    | some p => p + 1
    | Option.none => 0
  ((List.range ps.length).map (fun i => (start + i) % ps.length)).find? (fun i =>
    ok (nth ps i []) && takes base m k ws (nth ps i []))

/-- The cores as the deal of a gang to a position leaves them. -/
def dealt (base : Nat → Occ) (k : KDesc) (ws : Nat → List Nat) (m : Map Occ) (cs : List Nat) : Map Occ :=
  (cs.zipIdx).foldl (fun (x : Map Occ) c => x.put c.1 ((x.getD c.1 (base c.1)).addWg k (ws c.2))) m

/-- The deal of a number of gangs, one after another: their positions, or none when some gang finds no
position. -/
def dealAll (base : Nat → Occ) (ok : List Nat → Bool) (ps : List (List Nat)) (k : KDesc)
    (ws : Nat → List Nat) : Nat → Map Occ → Option Nat → Option (List Nat)
  | 0, _, _ => some []
  | g + 1, m, last =>
    match dealOne base ok ps k ws m last with
    | Option.none => Option.none
    | some p =>
      (dealAll base ok ps k ws g (dealt base k ws m (nth ps p [])) (some p)).map (fun t => p :: t)

/-- The most gangs that a package can hold: 64 waves on each of 144 cores. -/
def mostGangs : Nat := 9216

/-- Can a cooperative launch ever fit, with every enabled core empty (R50, R341)? -/
def State.coopFits (s : State) (dies : List Nat) (k : KDesc) (n gangs : Nat) : Bool :=
  decide (gangs ≤ mostGangs)
    && (dealAll (fun _ => Occ.none) (fun _ => true) (s.positions dies k.gang) k
        (fun _ => List.range n) gangs [] Option.none).isSome

end Sys2Proof.Machine
end

