-- ==== Sys2Proof/Machine/Launch.lean ====
section
/-! DEFINITION. From a queue to Clasp's window (R326-R339, R228): the host's queues, the records and their
checks, the identifiers and levels that a record takes, the front end's reads, and `LAUNCH`. -/

namespace Sys2Proof.Machine

/-! ## Queues (R326-R328) -/

/-- Change a queue of a context. -/
def State.modQueue (s : State) (ctx q : Nat) (f : Queue → Queue) : State :=
  s.modCtx ctx (fun c => match c.queues.find q with
    | some x => { c with queues := c.queues.put q (f x) }
    | none => c)

/-- A queue of a context, by 64 × device + number. -/
def State.queue? (s : State) (ctx q : Nat) : Option Queue := (s.ctxs.find ctx).bind (fun c => c.queues.find q)

/-- A queue that no write has bound. -/
def Queue.none : Queue := ⟨false, 0, false, 0, 0, 0, 0, 0, 0, 0, 0, 0⟩

/-- CLVL := 0 and CSTAT := v in a descriptor, after the records of earlier events (R388). -/
def State.answerCancel (s0 : State) (ctx q v : Nat) : State :=
  let s := s0.flushEvents ctx
  match s.queue? ctx q with
  | some x => if x.v then s.physWrite (dieMask (s.devDies ctx (q / 64))) (x.daddr + 32) [0#8, BitVec.ofNat 8 v]
    else s
  | none => s

/-- The front end sees a descriptor: RING, LOG2N and TAIL, and a cancel that the host asks for, unless it
already has it (R327, R343). -/
def State.seeDesc (s : State) (ctx q x : Nat) : State :=
  let s1 := s.modQueue ctx q (fun y => { y with
    ring := fld x 0 64, log2n := fld x 64 4, tail := BitVec.ofNat 32 (fld x 128 32) })
  let lvl := fld x 256 3
  if lvl = 0 || s1.cancels.any (fun c => c.ctx = ctx && c.queue = some q) then s1
  else if 5 ≤ lvl then s1.answerCancel ctx q 2
  else { s1 with cancels := s1.cancels ++
    [⟨s1.servingIo ctx (q / 64), ctx, lvl, fld x 192 64, some q⟩] }

/-- Wake on a queue: its descriptor is read. -/
def wakeQueue (s : State) (ctx q : Nat) (name : String) : Out :=
  match s.queue? ctx q with
  | none => .refused (.notEnabled name)
  | some x =>
    if !x.v then .next s
    else .next ((s.physSeen x.daddr 64).seeDesc ctx q (natOf (s.physRead (dieMask (s.devDies ctx (q / 64))) x.daddr 64)))

/-- QUEUE_DOORBELL: a write to DOORBELL wakes the front end for the queue; on a queue that is not bound it
does nothing (R326, R328). -/
def execQueueDoorbell (ctx q : Nat) (s : State) : Out :=
  if q < 64 * ((s.ctxs.find ctx).map (fun c => (s.devs c).length)).getD 0 then
    if (s.queue? ctx q).isNone then .next s else wakeQueue s ctx q "QUEUE_DOORBELL"
  else .refused (.notEnabled "QUEUE_DOORBELL")

/-- QUEUE_LINE_TAKEN: on a CXL link the host's write to a bound descriptor's line takes it from the
device, which wakes the queue (R328). -/
def execQueueLineTaken (ctx q : Nat) (data : List Byte) (s : State) : Out :=
  match s.queue? ctx q with
  | none => .refused (.notEnabled "QUEUE_LINE_TAKEN")
  | some x =>
    if !x.v || !nth s.pkg.cxl (s.servingIo ctx (q / 64)) false || data.length != 64 then
      .refused (.notEnabled "QUEUE_LINE_TAKEN")
    else wakeQueue (s.physWrite (dieMask (s.devDies ctx (q / 64))) x.daddr data) ctx q "QUEUE_LINE_TAKEN"

/-- BIND_WRITE (R326): a write that sets V binds the queue to its descriptor; one that clears V waits for
the records already read. -/
def execBindWrite (ctx q : Nat) (val : BitVec 64) (s : State) : Out :=
  if q < 64 * ((s.ctxs.find ctx).map (fun c => (s.devs c).length)).getD 0 then
    let v := val.getLsbD 0
    let da := (val.extractLsb' 6 46).toNat * 64
    let x := (s.queue? ctx q).getD Queue.none
    let y : Queue :=
      if v then
        if x.v then { x with daddr := da, unbind := false }
        else { x with v := true, daddr := da, unbind := false, head := 0, tail := 0 }
      else if x.v then { x with unbind := true, nextDaddr := da }
      else { x with daddr := da }
    .next (s.modCtx ctx (fun c => { c with queues := c.queues.put q y }))
  else .refused (.notEnabled "BIND_WRITE")

/-- BIND_CLEAR_EFFECT: an unbind takes effect once every record that the queue has read has completed
(R326). -/
def execBindClearEffect (ctx q : Nat) (s : State) : Out :=
  match s.queue? ctx q with
  | none => .refused (.notEnabled "BIND_CLEAR_EFFECT")
  | some x =>
    let mine := fun (e : Entry) => e.ctx = ctx && e.queue = some q
    if !x.unbind || s.entries.any mine
        || (((s.ctxs.find ctx).map (·.devq)).getD []).any mine then
      .refused (.notEnabled "BIND_CLEAR_EFFECT")
    else .next (s.modQueue ctx q (fun y => { y with v := false, unbind := false, daddr := y.nextDaddr }))

/-! ## Records (R329) -/

def rKind (r : Nat) : Nat := fld r 0 2
def rPrio (r : Nat) : Nat := fld r 2 2
def rCoop (r : Nat) : Bool := bitN r 4
def rEG (r : Nat) : Bool := bitN r 5
def rEP (r : Nat) : Bool := bitN r 6
def rEJ (r : Nat) : Bool := bitN r 7
/-- Waves in a workgroup. -/
def rWaves (r : Nat) : Nat := fld r 8 4 + 1
def rLevel (r : Nat) : Nat := fld r 8 3
def rKidx (r : Nat) : Nat := fld r 32 32
def rGangs (r : Nat) : Nat := fld r 64 32
def rArglen (r : Nat) : Nat := fld r 96 32
/-- ARGS, TARGET, NEWDESC or PROG. -/
def rVa (r : Nat) : Nat := fld r 128 64
def rDone (r : Nat) : Nat := fld r 192 64
def rE (r i : Nat) : W64 := BitVec.ofNat 64 (fld r (256 + 64 * i) 64)
def rFp (r : Nat) : Nat := fld r 512 512

/-- A record's own fields: condition 1 of R330 does not hold. -/
def recOk (r : Nat) : Bool :=
  (!rEP r || rEG r) && (!rEJ r || rEP r) && rDone r % 16 = 0 && fld r 12 4 = 0 && fld r 16 16 = 0
    && (match rKind r with
      | 0 => rGangs r != 0 && decide (rArglen r ≤ 4096) && rArglen r % 8 = 0 && rVa r % 16 = 0
          && fld r 256 768 = 0
      | 1 => !rCoop r && !bitN r 11 && decide (1 ≤ rLevel r) && decide (rLevel r ≤ 4) && rKidx r = 0
          && rGangs r = 0 && rArglen r = 0 && fld r 256 768 = 0
      | 2 => !rCoop r && fld r 8 4 = 0 && rGangs r = 0 && rArglen r = 0 && fld r 256 768 = 0
      | _ => !rCoop r && fld r 8 4 = 0 && rGangs r = 0 && rArglen r = 0 && rVa r % 4 = 0
          && (footprintOf (rFp r)).2 && (footprintOf (rFp r)).1.all (fun x => !x.sp))

/-! ## Kernel descriptors (R334, R335, R407) -/

/-- A footprint template of a descriptor. -/
def ftParse (x : Nat) : FpTemplate :=
  ⟨BitVec.ofNat 64 (fld x 0 64), BitVec.ofNat 48 (fld x 64 48), bitN x 112, bitN x 113, bitN x 114,
    bitN x 115⟩

/-- A descriptor at a VA from its 128 bytes. -/
def kdParse (va x : Nat) : KDesc where
  va := BitVec.ofNat 64 va
  w64 := bitN x 16
  gang := 2 ^ fld x 17 2
  l1fuse := bitN x 19
  vregs := 8 * fld x 24 8
  scrkb := fld x 32 16
  qbmask := BitVec.ofNat 16 (fld x 48 16)
  mode := BitVec.ofNat 32 (fld x 64 32)
  copyLen := fld x 96 32
  entry := BitVec.ofNat 64 (fld x 128 64)
  handler := BitVec.ofNat 64 (fld x 192 64)
  code := BitVec.ofNat 64 (fld x 256 64)
  codeLen := fld x 320 32
  constLen := fld x 352 32
  copy := BitVec.ofNat 64 (fld x 384 64)
  const := BitVec.ofNat 64 (fld x 448 64)
  fts := (List.range 4).map (fun j => ftParse (fld x (512 + 128 * j) 128))

/-- Is the version accepted (R325)? -/
def kdVersion (x : Nat) : Bool := fld x 0 8 = 4 && decide (fld x 8 8 ≤ 2)

/-- The checks of R407. -/
def kdOk (x : Nat) : Bool :=
  let k := kdParse 0 x
  (k.mode &&& ~~~modeMask) = 0 && decide (1 ≤ fld x 24 8) && decide (fld x 24 8 ≤ 32)
    && decide (k.scrkb ≤ 384) && decide (k.constLen ≤ 61440) && fld x 17 2 != 3
    && (!k.l1fuse || fld x 17 2 = 2)
    && (k.handler = 0 || (decide (k.code.toNat ≤ k.handler.toNat)
          && decide (k.handler.toNat < k.code.toNat + k.codeLen)))
    && fld x 20 4 = 0 && (List.range 4).all (fun j => fld x (512 + 128 * j + 116) 12 = 0)

/-- The 64-bit argument at an offset, where the offset is legal (R335). -/
def argAt (args : List Byte) (arglen off : Nat) : Option Nat :=
  if off % 8 = 0 && decide (off + 8 ≤ arglen) then some (natOf ((args.drop off).take 8)) else none

/-- The range of a template, none when it is malformed. -/
def ftRange (args : List Byte) (arglen : Nat) (t : FpTemplate) : Option Range :=
  if !t.used then some ⟨0, 0, false, false⟩
  else
    let b := if t.barg then argAt args arglen t.base.toNat else some t.base.toNat
    let n := if t.larg then argAt args arglen t.len.toNat else some t.len.toNat
    match b, n with
    | some x, some y => if 2 ^ 64 < x + y then none else some ⟨x, y, t.wr, false⟩
    | _, _ => none

/-- The ranges of all templates. -/
def ftRanges (args : List Byte) (arglen : Nat) : List FpTemplate → Option (List Range)
  | [] => some []
  | t :: r => match ftRange args arglen t, ftRanges args arglen r with
    | some x, some y => some (x :: y)
    | _, _ => none

/-- The scratch offset that queue register n is bound to at wave start (R336). -/
def qbOffset (args : List Byte) (n : Nat) : Nat := natOf ((args.drop (4032 + 4 * n)).take 4)

/-- Are the queue bindings legal (R336)? -/
def qbOk (k : KDesc) (args : List Byte) : Bool :=
  (List.range 16).all (fun n => !k.qbmask.getLsbD n
    || (qbOffset args n % 32 = 0 && decide (qbOffset args n + 32 ≤ k.gang * k.scr)))

/-! ## Resolution (R330, R334-R336) -/

/-- A record that is accepted: its descriptor, its argument block and its footprint. -/
structure Resolved where
  kd : KDesc
  args : List Byte
  ranges : List Range
  deriving DecidableEq, Repr, Inhabited

/-- Conditions 7 to 9 of R330 on a LAUNCH, and those of R333 on a COPY, once the descriptor stands. The
argument block is the area's bytes, then zeros. The front end's reads are none of a wave or an engine, and
Loupe does not see them; those of a LAUNCH are ordinary (`sync`, R95, R112). -/
def State.resolveArgs (s : State) (o : Obs) (p : Path) (sync : Bool) (dev r : Nat) (k : KDesc) :
    State × Except Nat Resolved :=
  if rKind r = 3 then
    if k.copy.toNat ≤ rVa r ∧ rVa r < k.copy.toNat + k.copyLen then
      (s, .ok ⟨k, [], (footprintOf (rFp r)).1⟩)
    else (s, .error 5)
  else
    let n := rArglen r
    match (if n = 0 then (s, .ok []) else s.readG o p sync (rVa r) n) with
    | (s1, .error _) => (s1, .error 6)
    | (s1, .ok bs) =>
      let args := bs ++ rep (4096 - n) 0#8
      match ftRanges args n k.fts with
      | none => (s1, .error 5)
      | some rs =>
        if !qbOk k args then (s1, .error 5)
        else if rCoop r && !s1.coopFits (s1.devDies o.ctx dev) k (rWaves r) (rGangs r) then (s1, .error 4)
        else (s1, .ok ⟨k, args, rs⟩)

/-- The VA of an entry of a context's kernel indirection table (R334). -/
def Ctx.kitAt (c : Ctx) (i : Nat) : Nat := (c.kit.toNat + 8 * i) % 2 ^ 64

/-- Conditions 2 to 9 of R330, in their order, on a LAUNCH or COPY record. -/
def State.resolve (s : State) (o : Obs) (p : Path) (sync : Bool) (dev r : Nat) :
    State × Except Nat Resolved :=
  match s.ctxs.find o.ctx with
  | none => (s, .error 6)
  | some c =>
    if c.kitn ≤ rKidx r then (s, .error 3)
    else match s.readG o p sync (c.kitAt (rKidx r)) 8 with
      | (s1, .error _) => (s1, .error 6)
      | (s1, .ok eb) =>
        let va := natOf eb
        if va = 0 then (s1, .error 3)
        else if va % 64 != 0 then (s1, .error 5)
        else match s1.readG o p sync va 128 with
          | (s2, .error _) => (s2, .error 6)
          | (s2, .ok db) =>
            let x := natOf db
            if !kdVersion x then (s2, .error 2)
            else if !kdOk x then (s2, .error 5)
            else s2.resolveArgs o p sync dev r (kdParse va x)

/-! ## Identifiers and levels (R331, R332) -/

/-- A new level under a parent: it takes the context's next identifier, and what stopped its parent, or its
context, stops it. -/
def State.openLevel (s : State) (ctx level dev parent : Nat) : State × Nat :=
  match s.ctxs.find ctx with
  | none => (s, 0)
  | some c =>
    let up := c.levels.find parent
    let upStop := (up.map (·.stopped)).getD false
    let l : Level := ⟨level, dev, parent, if level = 1 then 1 else 0,
      upStop || c.failed || c.poisoned, false, upStop || c.failed || c.poisoned,
      (upStop && (up.map (·.cancelled)).getD false) || c.failed,
      (upStop && (up.map (·.lost)).getD false) || c.poisoned, 0, none, 0⟩
    let s1 := s.setCtx ctx { c with nextId := c.nextId + 1, levels := c.levels.put c.nextId l }
    (s1.modLevel ctx parent (fun u => if u.complete then u else { u with open_ := u.open_ + 1 }), c.nextId)

/-- The identifiers that a LAUNCH or COPY record of a queue takes: those of the levels it begins, and its
launch's (R331). -/
def State.levelsFor (s : State) (ctx dev q : Nat) : State × Nat :=
  let x := (s.queue? ctx q).getD Queue.none
  let (s1, job) := if x.job = 0 then s.openLevel ctx 4 dev 0 else (s, x.job)
  let (s2, phase) := if x.phase = 0 then s1.openLevel ctx 3 dev job else (s1, x.phase)
  let (s3, graph) := if x.graph = 0 then s2.openLevel ctx 2 dev phase else (s2, x.graph)
  (s3.modQueue ctx q (fun y => { y with job := job, phase := phase, graph := graph })).openLevel
    ctx 1 dev graph

/-- Settle the levels of a queue that a record may have ended. -/
def State.settleAll (s : State) (ctx : Nat) (ids : List Nat) : State :=
  ids.foldl (fun (x : State) i => x.settle ctx i) s

/-- A record ends the level of its highest flag and every level below it; its completion word belongs to
that level, or to its launch, with the status of its refusal (R329, R330). A record with neither, a CANCEL
or REPLACE, writes its word at once; no rule gives the ID and LEVEL of that word, which are free. -/
def State.endLevels (s : State) (ctx dev q r st lid : Nat) : State :=
  let x := (s.queue? ctx q).getD Queue.none
  let ej := rEJ r
  let ep := rEP r || ej
  let eg := rEG r || ep
  let top := if ej then x.job else if ep then x.phase else if eg then x.graph else lid
  let mark := fun (b : Bool) (i : Nat) (y : State) =>
    if b then y.modLevel ctx i (fun l => { l with ended := true }) else y
  let s1 := mark ej x.job (mark ep x.phase (mark eg x.graph s))
  let done := if rDone r = 0 then none else some (BitVec.ofNat 64 (rDone r))
  let s2 := s1.modLevel ctx top (fun l => { l with done := done, refused := st })
  let s3 := match s2.level? ctx top with
    | some l => if l.complete then s2.levelWord ctx top l else s2
    | none => match done with
      | some d => s2.tick.tick.writeWord ctx dev d (Config.freeWord s2.free).toNat
          ((Config.freeWord (s2.free + 1)).toNat % 8) st 0
      | none => s2
  (s3.modQueue ctx q (fun y => { y with
    graph := if eg then 0 else y.graph
    phase := if ep then 0 else y.phase
    job := if ej then 0 else y.job
    barrier := if ep then x.phase else y.barrier })).settleAll ctx
      ((if eg then [x.graph] else []) ++ (if ep then [x.phase] else []) ++ (if ej then [x.job] else []))

/-- Why a queue's next record is consumed unread, as its status: its context is poisoned or has failed, or
a level it would join has been stopped (R343, R374, R389). -/
def State.deadQueue (s : State) (ctx q : Nat) : Option Nat :=
  match s.ctxs.find ctx with
  | none => none
  | some c =>
    if c.poisoned then some 7
    else if c.failed then some 1
    else
      let x := (c.queues.find q).getD Queue.none
      (([x.graph, x.phase, x.job].filterMap c.levels.find).find? (·.stopped)).map
        (fun l => if l.lost then 7 else 1)

/-! ## Into the window (R338, R339) -/

/-- Does some range of one footprint conflict with some range of another (R339)? -/
def conflict (a b : List Range) : Bool :=
  a.any (fun x => b.any (fun y => !x.sp && !y.sp && (x.wr || y.wr)
    && granOverlap x.base x.len y.base y.len))

/-- The edges of a new entry (R339). -/
def State.edgesOf (s : State) (n : Entry) : List (Bool × Nat) :=
  let es := s.entries.filter (fun e => e.ctx = n.ctx && e.dev = n.dev && !n.parents.contains e.id
    && conflict n.ranges e.ranges)
  let js := ((s.logicalCores (s.devDies n.ctx n.dev)).flatMap (fun c => (s.core c).fps)).filter (fun f =>
    ((s.gangs.find f.gang).map (·.ctx)) = some n.ctx && conflict n.ranges f.ranges)
  es.map (fun e => (false, e.order)) ++ js.map (fun f => (true, f.job))

/-- Clasp accepts an entry. -/
def State.accept (s : State) (e : Entry) : State :=
  { s with
    entries := s.entries ++ [{ e with edges := s.edgesOf e, order := s.nextOrder }]
    nextOrder := s.nextOrder + 1 }

/-- Is some window of a device full: 256 entries on a die (R338)? -/
def State.windowFull (s : State) (ctx dev : Nat) : Bool :=
  (s.devDies ctx dev).any (fun d =>
    decide (256 ≤ (s.entries.filter (fun e => (s.devDies e.ctx e.dev).contains d)).length))

/-- The entry of a record that resolved. -/
def mkEntry (ctx dev id graph phase job r : Nat) (x : Resolved) : Entry where
  ctx := ctx
  dev := dev
  id := id
  graph := graph
  phase := phase
  job := job
  parents := []
  copy := rKind r = 3
  prio := rPrio r
  coop := rCoop r
  wgw := rWaves r
  gangs := if rKind r = 3 then 0 else rGangs r
  kd := x.kd
  args := x.args
  ranges := x.ranges
  edges := []
  queue := none
  child := false
  held := false
  admitted := false
  nextGang := 0
  places := []
  live := 0
  prog := BitVec.ofNat 64 (if rKind r = 3 then rVa r else 0)
  einit := if rKind r = 3 then (List.range 4).map (rE r) else []
  fblock := BitVec.ofNat 512 (if rKind r = 3 then rFp r else 0)
  order := 0
  cancelled := false

/-- A LAUNCH or COPY record of a host queue: identifiers, then refusal or the window (R331, R338). -/
def State.readWork (s : State) (ctx dev q r : Nat) : State :=
  let dead := s.deadQueue ctx q
  let (s1, lid) := s.levelsFor ctx dev q
  let refuse := fun (y : State) (st : Nat) => (y.endLevels ctx dev q r st lid).launchDone ctx lid st 0
  if dead.isSome then (s1.endLevels ctx dev q r 0 lid).launchDone ctx lid 0 0
  else if !recOk r then refuse s1 5
  else match s1.resolve (s1.frontObs ctx dev) .engine true dev r with
    | (s2, .error st) => refuse s2 st
    | (s2, .ok x) =>
      let y := (s2.queue? ctx q).getD Queue.none
      let e := { mkEntry ctx dev lid y.graph y.phase y.job r x with queue := some q }
      (s2.accept e).endLevels ctx dev q r 0 lid

/-! ## The front end's choice (R338) -/

/-- A record that the front end may read next: its queue, its priority, its kind, its place in the cyclic
order, and the record itself for a host queue. -/
structure Cand where
  ctx : Nat
  dev : Nat
  q : Nat
  child : Bool
  prio : Nat
  kind : Nat
  key : Nat
  rec_ : Nat
  deriving DecidableEq, Repr, Inhabited

/-- The PA of a queue's next record (R327). -/
def Queue.recordAt (x : Queue) : Nat := x.ring + 128 * (x.head.toNat % 2 ^ x.log2n)

/-- The next record of a queue. -/
def State.headRecord (s : State) (ctx q : Nat) (x : Queue) : Nat :=
  natOf (s.physRead (dieMask (s.devDies ctx (q / 64))) x.recordAt 128)

/-- Does the completion of a phase hold the queue back (R332)? -/
def State.barred (s : State) (ctx : Nat) (x : Queue) : Bool :=
  x.barrier != 0 && (match s.level? ctx x.barrier with
    | some l => !l.complete
    | none => false)

/-- The head records of the host queues that an I/O die serves. -/
def State.hostHeads (s : State) (io : Nat) : List Cand :=
  s.ctxs.flatMap (fun p => p.2.queues.filterMap (fun e =>
    let dev := e.1 / 64
    let x := e.2
    if s.servingIo p.1 dev = io && x.v && !x.unbind && x.head != x.tail && !s.windowFull p.1 dev
        && !s.barred p.1 x then
      let r := s.headRecord p.1 e.1 x
      some ⟨p.1, dev, e.1, false, rPrio r, rKind r, p.1 * 256 + e.1, r⟩
    else none))

/-- The heads of the device-side queues that an I/O die serves. -/
def State.devHeads (s : State) (io : Nat) : List Cand :=
  s.ctxs.flatMap (fun p => (List.range (s.devs p.2).length).filterMap (fun dev =>
    match p.2.devq.find? (fun e => e.dev = dev) with
    | some e => if s.servingIo p.1 dev = io && !s.windowFull p.1 dev then
        some ⟨p.1, dev, 0, true, e.prio, 0, p.1 * 256 + 64 * dev, 0⟩ else none
    | none => none))

/-- The first after the one served last, in cyclic order. -/
def cyclic (cs : List Cand) (last : Option Nat) : Option Cand :=
  match last with
  | some l => match minBy (fun (c : Cand) => c.key) (cs.filter (fun c => decide (l < c.key))) with
    | some c => some c
    | none => minBy (fun (c : Cand) => c.key) cs
  | none => minBy (fun (c : Cand) => c.key) cs

/-- The record that the front end of an I/O die reads next. -/
def State.feChoose (s : State) (io : Nat) : Option Cand :=
  let hs := s.hostHeads io
  let ds := s.devHeads io
  let top := (hs ++ ds).foldl (fun (m : Nat) c => if m < c.prio then c.prio else m) 0
  let d1 := ds.filter (fun c => c.prio = top)
  if d1.isEmpty then cyclic (hs.filter (fun c => c.prio = top)) (s.pkg.feHost.find io)
  else cyclic d1 (s.pkg.feDev.find io)

/-- The bytes that a record of work leads to: the table entry, the descriptor, and a LAUNCH's argument area, as
far as each leads to the next (R334). -/
def State.resolveReads (s : State) (o : Obs) (p : Path) (r : Nat) : List (Nat × Nat) :=
  match s.ctxs.find o.ctx with
  | some c =>
    if !recOk r || decide (c.kitn ≤ rKidx r) then []
    else (c.kitAt (rKidx r), 8) :: (match (s.readG o p true (c.kitAt (rKidx r)) 8).2 with
      | .ok bs => if natOf bs != 0 && natOf bs % 64 = 0 then
          (natOf bs, 128) :: (if rKind r = 0 then [(rVa r, rArglen r)] else []) else []
      | .error _ => [])
  | none => []

/-- The global bytes that the front end touches for a host queue's record: what it resolves, the table entry that
a REPLACE writes, and the record's completion word (R330, R337, R338). -/
def State.feTouches (s : State) (c : Cand) : List (Nat × Nat) :=
  let r := c.rec_
  let at_ := match s.ctxs.find c.ctx with
    | some x => [(x.kitAt (rKidx r), 8)]
    | none => []
  (if rKind r = 0 || rKind r = 3 then s.resolveReads (s.frontObs c.ctx c.dev) .engine r
    else if rKind r = 2 then at_ else [])
  ++ (if rDone r = 0 then [] else [(rDone r, 16)])

/-- Do the islands that a record needs perform: the front end's, those on the way to a host queue's record and
descriptor, and those of what the front end touches for it (R399)? -/
def State.feOn (s : State) (io : Nat) (c : Cand) : Bool :=
  s.islandOn (960 + 32 * io + 1) && (match (if c.child then none else s.queue? c.ctx c.q) with
  | some x => [x.recordAt, x.recordAt + 127, x.daddr].all (s.paOn (s.frontObs c.ctx c.dev))
      && s.slicesOn (s.frontObs c.ctx c.dev) (if s.pkg.islands.isEmpty then [] else s.feTouches c)
  | none => true)

/-- Read the chosen record, when it has this kind and the islands on the way perform: HEAD advances and is
written back (R327). -/
def onFe (s : State) (io kind : Nat) (name : String) (f : State → Cand → State) : Out :=
  match s.feChoose io with
  | none => .refused (.notEnabled name)
  | some c =>
    if c.kind != kind || !s.feOn io c then .refused (.notEnabled name)
    else if c.child then
      .next (f { s with pkg := { s.pkg with feDev := s.pkg.feDev.put io c.key } } c)
    else
      let s1 : State := { s with pkg := { s.pkg with feHost := s.pkg.feHost.put io c.key } }
      match s1.queue? c.ctx c.q with
      | none => .refused (.notEnabled name)
      | some x =>
          let s2 := (s1.physSeen x.recordAt 128).modQueue c.ctx c.q (fun y => { y with head := y.head + 1 })
          .next (f (s2.physPut (dieMask (s2.devDies c.ctx c.dev)) (x.daddr + 20) 4 (x.head + 1).toNat) c)

/-- Take the head of a device-side queue. -/
def State.takeChild (s : State) (ctx dev : Nat) : State :=
  match (s.ctxs.find ctx).bind (fun c => c.devq.find? (fun e => e.dev = dev)) with
  | none => s
  | some e =>
    let s1 := s.modCtx ctx (fun c => { c with devq := c.devq.erase e })
    if ((s1.level? ctx e.id).map (·.stopped)).getD false
        || ((s1.ctxs.find ctx).map (fun c => c.failed || c.poisoned)).getD false then
      s1.launchDone ctx e.id 0 0
    else s1.accept e

/-- FRONT_END_READ_LAUNCH: a LAUNCH record of a host queue, or a resolved child (R338). -/
def execFrontEndReadLaunch (io : Nat) (s : State) : Out :=
  onFe s io 0 "FRONT_END_READ_LAUNCH" (fun st c =>
    if c.child then st.takeChild c.ctx c.dev else st.readWork c.ctx c.dev c.q c.rec_)

/-- FRONT_END_READ_COPY: a COPY record (R333). -/
def execFrontEndReadCopy (io : Nat) (s : State) : Out :=
  onFe s io 3 "FRONT_END_READ_COPY" (fun st c => st.readWork c.ctx c.dev c.q c.rec_)

/-- FRONT_END_READ_CANCEL: a CANCEL record asks the serving arbiter for the cancel (R343). -/
def execFrontEndReadCancel (io : Nat) (s : State) : Out :=
  onFe s io 1 "FRONT_END_READ_CANCEL" (fun st c =>
    match st.deadQueue c.ctx c.q with
    | some n => st.endLevels c.ctx c.dev c.q c.rec_ n 0
    | none =>
      if !recOk c.rec_ then st.endLevels c.ctx c.dev c.q c.rec_ 5 0
      else
        let s1 : State := { st with cancels := st.cancels ++ [⟨io, c.ctx, rLevel c.rec_, rVa c.rec_, none⟩] }
        s1.endLevels c.ctx c.dev c.q c.rec_ 0 0)

/-- REPLACE's write of an entry of the table: one indivisible step for all who read it afterwards, so no die
keeps a copy of the old one (R337). -/
def State.replaceEntry (s : State) (o : Obs) (va : Nat) (bs : List Byte) : State × Option XErr :=
  match s.writeG o .engine true va bs with
  | (s1, some e) => (s1, some e)
  | (s1, none) => match (s1.span o none .read va bs.length).2 with
    | .ok (p :: _) => (s1.copiesTake (p.pa / 16) (byteMask (p.pa % 16) bs.length)
        (BitVec.ofNat 128 (natOf bs * 2 ^ (8 * (p.pa % 16)))), none)
    | _ => (s1, none)

/-- FRONT_END_READ_REPLACE: NEWDESC into entry KIDX of the table, in one step (R337). -/
def execFrontEndReadReplace (io : Nat) (s : State) : Out :=
  onFe s io 2 "FRONT_END_READ_REPLACE" (fun st c =>
    let r := c.rec_
    match st.deadQueue c.ctx c.q with
    | some n => st.endLevels c.ctx c.dev c.q r n 0
    | none =>
      if !recOk r then st.endLevels c.ctx c.dev c.q r 5 0
      else match st.ctxs.find c.ctx with
        | none => st
        | some x =>
          if x.kitn ≤ rKidx r then st.endLevels c.ctx c.dev c.q r 3 0
          else match st.replaceEntry (st.frontObs c.ctx c.dev) (x.kitAt (rKidx r)) (bytesOf 8 (rVa r)) with
            | (s1, some _) => s1.endLevels c.ctx c.dev c.q r 6 0
            | (s1, none) => s1.endLevels c.ctx c.dev c.q r 0 0)

/-! ## LAUNCH (R228) -/

/-- LAUNCH's refusal: bit 63 and a code. -/
def refuseVal (code : Nat) : W64 := BitVec.ofNat 64 (2 ^ 63 + code)

/-- The code of a refusal status (R330). -/
def launchCode (st : Nat) : Nat :=
  match st with
  | 3 => 1
  | 4 => 2
  | 2 => 3
  | 5 => 3
  | _ => 5

/-- The records that a device-side queue holds at most (R228). -/
def devqSize : Nat := 1024

/-- Submit a child that resolved: its identifier, its level in the parent's graph, and its place in the
device-side queue. -/
def State.submit (s : State) (g : Gang) (parent : Entry) (r : Nat) (x : Resolved) : State × W64 :=
  let q := ((s.ctxs.find g.ctx).map (·.devq)).getD []
  if devqSize ≤ (q.filter (fun e => e.dev = g.dev)).length then (s, refuseVal 4)
  else
    let (s1, id) := s.openLevel g.ctx 1 g.dev parent.graph
    let done := if rDone r = 0 then none else some (BitVec.ofNat 64 (rDone r))
    let s2 := s1.modLevel g.ctx id (fun l => { l with done := done })
    let e0 := mkEntry g.ctx g.dev id parent.graph parent.phase parent.job r x
    let e := { e0 with
      parents := parent.id :: parent.parents
      prio := if parent.prio < rPrio r then parent.prio else rPrio r
      queue := parent.queue
      child := true
      held := s.holds g.ctx (·.holdChild) }
    (s2.modCtx g.ctx (fun c => { c with devq := c.devq ++ [e] }), BitVec.ofNat 64 id)

/-- The bytes that LAUNCH reads: the record, the table entry, the descriptor and the argument area, as far
as each leads to the next (R110, R228, R334). -/
def State.launchReads (s : State) (o : Obs) (va : Nat) : List (Nat × Nat) :=
  let at_ := fun (a n : Nat) => match (s.readG o .die true a n).2 with
    | .ok bs => some (natOf bs)
    | .error _ => none
  match (if va % 64 = 0 then at_ va 128 else none) with
  | some r => (va, 128) :: (if rKind r = 0 then s.resolveReads o .die r else [])
  | none => []

/-- Does a level of a kind cover an entry, as its own or through a parent launch? Level 0 is all. -/
def Entry.under (e : Entry) (level target : Nat) : Bool :=
  match level with
  | 0 => true
  | 1 => e.id = target || e.parents.contains target
  | 2 => e.graph = target
  | 3 => e.phase = target
  | _ => e.job = target

/-- Does a LAUNCH of a CANCEL record cover its wave's own launch (R343)? -/
def State.cancelsOwn (s : State) (g : Gang) (r : Nat) : Bool :=
  match s.entry? g.ctx g.launch with
  | some e => e.under (rLevel r) (rVa r)
  | none => false

/-- LAUNCH's steps after its release: the state, G[D], and whether it cancels the wave's own launch. Its
reads are ordinary, and go by the core's L1 without it (R95, log 55). -/
def State.launchIssue (s : State) (k : Nat) (w : Wave) (g : Gang) (va : Nat) : State × W64 × Bool :=
  let o := s.waveObs k w
  if va % 64 != 0 then (s, refuseVal 3, false)
  else match s.readG o .die false va 128 with
    | (s1, .error _) => (s1, refuseVal 5, false)
    | (s1, .ok bs) =>
      let r := natOf bs
      if 2 ≤ rKind r || rEG r || rEP r || rEJ r || !recOk r then (s1, refuseVal 3, false)
      else if rKind r = 1 then
        let s2 : State := { s1 with cancels := s1.cancels ++
          [⟨s1.servingIo g.ctx g.dev, g.ctx, rLevel r, rVa r, none⟩] }
        let s3 := if rDone r = 0 then s2
          else s2.tick.tick.writeWord g.ctx g.dev (BitVec.ofNat 64 (rDone r))
            (Config.freeWord s2.free).toNat ((Config.freeWord (s2.free + 1)).toNat % 8) 0 0
        (s3, BitVec.ofNat 64 (rVa r), s1.cancelsOwn g r)
      else match s1.resolve o .die false g.dev r, s1.entry? g.ctx g.launch with
        | (s2, .error st), _ => (s2, refuseVal (launchCode st), false)
        | (s2, .ok x), some p =>
          let (s3, v) := s2.submit g p r x
          (s3, v, false)
        | (s2, .ok _), none => (s2, refuseVal 5, false)

/-- LAUNCH (R228): its release, then its reads, unless a footprint covers them: R110 makes every access of the
gang's waves wait for a registered range, and the model lets it hold LAUNCH, of which R228 says that it never
waits (log 136). A wave that cancels
its own launch is discarded at its own next issue slot (R343). -/
def execLaunch (o : WOp) (s : State) : Out :=
  onGang s o "LAUNCH" (fun k w g =>
    if s.relBusy k then stall s
    else
      let s1 := s.releasePoint k w false
      let va := (w.greg o.a.toNat).toNat
      let rs := s1.launchReads (s1.waveObs k w) va
      if !s.slicesOn (s.waveObs k w) rs then stall s
      else match rs.findSome? (fun p => s.heldBy w.gang false false p.1 p.2) with
      | some j => .next (s.waitOn k w .footprint j 0 (.launch o))
      | none =>
        let (s2, v, own) := s1.launchIssue k w g va
        .next (s2.retire k { w.setG o.d.toNat v with cancel := w.cancel || own } o.len))

end Sys2Proof.Machine
end

