-- ==== Sys2Proof/Machine/Clasp.lean ====
section
/-! DEFINITION. Clasp (R339-R343, R364): admission, placing and restoring gangs, retirement, cancels, and
the end of a copy program (R289, R293, R333). -/

namespace Sys2Proof.Machine

/-! ## Admission (R339, R372, R333) -/

/-- Is an edge satisfied: the entry has left the window, or the job has completed? -/
def State.edgeMet (s : State) (e : Bool × Nat) : Bool :=
  if e.1 then
    !(s.cores.any (fun p => p.2.fps.any (fun f => f.job = e.2)))
      && !(s.images.any (fun p => p.2.fps.any (fun l => l.any (fun f => f.job = e.2))))
  else !(s.entries.any (fun x => x.order = e.2))

/-- Change the entry of an order. -/
def State.modOrder (s : State) (order : Nat) (f : Entry → Entry) : State :=
  { s with entries := s.entries.map (fun e => if e.order = order then f e else e) }

/-- The engines of an I/O die, and the running programs of one. -/
def ioEngines (io : Nat) : List Nat := (List.range 32).map (fun i => 1024 + 32 * io + i)
def State.running (s : State) (e : Nat) : Nat := ((s.engine e).slots.filter (fun p => !p.2.isFree)).length

/-- Start the program of a COPY on the engine with the fewest running programs (R333). -/
def State.copyStart (s : State) (x : Entry) : Option State :=
  match minBy s.running (ioEngines (s.servingIo x.ctx x.dev)) with
  | none => none
  | some e =>
    let g := s.engine e
    match g.freeSlot with
    | none => none
    | some slot =>
      let p := Prog.start ⟨x.ctx, x.dev, none, none, x.id⟩ (s.holds x.ctx (·.holdCe)) x.prog x.einit
        0xFFFFFFFF#32 g.starts s.nextJob x.kd.copy x.kd.copyLen x.fblock
      some { s.setEngine e { g with starts := (g.starts + 1) % 2 ^ 32, slots := g.slots.put slot p } with
        nextJob := s.nextJob + 1 }

/-- Do the islands that admit an entry perform: the Clasp of its device's dies, and for a COPY the one of
the engine that starts it (R396, R399)? -/
def State.claspOn (s : State) (e : Entry) : Bool :=
  (s.devDies e.ctx e.dev).all (fun d => s.islandOn (240 * d + 233))
    && (!e.copy || (minBy s.running (ioEngines (s.servingIo e.ctx e.dev))).all (fun x =>
      s.islandOn (engineIsland x)))

/-- CLASP_ADMIT: an entry whose edges are satisfied, and which is not held, is admitted; a COPY starts its
program (R339, R333). -/
def execClaspAdmit (order : Nat) (s : State) : Out :=
  match s.entries.find? (fun e => e.order = order) with
  | none => .refused (.notEnabled "CLASP_ADMIT")
  | some e =>
    if e.admitted || e.held || e.cancelled || !e.edges.all s.edgeMet || !s.claspOn e then
      .refused (.notEnabled "CLASP_ADMIT")
    else
      let s1 := s.modOrder order (fun x => { x with admitted := true })
      if e.copy then
        match s1.copyStart e with
        | some s2 => .next s2
        | none => .refused (.notEnabled "CLASP_ADMIT")
      else .next s1

/-! ## Placing a gang (R340, R15, R17, R27, R121, R336) -/

/-- May Clasp place a gang of a context on cores: no grant of their die waits for the context, and the die
is not lost (R324, R389)? -/
def State.coresOpen (s : State) (ctx : Nat) (cs : List Nat) : Bool :=
  cs.all (fun c =>
    let d := s.die (coreDie c)
    !d.lost && (match d.fil.pendOwner with
      | some n => ctx != n && ctx != d.fil.owner
      | none => true))

/-- The position at which the scan for a gang of an entry follows: that of the gang before it, none for
gang 0 (R340). -/
def Entry.after (e : Entry) (gangId : Nat) : Option Nat :=
  if gangId = 0 then none else e.places.find (gangId - 1)

/-- The waves of each workgroup of a gang at its first placement. -/
def Entry.fullWg (e : Entry) (_ : Nat) : List Nat := List.range e.wgw

/-- The waves of each workgroup that an image brings back: those that have not ended, for a restored
gang holds no other (R15). -/
def Image.wgWaves (m : Image) (wg : Nat) : List Nat :=
  (m.waves.filter (fun w => w.wg = wg)).map (·.wid)

/-- The position that takes a gang of an entry with the waves given, and its cores. -/
def State.gangPos (s : State) (e : Entry) (gangId : Nat) (ws : Nat → List Nat) (ok : List Nat → Bool) :
    Option (Nat × List Nat) :=
  let ps := s.positions (s.devDies e.ctx e.dev) e.kd.gang
  (dealOne (s.occOf []) (fun cs => s.coresOpen e.ctx cs && ok cs) ps e.kd ws []
    (e.after gangId)).map
    (fun p => (p, nth ps p []))

/-- The queue bindings of a launch's waves (R336). -/
def Entry.bindings (e : Entry) : Map W32 :=
  ((List.range 16).filter (fun n => e.kd.qbmask.getLsbD n)).map
    (fun n => (n, BitVec.ofNat 32 (qbOffset e.args n)))

/-- A wave at its start (R27, R121). No rule asks that ENTRY be 8-byte aligned: the wave starts and fetches
there as it stands (log 97). -/
def Entry.wave (e : Entry) (gang wg wid quarter ready : Nat) : Wave where
  gang := gang
  wg := wg
  wid := wid
  w64 := e.kd.w64
  vregs := e.kd.vregs
  quarter := quarter
  pc := e.kd.entry
  exm := if e.kd.w64 then BitVec.allOnes 64 else 0xFFFFFFFF#64
  live := if e.kd.w64 then BitVec.allOnes 64 else 0xFFFFFFFF#64
  park := 0
  rpl := 0
  stop := 0
  hretPc := 0
  hretExm := 0
  stack := []
  wait := none
  regs := { v := [], g := [], p := [], gp := 0, c := [], q := e.bindings, mode := e.kd.mode, flags := 0 }
  sys := { sup := false, inTrap := false, inLane := false, bpSupp := false, stepPend := false,
           hdepth := 0, trec := 0, frec := [], lastPage := [], walk := [], resume := none,
           levels := [], starts := [] }
  ready := ready
  poolPend := 0
  fresh := true
  pointed := false
  preempt := false
  cancel := false
  stopped := false

/-- The lowest resident position that no wave of a core holds, as a WAVESLOT (R15). -/
def State.freeSeat (s : State) (c : Nat) : Nat :=
  c * 64 + ((List.range 64).find? (fun p => (s.waves.find (c * 64 + p)).isNone)).getD 0

/-- A wave takes a position of a core; entering the slot advances its segment (R15, R114). -/
def State.seat (s : State) (c : Nat) (w : Wave) : State × Nat :=
  let k := s.freeSeat c
  ((s.setWave k w).segment k, k)

/-- Zero a core's array (R17, R229). -/
def Core.zeroArray (x : Core) : Core := { x with z := [], panel := Panel.zero }

/-- Zero the arrays of the cores that hold no gang (R17). -/
def State.zeroArrays (s : State) (cs : List Nat) : State :=
  cs.foldl (fun (x : State) c => if (x.occOf [] c).gangs = 0 then x.modCore c Core.zeroArray else x) s

/-- The caches of a core that hold what no release or acquire renews: a gang that comes to the core finds
none of it there, so a cursor that survived a pre-emption reads its chain as memory has it (R81, R256,
log 105). -/
def Core.fresh (x : Core) : Core := { x with mcache := [], ccache := [] }

/-- Renew cores for a gang. -/
def State.freshen (s : State) (cs : List Nat) : State :=
  cs.foldl (fun (x : State) c => x.modCore c Core.fresh) s

/-- Fuse the L1s of a gang's cluster when its kernel asks (R16); the fused L1 is empty as fusion begins
(log 93). -/
def State.fuse (s : State) (fuse : Bool) (cs : List Nat) (gang : Nat) : State :=
  if fuse then cs.foldl (fun (x : State) c => x.modCore c (fun y => { y with fused := some gang, l1 := [] })) s
  else s

/-- Does the context own the Filigree of the die of some of the cores (R324)? -/
def State.ownsAt (s : State) (ctx : Nat) (cs : List Nat) : Bool :=
  cs.any (fun c => (s.die (coreDie c)).fil.owner = ctx)

/-- Place the next gang of an entry on the cores of a position. -/
def State.placeGang (s : State) (e : Entry) (p : Nat) (cs : List Nat) : State :=
  let n := s.nextGang
  let g : Gang := ⟨e.id, e.ctx, e.dev, e.nextGang, cs, e.wgw, e.kd.scr, [], s.nextOrder, .resident,
    s.ownsAt e.ctx cs, []⟩
  let bases := cs.map (fun c => (s.occOf [] c).base)
  let s1 : State := { ((s.zeroArrays cs).freshen cs).setGang n g with nextGang := n + 1, nextOrder := s.nextOrder + 1 }
  let s2 := (cs.zipIdx).foldl (fun (x : State) c =>
    (List.range e.wgw).foldl (fun (y : State) wid =>
      (y.seat c.1 (e.wave n c.2 wid ((nth bases c.2 0 + wid) % 4) (y.core c.1).cycle)).1) x)
    (s1.fuse e.kd.l1fuse cs n)
  s2.modOrder e.order (fun x => { x with
    nextGang := x.nextGang + 1, places := x.places.put e.nextGang p, live := x.live + 1 })

/-! ## Restoring a gang (R364, R229, R324, R367, R370) -/

/-- The images of a launch that wait for placement, by GANGID. -/
def State.imagesOf (s : State) (e : Entry) : List (Nat × Image) :=
  sortBy (fun (p : Nat × Image) => p.2.gang.gangId)
    (s.images.filter (fun p => p.2.gang.ctx = e.ctx && p.2.gang.launch = e.id))

/-- The waves of each workgroup of the gang of an entry that waits first: of its oldest image, or of a gang not
yet placed. -/
def State.nextWaves (s : State) (e : Entry) : Nat → List Nat :=
  match s.imagesOf e with
  | p :: _ => p.2.wgWaves
  | [] => e.fullWg

/-- Did a wave of the gang hold a claim at the stop (R229)? -/
def Image.claimed (m : Image) : Bool := m.claims.any Option.isSome

/-- Can the array of a die take the Filigree state of a saved gang: no other gang uses it, or it is the one
that the gang left in use (R271, log 111); and its list has room for the commands? -/
def Filigree.takes (f x : Filigree) (key : Nat) : Bool :=
  (f.users.isEmpty || f.kept.contains key) && decide (f.cmds.length + x.cmds.length ≤ fgListSize)

/-- The array of a die as a restored gang finds it: its own array comes back, unless the die still holds
it; then its commands alone do, behind the one that runs and in the order in which they were appended
(R264, R271, log 111). `saved` lists the gangs that are still saved. -/
def Filigree.restored (f x : Filigree) (key : Nat) (saved : List Nat) : Filigree :=
  let cmds := match f.cmds with
    | h :: t => h :: sortBy (·.seq) (t ++ x.cmds)
    | [] => x.cmds
  if f.users.isEmpty && !f.kept.contains key then { x with
    owner := f.owner, pendOwner := f.pendOwner, appended := f.appended, cmds := cmds, users := [key]
    kept := (x.users ++ x.kept).filter saved.contains }
  else { f with cmds := cmds, users := f.users ++ [key], kept := f.kept.filter (· != key) }

/-- Can cores hold what an image brings back: for a claim, matrix arrays that no wave has claimed and no
instruction has yet to run on (R229, R237), the Filigree it needs, with an array that takes its state, the
engine slots and footprint entries of its programs? -/
def State.restoreOk (s : State) (key : Nat) (m : Image) (cs : List Nat) : Bool :=
  (m.fil.all (fun x => cs.all (fun c => (s.die (coreDie c)).fil.takes x key)))
    && (!m.claimed || cs.all (fun c => (s.core c).claim.isNone && (s.core c).matq.isEmpty))
    && (!(m.fil.isSome || m.gang.fgHome) || cs.all (fun c => (s.die (coreDie c)).fil.owner = m.gang.ctx))
    && (cs.zipIdx).all (fun p =>
      (nth m.engines p.2 Engine.init).slots.all (fun q => match (s.engine p.1).slots.find q.1 with
        | some x => x.isFree
        | none => true)
      && decide ((s.core p.1).fps.length + (nth m.fps p.2 []).length ≤ 8))

/-- The ordinals of the waits that an image re-enters, ascending: waves' and programs'. -/
def Image.ords (m : Image) : List Nat :=
  sortBy id ((m.waves.filterMap (fun w => w.wait.map (·.ord)))
    ++ m.engines.flatMap (fun e => (e.slots.filter (fun q => q.2.st = 2)).map (fun q => q.2.ord)))

/-- A wave as it comes back: its last-page registers empty, a wait re-entered under a new ordinal, and a
wait for a claim, a footprint or a Filigree list ended, so that its instruction re-issues; recorded walker
instructions re-issue before every other (R364, R367). A wave that its context's failure stopped comes back
stopped (R374). -/
def Wave.back (w0 : Wave) (quarter ready : Nat) (ord : Nat → Nat) : Wave :=
  let w := w0.rewind
  { w with
    quarter := quarter
    ready := ready
    fresh := true
    preempt := false
    stopped := w.stopped && !w.preempt
    sys := { w.sys with lastPage := [] }
    wait := w.wait.bind (fun x => match x.kind with
      | .claim => none
      | .footprint => none
      | .fgList => none
      | _ => some { x with ord := ord x.ord }) }

/-- An engine with the saved programs of a gang back in their slots. A GSUB to re-issue runs again. -/
def Engine.merge (e m : Engine) (ord : Nat → Nat) : Engine :=
  { e with
    starts := if e.starts < m.starts then m.starts else e.starts
    slots := m.slots.foldl (fun (x : Map Prog) q =>
      x.put q.1 { q.2 with st := if q.2.st = 5 then 1 else q.2.st, ord := ord q.2.ord }) e.slots }

/-- Put an image's waves back, core by core: the state and their WAVESLOTs. -/
def State.seatAll (s : State) (m : Image) (cs bases : List Nat) (ord : Nat → Nat) : State × List Nat :=
  m.waves.foldl (fun (acc : State × List Nat) w =>
    let c := nth cs w.wg 0
    let (s1, k) := acc.1.seat c (w.back ((nth bases w.wg 0 + w.wid) % 4) (acc.1.core c).cycle ord)
    (s1, acc.2 ++ [k])) (s, [])

/-- Restore a gang on the cores of a position (R364). -/
def State.restoreGang (s : State) (e : Entry) (key : Nat) (m : Image) (p : Nat) (cs : List Nat) : State :=
  let ords := m.ords
  let ord := fun (o : Nat) => s.nextOrder + 1 + indexIn ords o
  let bases := cs.map (fun c => (s.occOf [] c).base)
  let s0 := (if m.claimed then s else s.zeroArrays cs).freshen cs
  let g : Gang := { m.gang with
    cores := cs, phase := .resident, placedAt := s.nextOrder,
    fgHome := m.gang.fgHome || s.ownsAt e.ctx cs }
  let s1 : State := { s0.setGang key g with
    images := s0.images.del key, nextOrder := s0.nextOrder + 1 + ords.length }
  let s2 := (cs.zipIdx).foldl (fun (x : State) c =>
    ((x.modCore c.1 (fun y => { y with
        z := if m.claimed then nth m.zs c.2 [] else y.z
        panel := if m.claimed then nth m.panels c.2 Panel.zero else y.panel
        fps := y.fps ++ nth m.fps c.2 [] })).setEngine c.1
      ((x.engine c.1).merge (nth m.engines c.2 Engine.init) ord))) (s1.fuse e.kd.l1fuse cs key)
  let (s3, keys) := s2.seatAll m cs bases ord
  let s4 := (cs.zipIdx).foldl (fun (x : State) c => match nth m.claims c.2 none with
    | some i => x.modCore c.1 (fun y => { y with claim := keys[i]? })
    | none => x) s3
  let s5 := match m.fil with
    | some f => s4.modDie (coreDie (nth cs 0 0)) (fun d => { d with fil := d.fil.restored f key s1.images.keys })
    | none => s4
  s5.modOrder e.order (fun x => { x with places := x.places.put m.gang.gangId p })

/-! ## The next placement of a launch (R340, R341) -/

/-- Place the next gang of an entry, when some position takes it. -/
def State.placeOne (s : State) (order : Nat) : Option State :=
  match s.entries.find? (fun e => e.order = order) with
  | none => none
  | some e => (s.gangPos e e.nextGang e.fullWg (fun _ => true)).map (fun q => s.placeGang e q.1 q.2)

/-- Place n gangs of an entry, or none. -/
def State.placeMany (s : State) (order : Nat) : Nat → Option State
  | 0 => some s
  | n + 1 => match s.placeOne order with
    | some s1 => s1.placeMany order n
    | none => none

/-- Restore an image, when some position takes it. -/
def State.restoreOne (s : State) (order : Nat) (p : Nat × Image) : Option State :=
  match s.entries.find? (fun e => e.order = order) with
  | none => none
  | some e => (s.gangPos e p.2.gang.gangId p.2.wgWaves (s.restoreOk p.1 p.2)).map (fun q => s.restoreGang e p.1 p.2 q.1 q.2)

/-- Restore images, all or none. -/
def State.restoreMany (s : State) (order : Nat) : List (Nat × Image) → Option State
  | [] => some s
  | p :: t => match s.restoreOne order p with
    | some s1 => s1.restoreMany order t
    | none => none

/-- Has an admitted launch waiting gangs that may be placed? -/
def State.wants (s : State) (e : Entry) : Bool :=
  e.admitted && !e.copy && !e.cancelled
    && !((s.ctxs.find e.ctx).map (·.poisoned)).getD false
    && (decide (e.nextGang < e.gangs) || !(s.imagesOf e).isEmpty)

/-- Are all the gangs of a launch that left together saved, none still on its cores (R50, R341)? -/
def State.allSaved (s : State) (e : Entry) : Bool :=
  !(s.gangs.any (fun p => p.2.ctx = e.ctx && p.2.launch = e.id && p.2.phase != .saved))

/-- What Clasp does next with a launch: the gang at the head of its waiting gangs, saved gangs first; all
together for a cooperative launch, once every one of them is saved. -/
def State.placeStep (s : State) (e : Entry) : Option State :=
  match s.imagesOf e with
  | [] =>
    if e.coop then
      if mostGangs < e.gangs - e.nextGang then none else s.placeMany e.order (e.gangs - e.nextGang)
    else s.placeOne e.order
  | p :: t =>
    if e.coop then (if s.allSaved e then s.restoreMany e.order (p :: t) else none)
    else s.restoreOne e.order p

/-- Do two entries' devices share a die? -/
def State.shareDie (s : State) (a b : Entry) : Bool :=
  (s.devDies a.ctx a.dev).any (fun d => (s.devDies b.ctx b.dev).contains d)

/-- Is it an entry's turn: no launch before it, by priority and then acceptance, can be placed, and no
cooperative launch of at least its priority, accepted before it, waits (R340, R341)? -/
def State.turn (s : State) (e : Entry) : Bool :=
  s.entries.all (fun x => x.order = e.order || !s.wants x || !s.shareDie x e
    || (!(x.coop && decide (e.prio ≤ x.prio) && decide (x.order < e.order))
      && (!(decide (e.prio < x.prio) || (x.prio = e.prio && decide (x.order < e.order)))
        || (s.placeStep x).isNone)))

/-- Do the islands of cores, and of the Clasp of their dies, perform (R396, R399)? -/
def State.coresOn (s : State) (cs : List Nat) : Bool :=
  cs.all (fun c => s.islandOn (240 * coreDie c + 233)
    && (List.range 6).all (fun i => s.islandOn (240 * coreDie c + 6 * corePhys c + i)))

/-- Do the islands of a gang perform: those of its cores, and with a Filigree section in its image the one of its
die's Filigree (R396, R399)? -/
def State.gangOn (s : State) (cs : List Nat) (fil : Bool) : Bool :=
  s.coresOn cs && (!fil || s.islandOn (filIsland (coreDie (nth cs 0 0))))

/-- A placement happens once the islands of every gang that it places perform; which position it takes does
not depend on them (R399). -/
def State.placeNow (s : State) (e : Entry) : Option State :=
  (s.placeStep e).filter (fun t => t.gangs.all (fun p => p.2.phase != .resident
    || s.gangs.contains p || s.gangOn p.2.cores ((s.images.find p.1).any (·.fil.isSome))))

/-- GANG_PLACE: the next gang of a launch, or every gang of a cooperative one, is placed. -/
def execGangPlace (order : Nat) (s : State) : Out :=
  match s.entries.find? (fun e => e.order = order) with
  | none => .refused (.notEnabled "GANG_PLACE")
  | some e =>
    if s.wants e && (s.imagesOf e).isEmpty && s.turn e then
      match s.placeNow e with
      | some s1 => .next s1
      | none => .refused (.notEnabled "GANG_PLACE")
    else .refused (.notEnabled "GANG_PLACE")

/-- GANG_RESTORE: the saved gang at the head of its launch's waiting gangs, or every gang of a cooperative
launch, is restored (R364). -/
def execGangRestore (gang : Nat) (s : State) : Out :=
  match s.images.find gang with
  | none => .refused (.notEnabled "GANG_RESTORE")
  | some m => match s.entry? m.gang.ctx m.gang.launch with
    | none => .refused (.notEnabled "GANG_RESTORE")
    | some e =>
      if s.wants e && ((s.imagesOf e).head?.map (·.1)) = some gang && s.turn e then
        match s.placeNow e with
        | some s1 => .next s1
        | none => .refused (.notEnabled "GANG_RESTORE")
      else .refused (.notEnabled "GANG_RESTORE")

/-! ## Retirement (R39, R332) -/

/-- A launch whose last gang has gone completes (R332). -/
def State.entryCheck (s : State) (ctx id : Nat) : State :=
  match s.entry? ctx id with
  | none => s
  | some e =>
    if e.live = 0 && !e.copy && (e.nextGang = e.gangs || e.cancelled) then s.launchDone ctx id 0 0 else s

/-- The programs of a gang: engine, slot and program. -/
def State.gangProgs (s : State) (gang : Nat) : List (Nat × Nat × Prog) :=
  s.engines.flatMap (fun e => (e.2.slots.filter (fun p => p.2.owner.gang = some gang)).map
    (fun p => (e.1, p.1, p.2)))

/-- Has the gang a unit still at work: a program, a gather job, a Filigree command, an update, a matrix
instruction? -/
def State.gangBusy (s : State) (gang : Nat) : Bool :=
  (s.gangProgs gang).any (fun p => !p.2.2.isFree || p.2.2.inFlight)
    || s.gjobs.any (fun j => j.owner.gang = some gang)
    || s.dies.any (fun d => d.2.fil.cmds.any (fun c => c.owner.gang = some gang))
    || s.redgs.any (fun r => r.gang = gang)
    || s.cores.any (fun p => p.2.matq.any (fun j => j.gang = gang))

/-- A gang gives up an array that it uses; `saved` when its image keeps it, which the array remembers while
another gang goes on with it (log 111). -/
def Filigree.leave (f : Filigree) (gang : Nat) (saved : Bool) : Filigree :=
  { f with
    users := f.users.filter (· != gang)
    kept := if saved && f.users.contains gang then f.kept ++ [gang] else f.kept }

/-- The image of a gang that shared an array takes it as a user that went on with it leaves it; its commands
are its own (R271, log 111). -/
def Image.refresh (m : Image) (key gang : Nat) (f : Filigree) : Image :=
  if f.users.contains gang && f.kept.contains key then
    { m with fil := m.fil.map (fun x => { f with cmds := x.cmds }) }
  else m

/-- A gang gives up the arrays that it uses, which reach the images of the gangs that shared them. -/
def State.leaveFil (s : State) (gang : Nat) (saved : Bool) : State :=
  { s with
    dies := s.dies.map (fun d => (d.1, { d.2 with fil := d.2.fil.leave gang saved }))
    images := s.images.map (fun p =>
      (p.1, s.dies.foldl (fun (m : Image) d => m.refresh p.1 gang d.2.fil) p.2)) }

/-- A gang frees its cores. -/
def State.freeGang (s : State) (gang : Nat) (g : Gang) : State :=
  let s1 := g.cores.foldl (fun (x : State) c => x.modCore c (fun y =>
    if y.fused = some gang then { y with fused := none } else y)) (s.leaveFil gang false)
  let s2 : State := { s1 with gangs := s1.gangs.del gang }
  (s2.modEntry g.ctx g.launch (fun e => { e with live := e.live - 1 })).entryCheck g.ctx g.launch

/-- Has a wave asked for a cancel that covers the launch of a gang, and that the arbiter has yet to order?
The launch then ends as cancelled (R343; log 119). -/
def State.cancelAsked (s : State) (g : Gang) : Bool :=
  match s.entry? g.ctx g.launch with
  | some e => s.cancels.any (fun r => r.ctx = g.ctx && r.queue.isNone && e.under r.level r.target)
  | none => false

/-- GANG_RETIRE: a gang whose waves have ended and whose jobs have completed retires (R39), after a cancel
of its launch that its own waves asked for. -/
def execGangRetire (gang : Nat) (s : State) : Out :=
  match s.gangs.find gang with
  | none => .refused (.notEnabled "GANG_RETIRE")
  | some g =>
    if g.phase = .saved || !(s.gangWaves gang).isEmpty || s.gangBusy gang || s.cancelAsked g then
      .refused (.notEnabled "GANG_RETIRE")
    else .next (s.freeGang gang g)

/-! ## HALT (R289, R293, R333) -/

/-- HALT: once its transfers are done, the program's slot and footprint are freed, and `CE.WAIT` reports 0;
a COPY completes. -/
def execHalt (s : State) : Out :=
  onProg s (fun e slot p =>
    if p.inFlight then stall s
    else
      let p1 := { p with st := 4 }
      let s1 := s.release (s.progObs e p) false
      if p.owner.gang.isNone then .next (s1.copyEnd e slot p1 0 0)
      else .next (((s1.setProg e slot p1).freeProg e p.job).wakeCopy e slot p1 0))

/-! ## Cancels (R343, R297, R271) -/

/-- Does a level lie under another, through its parents? -/
def underLevel (m : Map Level) (target : Nat) : Nat → Nat → Bool
  | 0, _ => false
  | n + 1, i => i = target || (match m.find i with
    | some l => l.parent != 0 && underLevel m target n l.parent
    | none => false)

/-- Stop a level that has not completed: a cancel, or a loss, covers it whole. -/
def Level.stop (l : Level) (lost : Bool) : Level :=
  if l.complete then l
  else { l with ended := true, stopped := true, cancelled := l.cancelled || !lost, lost := l.lost || lost }

/-- The levels of a context that lie under a level, with the launches of covered entries. -/
def State.levelsUnder (s : State) (ctx level target : Nat) : List Nat :=
  match s.ctxs.find ctx with
  | none => []
  | some c =>
    let ids := ((s.entries.filter (fun e => e.ctx = ctx)) ++ c.devq).filterMap (fun e =>
      if e.under level target then some e.id else none)
    (c.levels.keys.filter (fun i => level = 0 || underLevel c.levels target 4 i)) ++ ids

/-- Stop levels. -/
def State.stopLevels (s : State) (ctx : Nat) (ids : List Nat) (lost : Bool) : State :=
  s.modCtx ctx (fun c => { c with levels := c.levels.map (fun p =>
    if ids.contains p.1 then (p.1, p.2.stop lost) else p) })

/-- A copy program of a cancelled level stops: its transfers are abandoned, ERR.CANC is set in its barriers,
its footprint goes and `CE.WAIT` reports 2 (R297). -/
def State.cancelProg (s : State) (e slot : Nat) (p : Prog) : State :=
  let p1 := { p with st := 7, xfers := [] }
  let bars := p.dbar.toNat :: (p.xfers.flatMap (fun x => x.bar.toList))
  ((((s.setProg e slot p1).barErr p.owner errCanc bars).freeProg e p.job).wakeCopy e slot p1 2)

/-- A gather or scatter job of a cancelled level sets ERR.CANC and stops. -/
def State.cancelJob (s : State) (j : GJob) : State :=
  let s1 := s.gEnd (indexIn (s.gjobs.map (·.job)) j.job) j
  s1.barErr j.owner errCanc [gBar j.block.toNat]

/-- Is a command a gang's? -/
def FgCmd.of (c : FgCmd) (gang : Nat) : Bool := c.owner.gang = some gang

/-- A list without the commands of a gang (R271). -/
def Filigree.without (f : Filigree) (gang : Nat) : Filigree :=
  { f with cmds := f.cmds.filter (fun c => !c.of gang) }

/-- Discard the commands of a gang from every die's list, without completions (R271); the waves that wait
for room in a list that lost one re-issue (log 115). -/
def State.dropFg (s : State) (gang : Nat) : State :=
  let ds := (s.dies.filter (fun d => d.2.fil.cmds.any (fun c => c.of gang))).map (·.1)
  let s1 : State := { s with dies := s.dies.map (fun d =>
    (d.1, { d.2 with fil := d.2.fil.without gang })) }
  s1.reissueAll (fun _ x => x.kind = .fgList && ds.contains x.obj)

/-- Discard what the units do for a gang. -/
def State.dropUnits (s : State) (gang : Nat) : State :=
  let s1 := (s.gangProgs gang).foldl (fun (x : State) p =>
    if p.2.2.isFree then x else x.cancelProg p.1 p.2.1 p.2.2) s
  let s2 := (s1.gjobs.filter (fun j => j.owner.gang = some gang)).foldl
    (fun (x : State) j => x.cancelJob j) s1
  s2.dropFg gang

/-- A resident gang of a cancelled level: waves that wait or have stopped are discarded now, the others at
their next issue slot; its programs, jobs and commands stop. -/
def State.cancelGang (s : State) (gang : Nat) : State :=
  let s0 := s.modGang gang (fun g => { g with phase := .resident })
  let s1 := (s0.gangWaves gang).foldl (fun (x : State) p =>
    if p.2.wait.isSome || p.2.stopped then x.discardWave p.1
    else x.setWave p.1 { p.2 with cancel := true, preempt := false }) s0
  s1.dropUnits gang

/-- An entry under a cancelled level: images and waiting gangs are discarded, resident gangs and a COPY's
program stop (R343). -/
def State.cancelEntry (s : State) (e : Entry) : State :=
  let ims := s.imagesOf e
  let s1 : State := { s with images := s.images.filter (fun p => !(p.2.gang.ctx = e.ctx && p.2.gang.launch = e.id)) }
  let s2 : State := { s1 with gangs := s1.gangs.filter (fun p => !(ims.any (fun q => q.1 = p.1))) }
  let s3 := s2.modOrder e.order (fun x => { x with cancelled := true, live := x.live - ims.length })
  let gs := s3.gangs.filter (fun p => p.2.ctx = e.ctx && p.2.launch = e.id)
  let s4 := gs.foldl (fun (x : State) p => x.cancelGang p.1) s3
  if e.copy then
    let ps := s4.engines.flatMap (fun q => (q.2.slots.filter (fun p => p.2.owner.gang.isNone
      && p.2.owner.ctx = e.ctx && p.2.owner.launch = e.id && !p.2.isFree)).map (fun p => (q.1, p.1, p.2)))
    (ps.foldl (fun (x : State) p => x.setProg p.1 p.2.1 { p.2.2 with st := 7, xfers := [] }) s4).launchDone
      e.ctx e.id 0 0
  else s4.entryCheck e.ctx e.id

/-- Consume unread records of a queue, each completing as its levels say, while a stopped level covers them
(R330, R343). -/
def State.consume (s : State) (ctx q : Nat) : Nat → State
  | 0 => s
  | n + 1 =>
    match s.queue? ctx q, s.deadQueue ctx q with
    | some x, some st =>
      if x.v && x.head != x.tail then
        let r := s.headRecord ctx q x
        let dev := q / 64
        let s1 := ((s.physSeen x.recordAt 128).modQueue ctx q (fun y => { y with head := y.head + 1 })).physPut
          (dieMask (s.devDies ctx dev)) (x.daddr + 20) 4 (x.head + 1).toNat
        let s2 := if rKind r = 0 || rKind r = 3 then s1.readWork ctx dev q r
          else s1.endLevels ctx dev q r st 0
        s2.consume ctx q n
      else s
    | _, _ => s

/-- Consume what the front end has seen of every queue of a context. -/
def State.consumeAll (s : State) (ctx : Nat) : State :=
  (((s.ctxs.find ctx).map (fun c => c.queues)).getD []).foldl (fun (x : State) p =>
    x.consume ctx p.1 (p.2.tail - p.2.head).toNat) s

/-- Discard the children of covered launches that wait in the device-side queues. -/
def State.dropChildren (s : State) (ctx level target : Nat) : State :=
  let es := (((s.ctxs.find ctx).map (·.devq)).getD []).filter (fun e => e.under level target)
  es.foldl (fun (x : State) e =>
    (x.modCtx ctx (fun c => { c with devq := c.devq.erase e })).launchDone ctx e.id 0 0) s

/-- Stop everything under a level: a cancel, or with `lost` a die loss's end of unread work. -/
def State.stopUnder (s : State) (ctx level target : Nat) : State :=
  let ids := s.levelsUnder ctx level target
  let s1 := (s.stopLevels ctx ids false).consumeAll ctx
  let es := s1.entries.filter (fun e => e.ctx = ctx && e.under level target)
  let s2 := es.foldl (fun (x : State) e => x.cancelEntry e) s1
  (s2.dropChildren ctx level target).settleAll ctx ids

/-- A cancel takes effect (R343, R388), after the records of earlier events: a level already complete, or
unknown, is unchanged and CSTAT reads 1. -/
def State.cancelEffect (s0 : State) (r : CancelReq) : State :=
  let s := s0.flushEvents r.ctx
  let answer := fun (x : State) (v : Nat) => match r.queue with
    | some q => x.answerCancel r.ctx q v
    | none => x
  if r.level = 0 then s.stopUnder r.ctx 0 0
  else match s.level? r.ctx r.target with
    | some l =>
      if l.level = r.level && !l.complete then (answer s 0).stopUnder r.ctx r.level r.target
      else answer s 1
    | none => answer s 1

/-- Does the cancel of a failed context wait for its event record, which its ring has no room for yet
(R374)? -/
def State.cancelHeld (s : State) (r : CancelReq) : Bool :=
  r.level = 0 && ((s.flushEvents r.ctx).ctxs.find r.ctx).any (fun c =>
    c.regs.evBase != 0 && c.events.any (fun e => e.kind = 3))

/-- CANCEL_TAKE_EFFECT: the arbiter of an I/O die orders the oldest cancel asked of it that waits for no
record. -/
def execCancelTakeEffect (io : Nat) (s : State) : Out :=
  match s.cancels.find? (fun r => r.io = io && !s.cancelHeld r) with
  | none => .refused (.notEnabled "CANCEL_TAKE_EFFECT")
  | some r => .next ({ s with cancels := s.cancels.erase r }.cancelEffect r)

end Sys2Proof.Machine
end

