-- ==== Sys2Proof/Machine/Matrix.lean ====
section
/-! DEFINITION. The matrix array (R17, R66-R72, R229-R238): limbs and alignment, block sums,
accumulation, and the instructions `MLDB`, `MMA`, `MST` and `MZ`, which the array executes in order
after they issue. -/

namespace Sys2Proof.Machine

/-! ## Limbs (R66-R68) -/

/-- Is a code a format of a matrix operand (R231)? -/
def matFmt (f : Nat) : Bool := f ≤ 2 || (6 ≤ f && f ≤ 10)

/-- Fraction bits kept by the alignment, f of R68; 0 for an integer format. -/
def alignF (fmt : Nat) : Nat :=
  match fmt with
  | 6 => 7 | 7 => 7 | 8 => 7 | 9 => 15 | 10 => 23 | _ => 0

/-- Limbs of an element (R67, R68). -/
def limbsOf (fmt : Nat) : Nat :=
  match fmt with
  | 9 => 2 | 10 => 3 | _ => 1

/-- An aligned block: its exponent E, whether it is special, and its elements' limbs. -/
structure Block where
  exp : Int
  special : Bool
  limbs : List (List Int)
  deriving DecidableEq, Repr, Inhabited

/-- The unbiased exponent of an element, none for a zero (R68). -/
def elemExp (f : Fmt) (x : Fl) : Option Int :=
  match x with
  | .fin _ m e =>
    if m = 0 then none
    else if m < 2 ^ f.fb then some (1 - (f.bias : Int)) else some ((Nat.log2 m : Int) + e)
  | _ => none

/-- The largest of some exponents. -/
def maxExp : List Int → Option Int
  | [] => none
  | x :: t => match maxExp t with
    | none => some x
    | some y => some (if x < y then y else x)

/-- The n limbs of an aligned magnitude, most significant first (R68). -/
def limbList (n q : Nat) (neg : Bool) : List Int :=
  (List.range n).map (fun j => signInt neg (q / 2 ^ (8 * (n - 1 - j)) % 256))

/-- Align a block of elements (R67, R68): the block and the flags it sets. -/
def alignBlock (fmt : Nat) (codes : List Nat) : Block × W32 :=
  if fmt ≤ 2 then
    let vs := codes.map (intVal fmt)
    (⟨0, false, vs.map (fun v => [v.1])⟩, vs.foldl (fun a v => a ||| v.2) 0)
  else
    let f := fmtOf fmt
    let xs := codes.map (decFl f)
    if xs.any (fun x => match x with
        | .fin _ _ _ => false
        | _ => true) then
      (⟨0, true, codes.map (fun _ => rep (limbsOf fmt) 0)⟩, 0)
    else
      let e := (maxExp (xs.filterMap (elemExp f))).getD (1 - (f.bias : Int))
      let qs := xs.map (fun x => match x with
        | .fin n m k => (n, roundMag .rne false m (k + (alignF fmt : Int) - e) 0 false)
        | _ => (false, (0, false)))
      (⟨e, false, qs.map (fun q => limbList (limbsOf fmt) q.2.1 q.1)⟩,
        flIf (qs.any (fun q => q.2.2)) flALN)

/-- A scale exponent: -128 is read as 0 and sets FMT (R66). -/
def scaleExp (b : Byte) : Int × W32 :=
  if b = 0x80#8 then (0, flFMT) else (b.toInt, 0)

/-- A row of A or column of B, aligned: its blocks of L = 32 × 2^len elements with their scales. -/
def alignVec (fmt len : Nat) (codes : List Nat) (scales : List Byte) : PanelCol × W32 :=
  let l := 32 * 2 ^ len
  let bs := (List.range (128 / l)).map (fun b => alignBlock fmt ((codes.drop (b * l)).take l))
  let ss := scales.map scaleExp
  ({ exps := bs.map (fun b => b.1.exp), scales := ss.map (·.1), special := bs.map (fun b => b.1.special),
     limbs := bs.flatMap (fun b => b.1.limbs) },
   (bs.foldl (fun a b => a ||| b.2) 0) ||| (ss.foldl (fun a x => a ||| x.2) 0))

/-- The 128 elements of a format that bytes hold, INT4S as nibbles (R53). -/
def elemCodes (fmt : Nat) (bs : List Byte) : List Nat :=
  if fmt = 0 then
    (List.range 128).map (fun k => (nth bs (k / 2) 0).toNat / 2 ^ (4 * (k % 2)) % 16)
  else
    let n := fmtW fmt / 8
    (List.range 128).map (fun k => natOf ((bs.drop (k * n)).take n))

/-! ## Products and accumulation (R69-R71) -/

/-- The limb products of an operand pair, in order (R69). -/
def limbPairs (na nb : Nat) : List (Nat × Nat) :=
  let mx := if na < nb then nb else na
  (List.range mx).flatMap (fun t =>
    (List.range (t + 1)).filterMap (fun ja =>
      if ja < na && t - ja < nb then some (ja, t - ja) else none))

/-- A limb's weight exponent, less E (R68). -/
def limbExp (fmt j : Nat) : Int :=
  if fmt ≤ 2 then 0 else 8 * ((limbsOf fmt : Int) - 1 - j) - alignF fmt

/-- The sum of products of limbs over `n` elements from `k` (R70). -/
def blockSum (a b : List (List Int)) (ja jb k n : Nat) : Int :=
  ((((a.drop k).take n).zip ((b.drop k).take n)).map (fun p => nth p.1 ja 0 * nth p.2 jb 0)).foldl
    (· + ·) 0

/-- How two operands accumulate: formats, lengths, and whether Z holds FP32. -/
structure MatCfg where
  fa : Nat
  la : Nat
  fb : Nat
  lb : Nat
  flt : Bool
  deriving DecidableEq, Repr

/-- One block sum into Z (R71). -/
def accum (c : MatCfg) (a b : PanelCol) (ja jb sub : Nat) (z : W32) : W32 × W32 :=
  let l := 32 * 2 ^ (if c.la < c.lb then c.la else c.lb)
  let ba := sub * l / (32 * 2 ^ c.la)
  let bb := sub * l / (32 * 2 ^ c.lb)
  let sum := blockSum a.limbs b.limbs ja jb (sub * l) l
  if c.flt then
    if nth a.special ba false || nth b.special bb false then (0x7FC00000#32, flIV)
    else if sum = 0 then (z, 0)
    else
      let ea := if c.fa ≤ 2 then 0 else nth a.exps ba 0
      let eb := if c.fb ≤ 2 then 0 else nth b.exps bb 0
      let k := ea + limbExp c.fa ja + eb + limbExp c.fb jb + nth a.scales ba 0 + nth b.scales bb 0
      let f := fmtOf 10
      let r := flAdd f .rne false (decFl f z.toNat) (.fin (decide (sum < 0)) sum.natAbs k)
      (BitVec.ofNat 32 r.1, r.2 &&& (flOF ||| flIV))
  else
    let t := z.toInt + sum
    let v := clampInt (-2147483648) 2147483647 t
    (BitVec.ofInt 32 v, flIf (v != t) flZSAT)

/-- All block sums of one element of Z, in the order of R71. -/
def accumAll (c : MatCfg) (a b : PanelCol) (z : W32) : W32 × W32 :=
  let subs := List.range (4 / 2 ^ (if c.la < c.lb then c.la else c.lb))
  ((limbPairs (limbsOf c.fa) (limbsOf c.fb)).flatMap (fun p => subs.map (fun x => (p.1, p.2, x)))).foldl
    (fun acc q =>
      let r := accum c a b q.1 q.2.1 q.2.2 acc.1
      (r.1, acc.2 ||| r.2)) (z, 0)

/-! ## Tiles -/

/-- The key of element (i, c) of a tile. -/
def zKey (tile i c : Nat) : Nat := tile * 32768 + i * 512 + c

/-- Merge rising entries over a map's; a zero entry is dropped. -/
def mergeZ : Nat → Map W32 → Map W32 → Map W32
  | 0, _, _ => []
  | _ + 1, [], m => m
  | _ + 1, ns, [] => ns.filter (fun p => p.2 != 0)
  | fuel + 1, (a, x) :: t, (b, y) :: u =>
    if a < b then (if x = 0 then mergeZ fuel t ((b, y) :: u) else (a, x) :: mergeZ fuel t ((b, y) :: u))
    else if a = b then (if x = 0 then mergeZ fuel t u else (a, x) :: mergeZ fuel t u)
    else (b, y) :: mergeZ fuel ((a, x) :: t) u

/-- Write rising entries of Z. -/
def Core.setZ (c : Core) (es : Map W32) : Core :=
  { c with z := mergeZ (es.length + c.z.length + 1) es c.z }

/-- Clear a tile. -/
def Core.clearZ (c : Core) (tile : Nat) : Core :=
  { c with z := c.z.filter (fun p => p.1 / 32768 != tile) }

/-! ## Operands at issue (R206, R231-R236) -/

/-- Bits of M: `.pair`, `.free` (R230). -/
def matPair (o : WOp) : Bool := o.m.getLsbD 0
def matFree (o : WOp) : Bool := o.m.getLsbD 1

/-- Columns that an instruction may name. -/
def matCols (o : WOp) : Nat := if matPair o then 1024 else 512

/-- The format block at an offset, when its reserved fields are zero and the side's format and length
are legal; `lo` is 0 for A and 8 for B (R231). -/
def Gang.fmtBlock (g : Gang) (off lo tab : Nat) (n : Nat) : Option Nat :=
  if off % 16 = 0 && g.inBounds off 32 then
    let b := g.scrNat off 32
    if fld b 6 2 = 0 && fld b 14 50 = 0 && fld b 192 64 = 0 && matFmt (fld b lo 4)
        && fld b (lo + 4) 2 != 3
        && (scaleRange (fld b tab 64) n (fld b (lo + 4) 2)).all (fun r => g.inBounds r.1 r.2)
    then some b else none
  else none

/-- What a matrix instruction finds at issue: the format block of one that passes its checks, or the
lowest bit of the field whose value failed. -/
def matCheck (i : Instr) (o : WOp) (w : Wave) (g : Gang) : Except Nat Nat :=
  let a := (w.greg o.a.toNat).toNat % 2 ^ 32
  let b := (w.greg o.b.toNat).toNat
  let c := (w.greg o.c.toNat).toNat
  let stride := fld c 0 32
  match i with
  | .mldb _ =>
    let n := fld c 32 11
    if stride % 16 != 0 || fld c 43 21 != 0 || n = 0 || matCols o < n then .error 48
    else match g.fmtBlock (b % 2 ^ 32) 8 128 n with
      | none => .error 40
      | some blk =>
        if g.inBounds a ((n - 1) * stride + fmtBytes (fld blk 8 4) 128) then .ok blk else .error 32
  | .mma _ =>
    let r := fld c 32 7
    if stride % 16 != 0 || fld c 39 25 != 0 || r = 0 || 64 < r then .error 48
    else match g.fmtBlock (b % 2 ^ 32) 0 64 r with
      | none => .error 40
      | some blk =>
        let part := fmtBytes (fld blk 0 4) 32
        if (List.range r).all (fun i => (List.range 4).all (fun q =>
            !matReads o i q || g.inBounds (a + i * stride + q * part) part)) then .ok blk
        else .error 32
  | .mst _ =>
    let r := fld c 32 7
    let n := fld c 40 11
    let f := fld b 32 4
    if 2 ^ 36 ≤ b || 11 < f then .error 40
    else if stride % 16 != 0 || bitN c 39 || fld c 51 13 != 0 || r = 0 || 64 < r || n = 0
        || matCols o < n || stride < fmtBytes f n || (f = 0 && n % 2 = 1) then .error 48
    else if g.inBounds a ((r - 1) * stride + fmtBytes f n) then .ok 0 else .error 32
  | _ => .ok 0

/-- The cores whose arrays an instruction uses: its own, and with `.pair` the one at the next position
(R236); none where `.pair` is not allowed. -/
def matCores (o : WOp) (k : Nat) (g : Gang) : Option (List Nat) :=
  let c := slotCore k
  if !matPair o then some [c]
  else if (g.cores.length = 2 || g.cores.length = 4) && c % 2 = 0 then some [c, c + 1] else none

/-- Does the wave hold a core's claim, no instruction of it that frees its claims being under way? -/
def State.holdsClaim (s : State) (k c : Nat) : Bool :=
  (s.core c).claim = some k && !(s.matJobs k).any (fun j =>
    match j.op.wave? with
    | some (_, o) => matFree o
    | none => false)

/-- The scratch offset of the format block that `MLDB` and `MMA` read as they issue (R231). -/
def matBlockAt (i : Instr) (w : Wave) (o : WOp) : Option Nat :=
  match i with
  | .mldb _ => some ((w.greg o.b.toNat).toNat % 2 ^ 32)
  | .mma _ => some ((w.greg o.b.toNat).toNat % 2 ^ 32)
  | _ => none

/-- The job whose footprint the read of the format block meets (R110). -/
def State.fmtHeld (s : State) (w : Wave) (blk : Option Nat) : Option Nat :=
  blk.bind (fun off => s.heldBy w.gang false true off 32)

/-- The job whose footprint a matrix instruction's accesses at the array meet (R110). -/
def State.matHeld (s : State) (w : Wave) (j : MatJob) : Option Nat :=
  let wr := match j.op with
    | .mst _ => true
    | _ => false
  j.ranges.findSome? (fun r => s.heldBy w.gang wr true r.1 r.2)

/-- Must a matrix instruction wait for redirected old values that its accesses at the array meet (R108)? -/
def State.matStalls (s : State) (k : Nat) (j : MatJob) : Bool :=
  j.ranges.any (fun r => s.redirBusy k r.1 r.2)

/-- Issue a matrix instruction (R110, R229, R236, R237): the waits for its format block, so that the checks
judge the bytes that a job still writing it leaves (log 130), the checks, the waits for the rest, the
claims, and its place in the array's order. -/
def matIssue (i : Instr) (o : WOp) (s : State) (name : String) : Out :=
  onGang s o name (fun k w g =>
    match matCores o k g with
    | none => illegalOp s k w 56 63
    | some cs =>
      let at_ := matBlockAt i w o
      if at_.any (fun off => s.scrBusy k off 32) then stall s
      else match s.fmtHeld w at_ with
      | some x => .next (s.waitOn k w .footprint x 0 i)
      | none => match matCheck i o w g with
      | .error lo => illegalField s k w lo
      | .ok blk =>
        let j : MatJob := ⟨k, w.gang, i, w.greg o.a.toNat, w.greg o.b.toNat, w.greg o.c.toNat,
          BitVec.ofNat 256 blk⟩
        if s.matStalls k j then stall s
        else match s.matHeld w j with
        | some x => .next (s.waitOn k w .footprint x 0 i)
        | none => match cs.find? (fun c => !(s.holdsClaim k c || (s.core c).claim.isNone)) with
        | some c =>
          let s1 := (cs.takeWhile (· != c)).foldl
            (fun (x : State) d => x.modCore d (fun y => { y with claim := some k })) s
          .next (s1.waitOn k w .claim c 0 i)
        | none =>
          let s1 := cs.foldl (fun (x : State) d => x.modCore d (fun y => { y with claim := some k })) s
          .next ((s1.modCore (slotCore k) (fun y => { y with matq := y.matq ++ [j] })).retire k w o.len))

def execMldb (o : WOp) (s : State) : Out := matIssue (.mldb o) o s "MLDB"
def execMma (o : WOp) (s : State) : Out := matIssue (.mma o) o s "MMA"
def execMst (o : WOp) (s : State) : Out := matIssue (.mst o) o s "MST"
def execMz (o : WOp) (s : State) : Out := matIssue (.mz o) o s "MZ"

/-! ## Execution at the array (R232-R235, R237, R238) -/

/-- Read n bytes of a gang's scratch. -/
def State.scr (s : State) (g off n : Nat) : List Byte :=
  ((s.gangs.find g).map (fun x => x.scrRead off n)).getD (rep n 0)

/-- The scale bytes of row or column j: its 128 ÷ L entries, zero without a table. -/
def State.scalesOf (s : State) (g tab len j : Nat) : List Byte :=
  let n := 4 / 2 ^ len
  if tab = 0 then rep n 0 else s.scr g (tab + j * n) n

/-- Put columns from lo on into a core's panel, at most 512 of them. -/
def panelOf (blk : Nat) (cols : List PanelCol) : Panel :=
  { fmt := fld blk 8 4, len := fld blk 12 2, scaled := fld blk 128 64 != 0, n := cols.length,
    cols := (cols.zipIdx).map (fun p => (p.2, p.1)) }

/-- MLDB (R232): the panels after it, and its flags. -/
def State.doMldb (s : State) (g : Nat) (o : WOp) (j : MatJob) : State × W32 :=
  let blk := j.blk.toNat
  let fmt := fld blk 8 4
  let len := fld blk 12 2
  let c := j.gc.toNat
  let a := j.ga.toNat % 2 ^ 32
  let vs := (List.range (fld c 32 11)).map (fun i =>
    alignVec fmt len (elemCodes fmt (s.scr g (a + i * fld c 0 32) (fmtBytes fmt 128)))
      (s.scalesOf g (fld blk 128 64) len i))
  let cols := vs.map (·.1)
  let own := slotCore j.wave
  let s1 := s.modCore own (fun x => { x with panel := panelOf blk (cols.take 512) })
  let s2 := if matPair o then
      s1.modCore (own + 1) (fun x => { x with panel := panelOf blk (cols.drop 512) })
    else s1
  (s2, vs.foldl (fun f v => f ||| v.2) 0)

/-- One core's part of an MMA: its tile's new elements, and the flags. -/
def Core.doMma (x : Core) (tile fa la : Nat) (scaled : Bool) (rows : List PanelCol) : Core × W32 :=
  let p := x.panel
  let c : MatCfg := ⟨fa, la, p.fmt, p.len,
    decide (2 < fa) || decide (2 < p.fmt) || scaled || p.scaled⟩
  let rs := (rows.zipIdx).flatMap (fun a => p.cols.map (fun b =>
    let k := zKey tile a.2 b.1
    (k, accumAll c a.1 b.2 (x.z.getD k 0))))
  (x.setZ (rs.map (fun r => (r.1, r.2.1))), rs.foldl (fun f r => f ||| r.2.2) 0)

/-- The elements of a row of A, those under a clear mask bit reading as +0 (R233). -/
def State.rowCodes (s : State) (g : Nat) (o : WOp) (fmt off i : Nat) : List Nat :=
  ((elemCodes fmt (s.scr g off (fmtBytes fmt 128))).zipIdx).map (fun p =>
    if matReads o i (p.2 / 32) then p.1 else 0)

/-- MMA (R233). -/
def State.doMma (s : State) (g : Nat) (o : WOp) (j : MatJob) : State × W32 :=
  let blk := j.blk.toNat
  let fmt := fld blk 0 4
  let len := fld blk 4 2
  let tab := fld blk 64 64
  let c := j.gc.toNat
  let a := j.ga.toNat % 2 ^ 32
  let vs := (List.range (fld c 32 7)).map (fun i =>
    alignVec fmt len (s.rowCodes g o fmt (a + i * fld c 0 32) i) (s.scalesOf g tab len i))
  let rows := vs.map (·.1)
  let own := slotCore j.wave
  let tile := o.d.toNat % 2
  let r1 := (s.core own).doMma tile fmt len (tab != 0) rows
  let s1 := s.setCore own r1.1
  let fl := vs.foldl (fun f v => f ||| v.2) r1.2
  if matPair o then
    let r2 := (s1.core (own + 1)).doMma tile fmt len (tab != 0) rows
    (s1.setCore (own + 1) r2.1, fl ||| r2.2)
  else (s1, fl)

/-- One stored element of MST (R72, R234). An integer zero has no sign of its own: it counts as +0, so a
negative scale stores -0 in a floating format (log 95). -/
def mstElem (o : WOp) (fmt t : Nat) (z : W32) : Nat × W32 :=
  let f := fmtOf 10
  let v := if o.m.getLsbD 3 then Fl.fin (decide (z.toInt < 0)) z.toInt.natAbs 0 else decFl f z.toNat
  let (x, fl) := scaleVal v (decFl f t)
  let sat := o.m.getLsbD 2
  let (r, fl2) := if fmt ≤ 5 then toInt fmt .rne sat x else toFloat fmt .rne sat x
  (r, fl ||| fl2)

/-- The bytes of a row of stored elements; two INT4S elements share a byte. -/
def rowBytes (fmt : Nat) : List Nat → List Byte
  | [] => []
  | a :: t =>
    if fmt = 0 then
      match t with
      | b :: u => BitVec.ofNat 8 (a % 16 + b % 16 * 16) :: rowBytes fmt u
      | [] => [BitVec.ofNat 8 (a % 16)]
    else bytesOf (fmtW fmt / 8) a ++ rowBytes fmt t

/-- MST (R234). -/
def State.doMst (s : State) (g : Nat) (o : WOp) (j : MatJob) : State × W32 :=
  let c := j.gc.toNat
  let a := j.ga.toNat % 2 ^ 32
  let fmt := fld j.gb.toNat 32 4
  let own := slotCore j.wave
  let tile := o.d.toNat % 2
  let z := fun (i col : Nat) =>
    if col < 512 then (s.core own).z.getD (zKey tile i col) 0
    else (s.core (own + 1)).z.getD (zKey tile i (col - 512)) 0
  (List.range (fld c 32 7)).foldl (fun acc i =>
    let es := (List.range (fld c 40 11)).map (fun col => mstElem o fmt (fld j.gb.toNat 0 32) (z i col))
    (acc.1.modGang g (fun x => x.scrWrite (a + i * fld c 0 32) (rowBytes fmt (es.map (·.1)))),
     es.foldl (fun f e => f ||| e.2) acc.2)) (s, 0)

/-- MZ (R235). -/
def State.doMz (s : State) (o : WOp) (j : MatJob) : State :=
  let own := slotCore j.wave
  let tile := o.d.toNat % 2
  let s1 := s.modCore own (fun x => x.clearZ tile)
  if matPair o then s1.modCore (own + 1) (fun x => x.clearZ tile) else s1

/-- A matrix instruction's own effects (R232-R235). -/
def State.matEffect (s : State) (o : WOp) (j : MatJob) : State × W32 :=
  match j.op with
  | .mldb _ => s.doMldb j.gang o j
  | .mma _ => s.doMma j.gang o j
  | .mst _ => s.doMst j.gang o j
  | _ => (s.doMz o j, 0)

/-- Release a core's claim, if the wave holds it. -/
def State.freeClaim (s : State) (c k : Nat) : State :=
  if (s.core c).claim = some k then s.passClaim c else s

/-- The oldest matrix instruction of a core executes: its effects, its flags, and with `.free` the release
of the wave's claims, on the follower's array too (R229, R236). A wave that a cancel has discarded has
no flags left, and the last of its instructions releases the claims. -/
def State.matRun (s : State) (c : Nat) (j : MatJob) (o : WOp) : State :=
  let r := s.matEffect o j
  let s1 := r.1.modCore c (fun x => { x with matq := x.matq.drop 1, lastMat := x.cycle })
  let s2 := if matPair o then s1.modCore (c + 1) (fun x => { x with lastMat := x.cycle }) else s1
  if (s2.waves.find j.wave).any (·.gang = j.gang) then
    let s3 := s2.modWave j.wave (fun w => w.orFlags r.2)
    if matFree o then (s3.freeClaim c j.wave).freeClaim (c + 1) j.wave else s3
  else if (s2.core c).matq.any (fun x => x.wave = j.wave && x.gang = j.gang) then s2
  else (s2.freeClaim c (lateClaim j.wave)).freeClaim (c + 1) (lateClaim j.wave)

/-- May a core's cluster start a matrix instruction (R401)? -/
def State.chainOk (s : State) (c : Nat) : Bool :=
  let d := s.die (coreDie c)
  let cl := corePhys c / 4
  !d.chainEn.getLsbD cl || (d.chainTok = cl && (d.chainHold != 0 || d.chainRun = 0))

/-- The matrix instructions that an array has still to execute: its core's own, and for a follower's the
paired ones of its leader (R236). -/
def State.arrayJobs (s : State) (c : Nat) : List MatJob :=
  (s.core c).matq ++ (if c % 2 = 1 then (s.core (c - 1)).matq.filter (fun j =>
    match j.op.wave? with
    | some (_, o) => matPair o
    | none => false) else [])

/-- A cluster in Chain mode counts the instructions it starts while it holds the token (R401). -/
def State.chainCount (s : State) (c : Nat) : State :=
  s.modDie (coreDie c) (fun d =>
    if d.chainEn.getLsbD (corePhys c / 4) then { d with chainRun := d.chainRun + 1 } else d)

/-- MATRIX_ARRAY_EXECUTE: the core's oldest matrix instruction executes, once its Facets are awake and
its cluster may start it (R237, R238). -/
def execMatrixArrayExecute (c : Nat) (s : State) : Out :=
  match (s.core c).matq with
  | [] => .refused (.notEnabled "MATRIX_ARRAY_EXECUTE")
  | j :: _ => match j.op.wave? with
    | none => .refused (.notEnabled "MATRIX_ARRAY_EXECUTE")
    | some (_, o) =>
      if !s.islandOn (arrayIsland c) || (matPair o && !s.islandOn (arrayIsland (c + 1)))
          || (s.core c).fgated || (matPair o && (s.core (c + 1)).fgated) || !s.chainOk c then
        .refused (.notEnabled "MATRIX_ARRAY_EXECUTE")
      else .next ((s.chainCount c).matRun c j o)

/-- Every matrix instruction of a wave that is under way completes (R237). -/
def State.matDrain (s : State) (c : Nat) : Nat → State
  | 0 => s
  | n + 1 => match (s.core c).matq with
    | [] => s
    | j :: _ => match j.op.wave? with
      | some (_, o) => (s.matRun c j o).matDrain c n
      | none => s

end Sys2Proof.Machine
end

