-- ==== Sys2Proof/Machine/Locket.lean ====
section
/-! DEFINITION. Pre-emption and the Locket image (R342, R363, R365-R370): which gangs leave, how a gang
stops, and the bytes of its image in the context's arena. -/

namespace Sys2Proof.Machine

/-! ## The image's bytes (R366-R370) -/

/-- A field of an image: offset, bytes, value. -/
abbrev ImgItem := Nat × Nat × Nat

/-- Round up to 4 KiB. -/
def pad4k (n : Nat) : Nat := (n + 4095) / 4096 * 4096

/-- Bytes of a wave record (R366, R367). -/
def waveRecBytes (w64 : Bool) (vregs : Nat) : Nat :=
  let n := if w64 then 64 else 32
  (2048 + 64 * n + 4 * vregs * n + 255) / 256 * 256

/-- Offsets of a workgroup section's parts, relative to the section, and its length: waves, scratch, Z,
panel, engine (R366, R369, R370). -/
structure WgShape where
  scr : Nat
  z : Nat
  panel : Nat
  eng : Nat
  len : Nat
  deriving DecidableEq, Repr, Inhabited

def wgShape (kd : KDesc) (waves : Nat) : WgShape :=
  let a := pad4k (64 + waves * waveRecBytes kd.w64 kd.vregs)
  let b := a + pad4k kd.scr
  let c := b + 262144
  let d := c + pad4k 401424
  ⟨a, b, c, d, d + pad4k 8256⟩

/-- Bytes of an image. -/
def imageLen (kd : KDesc) (waves : Nat) (fil : Option Filigree) : Nat :=
  4096 + kd.gang * (wgShape kd waves).len
    + (match fil with
      | some f => pad4k (1024 + 128 * f.nb)
      | none => 0)

/-- The code of a wait kind in WSTAT (R367). -/
def WaitKind.code : WaitKind → Nat
  | .pop => 1
  | .push => 2
  | .barrier => 3
  | .yield => 4
  | .copy => 5
  | .claim => 6
  | .footprint => 7
  | .fgList => 8

/-- The awaited object of a wait as WSTAT gives it: a scratch offset, or 0. -/
def Wait.offset (x : Wait) : Nat :=
  match x.kind with
  | .pop => x.obj
  | .push => x.obj
  | .barrier => x.obj
  | .yield => x.obj
  | _ => 0

/-- The awaited generation of a wait at a barrier object; 0 for every other. -/
def Wait.awaited (x : Wait) : Nat :=
  match x.kind with
  | .barrier => x.gen % 16
  | .yield => x.gen % 16
  | _ => 0

/-- WSTAT (R367). -/
def Wave.wstat (w : Wave) (claim follower : Bool) : Nat :=
  let b := fun (x : Bool) (i : Nat) => if x then 2 ^ i else 0
  w.stack.length + b w.sys.sup 6 + b w.sys.inTrap 7 + b w.sys.inLane 8 + b w.sys.bpSupp 9
    + b w.sys.stepPend 10 + b claim 11 + b follower 12
    + (match w.wait with
      | some x => x.kind.code * 2 ^ 16 + x.awaited * 2 ^ 20 + x.offset * 2 ^ 32
      | none => 0)
    + w.sys.walk.length * 2 ^ 24

/-- The convergence stack of a wave record, oldest entry first (R29). -/
def stackItems (w : Wave) : List ImgItem :=
  (w.stack.reverse.zipIdx).map (fun p =>
    (128 + 16 * p.2, 16, p.1.mask.toNat + (p.1.pc.extractLsb' 3 52).toNat * 2 ^ 64
      + p.1.kind.toNat * 2 ^ 116))

/-- A wave record (R367). -/
def waveItems (w : Wave) (claim follower : Bool) : List ImgItem :=
  [(0, 8, w.pc.toNat), (8, 8, w.exm.toNat), (16, 8, w.live.toNat), (24, 8, w.park.toNat),
    (32, 8, w.rpl.toNat), (40, 8, w.stop.toNat), (48, 8, w.hretPc.toNat), (56, 8, w.hretExm.toNat),
    (64, 4, w.regs.mode.toNat), (68, 4, w.regs.flags.toNat), (72, 8, w.wstat claim follower),
    (80, 8, (w.wait.map (·.ord)).getD 0), (88, 8, w.regs.gp.toNat)]
    ++ stackItems w
    ++ w.regs.g.map (fun p => (640 + 8 * p.1, 8, p.2.toNat))
    ++ w.regs.c.map (fun p => (1152 + 16 * p.1, 16, p.2.toNat))
    ++ (List.range 16).map (fun q => (1408 + 4 * q, 4, match w.regs.q.find q with
      | some v => v.toNat
      | none => 0xFFFFFFFF))
    ++ [(1472, 64, w.sys.trec.toNat)]
    ++ w.regs.p.map (fun p => (1536 + 8 * p.1, 8, p.2.toNat))
    ++ (w.sys.walk.zipIdx).map (fun p => (1920 + 32 * p.2, 32, p.1.pc.toNat + p.1.w0.toNat * 2 ^ 64
      + p.1.w1.toNat * 2 ^ 128 + p.1.exm.toNat * 2 ^ 192))
    ++ w.sys.frec.map (fun p => (2048 + 64 * p.1, 64, p.2.toNat))
    ++ w.regs.v.map (fun p => (2048 + 64 * w.width + 4 * (p.1 / 64 * w.width + p.1 % 64), 4, p.2.toNat))

/-- A column of the panel part: its block headers and limbs (R369). -/
def colItems (c : Nat) (x : PanelCol) : List ImgItem :=
  (List.range x.exps.length).map (fun b => (16 + 4 * (4 * c + b), 4,
    intCode 16 (nth x.exps b 0) + intCode 8 (nth x.scales b 0) * 2 ^ 16
      + (if nth x.special b false then 2 ^ 24 else 0)))
  ++ (x.limbs.zipIdx).flatMap (fun e => (e.1.zipIdx).map (fun l =>
    (8208 + 2 * (3 * (128 * c + e.2) + l.2), 2, intCode 16 l.1)))

/-- The panel part (R369). -/
def panelItems (p : Panel) : List ImgItem :=
  [(0, 1, p.fmt + p.len * 16), (1, 1, if p.scaled then 1 else 0), (2, 2, p.n)]
    ++ p.cols.flatMap (fun c => colItems c.1 c.2)

/-- One slot of the engine part (R370). -/
def progItems (p : Prog) : List ImgItem :=
  p.e.map (fun r => (8 * r.1, 8, r.2.toNat)) ++ p.d.map (fun r => (256 + 64 * r.1, 64, r.2.toNat))
    ++ p.l.map (fun r => (768 + 8 * r.1, 8, r.2.toNat))
    ++ [(800, 8, p.cpc.toNat), (808, 4, p.dbar.toNat), (812, 1, p.st), (816, 4, p.seq),
      (824, 40, p.frec.toNat), (864, 64, p.fblock.toNat), (928, 8, p.ord)]

/-- Move items up. -/
def shift (n : Nat) (xs : List ImgItem) : List ImgItem := xs.map (fun x => (n + x.1, x.2))

/-- The engine part. -/
def engItems (e : Engine) : List ImgItem :=
  (0, 4, e.starts) :: e.slots.flatMap (fun p => shift (64 + 1024 * p.1) (progItems p.2))

/-- A workgroup section: its header, its waves, its region of the gang's scratch, Z, panel and engine
(R366). -/
def wgItems (m : Image) (kd : KDesc) (wg : Nat) : List ImgItem :=
  let sh := wgShape kd m.gang.waves
  let ws := (m.waves.zipIdx).filter (fun p => p.1.wg = wg)
  [(0, 4, ws.length), (8, 8, sh.scr), (16, 8, sh.z), (24, 8, sh.panel), (32, 8, sh.eng)]
    ++ (ws.zipIdx).flatMap (fun p =>
      let own := nth m.claims wg none = some p.1.2
      let fol := (m.claims.zipIdx).any (fun c => c.2 != wg && c.1 = some p.1.2)
      shift (64 + p.2 * waveRecBytes kd.w64 kd.vregs) (waveItems p.1.1 own fol))
    ++ ((m.gang.scratch.filter (fun b => b.1 / kd.scr = wg)).map (fun b => (sh.scr + b.1 % kd.scr, 1, b.2.toNat)))
    ++ (nth m.zs wg []).map (fun z => (sh.z + 4 * z.1, 4, z.2.toNat))
    ++ shift sh.panel (panelItems (nth m.panels wg Panel.zero))
    ++ shift sh.eng (engItems (nth m.engines wg Engine.init))

/-- The record of a bit in the Filigree section (R370, R267). -/
def bitValue (b : PBit) : Nat :=
  b.h.toNat + b.colour * 2 ^ 16 + (if b.s then 2 ^ 20 else 0) + (if b.clamp then 2 ^ 21 else 0)
    + b.cpl.length * 2 ^ 24 + b.count * 2 ^ 32
    + (b.cpl.zipIdx).foldl (fun (n : Nat) c => n + c.1.1 * 2 ^ (64 + 16 * c.2)
        + c.1.2.toNat * 2 ^ (576 + 8 * c.2)) 0

/-- The sweeps that remain of a command: none of one that is no sweep, or that has completed (R370). -/
def FgCmd.remaining (c : FgCmd) : Nat := if c.fn = 5 && c.status.isNone then c.left else 0

/-- The Filigree section (R370). -/
def filItems (f : Filigree) : List ImgItem :=
  [(0, 4, f.nb), (4, 1, f.ncol), (5, 1, if f.det then 1 else 0), (6, 2, f.beta.toNat), (8, 8, f.key.toNat),
    (16, 8, f.sweep.toNat), (24, 1, (f.cmds.head?.map (·.colour)).getD 0), (25, 1, f.cmds.length),
    (28, 4, (f.cmds.head?.map FgCmd.remaining).getD 0)]
    ++ (f.cmds.zipIdx).flatMap (fun p => shift (64 + 32 * p.2)
      [(0, 8, p.1.ga.toNat), (8, 8, p.1.gc.toNat), (16, 1, p.1.fn), (20, 4, p.1.queue), (24, 4, p.1.seq)])
    ++ (List.range f.nb).map (fun i => (1024 + 128 * i, 128, bitValue (f.bit i)))

/-- The whole image (R366). -/
def imageItems (m : Image) (kd : KDesc) : List ImgItem :=
  let sh := wgShape kd m.gang.waves
  let at_ := fun (i : Nat) => 4096 + i * sh.len
  [(0, 4, 0x00040002), (4, 4, 1), (8, 8, imageLen kd m.gang.waves m.fil), (16, 4, m.gang.ctx),
    (20, 4, m.gang.gangId), (24, 8, m.gang.launch), (32, 1, kd.gang), (33, 1, if kd.w64 then 64 else 32),
    (34, 1, kd.vregs / 8), (35, 1, m.gang.waves), (36, 4, kd.scr), (40, 8, kd.va.toNat)]
    ++ (List.range kd.gang).map (fun i => (48 + 8 * i, 8, at_ i))
    ++ [(80, 8, if m.fil.isSome then at_ kd.gang else 0)]
    ++ (List.range kd.gang).flatMap (fun i => shift (at_ i) (wgItems m kd i))
    ++ (match m.fil with
      | some f => shift (at_ kd.gang) (filItems f)
      | none => [])

/-- Write an image at a PA: unnamed bytes are zero. -/
def State.writeImage (s : State) (dm pa : Nat) (m : Image) (kd : KDesc) : State :=
  (imageItems m kd).foldl (fun (x : State) i => x.physPut dm (pa + i.1) i.2.1 i.2.2)
    (s.zeroHome pa (imageLen kd m.gang.waves m.fil))

/-! ## The arena (R365) -/

/-- The arena slots of a context that no image holds. -/
def State.freeArena (s : State) (ctx : Nat) : List Nat :=
  match s.ctxs.find ctx with
  | none => []
  | some c => (List.range c.regs.lkSlots.toNat).filter (fun i =>
      !(s.images.any (fun p => p.2.gang.ctx = ctx && p.2.slot = i)))

/-- Bytes of an arena slot, and the PA of one. -/
def CtxRegs.slotBytes (r : CtxRegs) : Nat := r.lkSlot.toNat * 4096
def CtxRegs.slotAt (r : CtxRegs) (i : Nat) : Nat := r.lkBase.toNat + i * r.slotBytes

/-- The arena slots of a context that a further gang may count on: those that no image holds, but for one
for each gang of the context that is stopping (R365). -/
def State.arenaRoom (s : State) (ctx : Nat) : Nat :=
  (s.freeArena ctx).length
    - (s.gangs.filter (fun p => p.2.ctx = ctx && p.2.phase = .stopping)).length

/-- The Filigree state that a gang's image would hold: the array of its die, when the gang uses it, and the
gang's commands in the list (R271, log 111). One that has executed, and whose completion entry has yet to be
pushed, stays with its status, and is pushed after the restore: R271 names the commands not yet run alone
(log 122). -/
def State.gangFil (s : State) (gang : Nat) (g : Gang) : Option Filigree :=
  let f := (s.die (coreDie (nth g.cores 0 0))).fil
  let mine := f.cmds.filter (fun c => c.owner.gang = some gang)
  if f.users.contains gang then some { f with cmds := mine } else none

/-- Does a gang's image fit a slot of its context's arena? -/
def State.imageFits (s : State) (gang : Nat) (g : Gang) : Bool :=
  match s.ctxs.find g.ctx, s.entry? g.ctx g.launch with
  | some c, some e => !c.poisoned && decide (imageLen e.kd g.waves (s.gangFil gang g) ≤ c.regs.slotBytes)
      && decide (0 < s.arenaRoom g.ctx)
  | _, _ => false

/-! ## Which gangs leave (R342) -/

/-- The priority of a gang's launch. -/
def State.gangPrio (s : State) (g : Gang) : Nat := ((s.entry? g.ctx g.launch).map (·.prio)).getD 0

/-- A gang with the gangs that leave with it: its launch's, when that is cooperative. -/
def State.withSiblings (s : State) (gang : Nat) (g : Gang) : List Nat :=
  match s.entry? g.ctx g.launch with
  | some e => if e.coop then
      (s.gangs.filter (fun p => p.2.ctx = g.ctx && p.2.launch = g.launch && p.2.phase != .saved)).map (·.1)
    else [gang]
  | none => [gang]

/-- May a gang, with its siblings, be removed: each image fits? -/
def State.removable (s : State) (gang : Nat) (g : Gang) : Bool :=
  (s.withSiblings gang g).all (fun k => ((s.gangs.find k).map (s.imageFits k)).getD false)

/-- The resident gangs of a priority below p that hold a core of a position, in the order in which R342
takes them. -/
def State.lower (s : State) (p : Nat) (cs : List Nat) : List (Nat × Gang) :=
  sortBy (fun (q : Nat × Gang) => s.gangPrio q.2 * (s.nextOrder + 1) + (s.nextOrder - q.2.placedAt))
    (s.gangs.filter (fun q => q.2.phase = .resident && q.2.cores.any cs.contains
      && decide (s.gangPrio q.2 < p) && s.removable q.1 q.2))

/-- Would a position take the entry's gang with some gangs gone? -/
def State.takesWithout (s : State) (e : Entry) (gone cs : List Nat) : Bool :=
  s.coresOpen e.ctx cs && takes (s.occOf gone) [] e.kd (s.nextWaves e) cs

/-- The removal set of a position: gangs are added until it takes the waiting gang; none when it does not
qualify. -/
def State.removal (s : State) (e : Entry) (cs : List Nat) :
    List (Nat × Gang) → List Nat → Option (List Nat)
  | [], gone => if s.takesWithout e gone cs then some gone else none
  | q :: t, gone =>
    if s.takesWithout e gone cs then some gone
    else s.removal e cs t (nubNat (gone ++ s.withSiblings q.1 q.2))

/-- Has every context of a set of gangs an arena slot for each? -/
def State.slotsFor (s : State) (gs : List Nat) : Bool :=
  let cs := gs.filterMap (fun k => (s.gangs.find k).map (·.ctx))
  cs.all (fun c => decide ((cs.filter (· = c)).length ≤ s.arenaRoom c))

/-- The highest priority in a set of gangs. -/
def State.topPrio (s : State) (gs : List Nat) : Nat :=
  gs.foldl (fun (m : Nat) k =>
    let p := ((s.gangs.find k).map s.gangPrio).getD 0
    if m < p then p else m) 0

/-- The gangs to pre-empt for the waiting gang of an entry: of the position whose set has the lowest
highest priority, then the fewest gangs, then the lowest number; none while some position takes the gang,
or will once the gangs that are stopping have gone. -/
def State.victims (s : State) (e : Entry) : List Nat :=
  let ps := s.positions (s.devDies e.ctx e.dev) e.kd.gang
  let leaving := (s.gangs.filter (fun p => p.2.phase = .stopping)).map (·.1)
  if e.prio = 0 || !s.wants e || ps.any (fun cs => s.takesWithout e leaving cs) then []
  else
    let qs := (ps.filterMap (fun cs => s.removal e cs (s.lower e.prio cs) [])).filter s.slotsFor
    (minBy (fun (gs : List Nat) => s.topPrio gs * 1000000 + gs.length) qs).getD []

/-! ## Stopping and saving (R363) -/

/-- Clasp asks gangs to stop: their waves stop at their next issue slot, but for those that their context's
failure has stopped for good, and their programs issue no more commands. -/
def State.askStop (s : State) (gs : List Nat) : State :=
  gs.foldl (fun (x : State) k =>
    { x.modGang k (fun g => { g with phase := .stopping }) with
      waves := (x.modGang k (fun g => { g with phase := .stopping })).waves.map (fun p =>
        if p.2.gang = k && !p.2.stopped then (p.1, { p.2 with preempt := true }) else p) }) s

/-- Has a gang stopped: every wave stopped or in a wait, and every unit done that must complete (R363)? A
transfer that waits behind a faulted one is saved with it (R296). -/
def State.quiet (s : State) (gang : Nat) (g : Gang) : Bool :=
  (s.gangWaves gang).all (fun p => (p.2.stopped || p.2.wait.isSome) && p.2.poolPend = 0
      && !s.relBusy p.1)
    && (s.gangProgs gang).all (fun p => p.2.2.st != 8 && (s.xStuck p.1 p.2.2).all id)
    && s.gjobs.all (fun j => j.owner.gang != some gang || !j.accepted)
    && s.gangOn g.cores (s.gangFil gang g).isSome

/-- What a gang's image holds. -/
def State.imageOf (s : State) (gang : Nat) (g : Gang) (slot : Nat) : Image :=
  let ws := sortBy (fun (p : Nat × Wave) => p.2.wg * 16 + p.2.wid) (s.gangWaves gang)
  let mine := fun (f : FpReg) => f.gang = gang
  { gang := { g with phase := .saved }
    waves := ws.map (·.2.saved)
    engines := g.cores.map (fun c => { s.engine c with
      slots := (s.engine c).slots.filter (fun p => p.2.owner.gang = some gang) })
    zs := g.cores.map (fun c => (s.core c).z)
    panels := g.cores.map (fun c => (s.core c).panel)
    claims := g.cores.map (fun c => match (s.core c).claim with
      | some k => if ws.any (fun p => p.1 = k) then some (indexIn (ws.map (·.1)) k) else none
      | none => none)
    fps := g.cores.map (fun c => (s.core c).fps.filter mine)
    fil := s.gangFil gang g
    slot := slot }

/-- A gang's waves leave their slots, its programs their slots, its footprints and commands their units, and
the waves that wait for what it frees re-issue (R43, R363, log 115). -/
def State.evict (s : State) (gang : Nat) (g : Gang) : State :=
  let s1 := (s.gangWaves gang).foldl (fun (x : State) p => x.leaveSlot p.1) s
  let s2 := g.cores.foldl (fun (x : State) c =>
    (x.modCore c (fun y => { y with
      fps := y.fps.filter (fun f => f.gang != gang)
      fused := if y.fused = some gang then none else y.fused })).setEngine c
      { x.engine c with slots := (x.engine c).slots.filter (fun p => p.2.owner.gang != some gang) }) s1
  let s3 : State := { s2 with gjobs := s2.gjobs.filter (fun j => j.owner.gang != some gang) }
  let slots := g.cores.filter (fun c => (s.engine c).slots.any (fun p =>
    p.2.owner.gang = some gang && !p.2.isFree))
  let room := g.cores.filter (fun c => (s.core c).fps.any (fun f => f.gang = gang))
  ((s3.dropFg gang).leaveFil gang true).reissueAll (fun _ x => x.kind = .footprint
    && ((x.gen = 1 && slots.contains x.obj) || (x.gen = 2 && room.contains x.obj)))

/-- Save a gang that has stopped: the write-combining buffers drain, dirty remote sectors go home, the image
is written, and the cores are freed. -/
def State.saveGang (s : State) (gang : Nat) (g : Gang) (slot : Nat) : State :=
  let dm := dieMask (s.devDies g.ctx g.dev)
  let s1 := g.cores.foldl (fun (x : State) c =>
    x.release ⟨g.ctx, dm, coreDie c, some c, none⟩ false) s
  let m := s1.imageOf gang g slot
  let kd := ((s1.entry? g.ctx g.launch).map (·.kd)).getD default
  let base := ((s1.ctxs.find g.ctx).map (fun c => c.regs.slotAt slot)).getD 0
  let s2 := (s1.writeImage dm base m kd).evict gang g
  { s2 with gangs := s2.gangs.put gang m.gang, images := s2.images.put gang m }

/-- GANG_PREEMPT: a waiting gang makes others stop; and a gang that has stopped is saved (R342, R363). -/
def execGangPreempt (gang : Nat) (s : State) : Out :=
  match s.gangs.find gang with
  | none => .refused (.notEnabled "GANG_PREEMPT")
  | some g =>
    match g.phase with
    | .saved => .refused (.notEnabled "GANG_PREEMPT")
    | .stopping =>
      if s.quiet gang g then
        match s.freeArena g.ctx with
        | slot :: _ => .next (s.saveGang gang g slot)
        | [] => .refused (.notEnabled "GANG_PREEMPT")
      else .refused (.notEnabled "GANG_PREEMPT")
    | .resident =>
      match (s.entries.map s.victims).find? (fun vs => vs.contains gang) with
      | some vs => .next (s.askStop vs)
      | none => .refused (.notEnabled "GANG_PREEMPT")

end Sys2Proof.Machine
end

