-- ==== Sys2Proof/Machine/Issue.lean ====
section
/-! DEFINITION. The issue slot of a wave (R34, R35, R37, R41, R46, R183, R343, R371): which wave a
quarter's slot takes, the ordered steps before an instruction executes, and the fetch. The
instruction itself executes in the same step (Machine/Step.lean). -/

namespace Sys2Proof.Machine

/-! ## Fetch (R118, R183) -/

/-- The fetch bound of a wave, as base and length (R183). -/
def State.fetchBound (s : State) (w : Wave) : Nat × Nat :=
  match s.gangs.find w.gang with
  | none => (0, 0)
  | some g =>
    if w.sys.inTrap then
      match s.ctxs.find g.ctx with
      | some c => (c.tcode.toNat, c.tlen)
      | none => (0, 0)
    else match s.entry? g.ctx g.launch with
      | some e => (e.kd.code.toNat, e.kd.codeLen)
      | none => (0, 0)

/-- A failed fetch: the trap's cause, SUB, and the address of the word. -/
structure FetchTrap where
  cause : Nat
  sub : Nat
  addr : Nat
  deriving DecidableEq, Repr, Inhabited

/-- Bytes read at a PA with the core's own buffered stores forwarded (R82). -/
def Core.forward (c : Core) (pa : Nat) (bs : List Byte) : List Byte :=
  bs.zipIdx.map (fun p => match c.wcb.find ((pa + p.2) / 16) with
    | some x => if x.mask.getLsbD ((pa + p.2) % 16) then secByte x.data ((pa + p.2) % 16) else p.1
    | none => p.1)

/-- Read an instruction word at a PA through the core's instruction cache, which a miss fills from L2 and the
core's own stores (R82, R118). -/
def State.icacheRead (s : State) (o : Obs) (k : Nat) (x : Piece) : State × W64 :=
  let c := slotCore k
  match (s.core c).icache.find (x.pa / 8) with
  | some v => (s, v)
  | none =>
    let (s1, bs) := s.readPiece o .die x
    let v := BitVec.ofNat 64 (natOf ((s1.core c).forward x.pa bs))
    (s1.modCore c (fun y => { y with icache := y.icache.put (x.pa / 8) v }), v)

/-- Fetch one word: canonical form, fetch bound, translation with X, in that order (R183). -/
def State.fetchWord (s : State) (k : Nat) (w : Wave) (a : Nat) : State × Except FetchTrap W64 :=
  let o := s.waveObs k w
  let b := s.fetchBound w
  if !canonical a then (s, .error ⟨0x000C, 0x0100, a⟩)
  else if a < b.1 || b.1 + b.2 < a + 8 then (s, .error ⟨0x000B, 0, a⟩)
  else match s.span o none .fetch a 8 with
    | (s1, .error e) => (s1, .error ⟨0x000C, e.cause, a⟩)
    | (s1, .ok ps) =>
      match s1.reachAll o a ps with
      | (s2, some e) => (s2, .error ⟨0x000C, e.cause, a⟩)
      | (s2, none) => match ps with
        | p :: _ =>
          let (s3, v) := s2.icacheRead o k p
          (s3, .ok v)
        | [] => (s2, .ok 0)

/-- Fetch words 0 and 1 at PC; word 1 is 0 when X = 0 (R123, R183). -/
def State.fetchAt (s : State) (k : Nat) (w : Wave) : State × Except FetchTrap (W64 × W64) :=
  match s.fetchWord k w w.pc.toNat with
  | (s1, .error e) => (s1, .error e)
  | (s1, .ok w0) =>
    if w0.getLsbD 8 then
      match s1.fetchWord k w ((w.pc + 8).toNat) with
      | (s2, .error e) => (s2, .error e)
      | (s2, .ok w1) => (s2, .ok (w0, w1))
    else (s1, .ok (w0, 0))

/-- Word 0 of a wave's next instruction: the recorded one of a walker instruction that re-issues (R363), else
the one at PC. -/
def State.nextWord (s : State) (k : Nat) (w : Wave) : Except FetchTrap W64 :=
  match w.reissue with
  | some r => .ok r.w0
  | none => (s.fetchWord k w w.pc.toNat).2

/-- Is the next instruction of vector form (W = 0)? A word that cannot be fetched stops the wave in
the group-wide slot (log 16). -/
def State.nextVec (s : State) (k : Nat) (w : Wave) : Bool :=
  match s.nextWord k w with
  | .ok w0 => !w0.getLsbD 9
  | .error _ => false

/-! ## Convergence points (R34, R133) -/

/-- Is the instruction a convergence point? -/
def cvgPoint (i : Instr) : Bool :=
  match i.wave? with
  | none => false
  | some (op, o) =>
    let n := op.toNat
    n = 0x82 || (n = 0x83 && o.fn = 1) || (0x84 ≤ n && n ≤ 0x89) || n = 0xA9
      || (0xC0 ≤ n && n ≤ 0xD3) || (n = 0xE0 && o.grp) || n = 0xE1 || (n = 0xE2 && o.grp)
      || n = 0xF0

/-! ## The steps of R41 -/

/-- The lowest enabled breakpoint at PC (R371). -/
def State.breakpoint (s : State) (w : Wave) : Option Nat :=
  match (s.ctxs.find (s.ctxOf w)).map (fun c => c.regs.dbg) with
  | none => none
  | some d =>
    if w.sys.sup || w.sys.bpSupp || !s.dbgMatch w then none
    else (List.range 4).find? (fun i => d.ctl.getLsbD i
      && (nth d.bp i 0 ++ 0#3) = (w.pc.extractLsb' 3 61 ++ 0#3))

/-- The words at PC as a trap record gives them: zero where they cannot be fetched (R360). -/
def State.wordsAt (s : State) (k : Nat) (w : Wave) : W64 × W64 :=
  match (s.fetchAt k w).2 with
  | .ok p => p
  | .error _ => (0, 0)

/-- Step 5 of R41 before an instruction, in user mode: during a replay, the step at STOP or CVG.STRAY;
outside one, the lane handler. None lets the instruction execute. -/
def State.converge (s : State) (k : Nat) (w : Wave) (i : Instr) (ws : W64 × W64) : Option State :=
  let trapIt := fun (cause detail : Nat) (t6 : W64) =>
    some (takeTrap s k w (trapRec w cause detail 0 ws.1 ws.2 t6 0))
  if w.sys.sup then none
  else if w.stack.any (fun e => e.kind = 2) then
    if w.pc = w.stop then
      match w.stack with
      | e :: t =>
        if e.kind = 1 then
          some (s.setWave k (({ w with stack := t, pc := e.pc }).setExm e.mask))
        else some (s.setWave k w.startReplay)
      | [] => none
    else if cvgPoint i then trapIt 0x0007 w.stack.length 0
    else none
  else if cvgPoint i && w.park != 0 then
    let handler := ((s.gangs.find w.gang).bind (fun g => s.entry? g.ctx g.launch)).map
      (fun e => e.kd.handler)
    match w.enterLane (handler.getD 0) with
    | .ok x => some (s.setWave k x)
    | .error 9 => trapIt 0x0009 0 w.park
    | .error c => trapIt c w.stack.length 0
  else none

/-- The decoding context of a wave (R135). -/
def State.decodeCtx (s : State) (w : Wave) : DecodeCtx :=
  let _ := s
  { vregs := w.vregs, w64 := w.w64, sup := w.sys.sup, inTrap := w.sys.inTrap }

/-- Is it an instruction of the walker: OP 0xE0 to 0xE2 (R241)? -/
def walkerInstr (i : Instr) : Bool :=
  match i.wave? with
  | some (op, _) => decide (0xE0 ≤ op.toNat) && decide (op.toNat ≤ 0xE2)
  | none => false

/-- The registers that an operand names, numbered over all files: V from 0, G from 256, P and GP from 512, C
from 768 (R122). -/
def operandRegs (u : RegUse) : List Nat :=
  let n := u.val.toNat
  match u.cls with
  | .v k => span n k
  | .g k => span (256 + n) k
  | .predAny => [512 + n]
  | .predLane => [512 + n]
  | .predGroup => [512 + n]
  | .predC _ _ => [512 + n % 128]
  | .cursor => [768 + n]
  | .queue => []
  | .tile => []

/-- The register operands of a word. -/
def operandsOf (w0 : W64) : List RegUse :=
  let r := rawOf w0 0
  match shapeOf r.op r.fn r.m with
  | .shape sh => sh.regs r
  | _ => []

/-- The fields, by their lowest bits, that a walker instruction reads as registers, and those that it writes
(R248-R255). -/
def walkFields (op fn : Nat) : List Nat × List Nat :=
  match op, fn with
  | 0xE0, 0 => ([32, 40], [24])
  | 0xE0, 1 => ([40], [24, 32, 40, 48])
  | 0xE0, 2 => ([32, 40], [24, 32])
  | 0xE0, 3 => ([32, 40, 48], [24])
  | 0xE0, _ => ([32], [24])
  | 0xE1, _ => ([32, 40], [24, 32, 40, 48])
  | 0xE2, 0 => ([32], [24])
  | _, 1 => ([24, 40], [24])
  | _, _ => ([24], [24])

/-- The predicate that a guard reads. -/
def guardRegs (g : Guard) : List Nat :=
  match g with
  | .always => []
  | .p n _ => [512 + n.toNat]
  | .gp n _ => [576 + n.toNat]

/-- The registers that a walker instruction reads, its guard among them, and those that it writes, with the
GP of CUR.COIT in M[7:4] (R252). -/
def walkUses (o : WOp) (op : Nat) (w0 : W64) : List Nat × List Nat :=
  let f := walkFields op o.fn.toNat
  let us := fun (ls : List Nat) => ((operandsOf w0).filter (fun u => ls.contains u.lo)).flatMap operandRegs
  (us f.1 ++ guardRegs o.guard,
    us f.2 ++ (if op = 0xE1 ∧ o.grp then [576 + (o.m.extractLsb' 4 4).toNat] else []))

/-- The registers that a computing instruction reads, its guard among them, and the one that it writes. -/
def computeUses (o : WOp) (w0 : W64) : List Nat × List Nat :=
  let us := fun (d : Bool) => ((operandsOf w0).filter (fun u => (u.lo == 24) == d)).flatMap operandRegs
  (us false ++ guardRegs o.guard, us true)

/-- A walker instruction that has issued and not retired (R363): is it of a lane form whose faults park, and
the registers it reads and writes. -/
structure InFlight where
  lanes : Bool
  uses : List Nat × List Nat
  deriving DecidableEq, Repr

/-- The walker instructions of a wave that have issued and not retired. -/
def State.inFlight (s : State) (w : Wave) : List InFlight :=
  w.sys.walk.filterMap (fun r => match decodeWave (s.decodeCtx w) r.w0 r.w1 with
    | .ok i => i.wave?.map (fun p => ⟨!p.2.grp && p.1 != 0xE1#8, walkUses p.2 p.1.toNat r.w0⟩)
    | .error _ => none)

/-- May an instruction issue behind walker instructions that have not retired: it writes no register that one
of them reads (R363) or writes, and reads none that one of them writes (R46)? -/
def independent (u : List Nat × List Nat) (before : List InFlight) : Bool :=
  before.all (fun b => b.uses.1.all (fun r => !u.2.contains r)
    && b.uses.2.all (fun r => !u.1.contains r && !u.2.contains r))

/-- Is it a group-wide instruction that computes and cannot trap? It touches no lane, so that it completes behind
a walker instruction whose lanes may still park (R33, R40). -/
def groupCompute (op : Nat) (o : WOp) (md : W32) : Bool :=
  o.grp && ((decide (1 ≤ op) && decide (op ≤ 0x0C)) || op = 0x9E
    || (decide (0x40 ≤ op) && decide (op ≤ 0x46) && enabledOf md 0xFFFFFFFF = 0))

/-- Latch the instruction that a wave executes in this slot. A wave's first issue is an acquire point (R96). -/
def State.latch (s : State) (k : Nat) (w : Wave) (i : Instr) (ws : W64 × W64) : State :=
  { (if w.fresh then (s.setWave k { w with fresh := false }).acquirePoint k w else s) with
    cur := some k, issued := some i, insn := ws }

/-- What a wave of a gang that is being pre-empted may have issued before it stopped, while walker instructions
of it had not retired (R363; log 4): a further walker instruction, independent of them, up to four, recorded
with PC behind it (R257); or, in user mode behind lane forms only, an independent group-wide computing
instruction, which completes. A convergence point waits for lane forms, which may park (R35). A wave that steps
has one under way at most (R371). -/
def State.runAhead (s : State) (k : Nat) (w : Wave) : Option State :=
  if w.fresh || w.sys.resume.isSome || (w.sys.stepPend && !w.sys.sup) || (s.steps w && !w.sys.walk.isEmpty)
      || (s.breakpoint w).isSome then none
  else
    let w1 := { w with sys := { w.sys with bpSupp := false } }
    match (s.setWave k w1).fetchAt k w1 with
    | (_, .error _) => none
    | (s1, .ok ws) => match decodeWave (s1.decodeCtx w1) ws.1 ws.2 with
      | .error _ => none
      | .ok i => match i.wave? with
        | none => none
        | some (op, o) =>
          let before := s1.inFlight w1
          if (s1.converge k w1 i ws).isSome || (cvgPoint i && !w.sys.sup && before.any (·.lanes)) then none
          else if walkerInstr i then
            if before.length < 4 && w.walkPasses op.toNat o && independent (walkUses o op.toNat ws.1) before then
              some (s1.setWave k { w1 with
                pc := pcAfter w.pc ws.1
                sys := { w1.sys with walk := w.sys.walk ++ [⟨w.pc, ws.1, ws.2, w.exm⟩] } })
            else none
          else if !before.isEmpty && before.all (·.lanes) && !w.sys.sup && groupCompute op.toNat o w.regs.mode
              && independent (computeUses o ws.1) before then
            some (s1.latch k w1 i ws)
          else none

/-- The issue slot of a wave that is asked to stop (R41, step 1): it stops, or issues once more what R363 lets
stand issued behind the stop, as no rule says how far the core was (log 4). -/
def State.preemptSlot (s : State) (k : Nat) (w : Wave) : State :=
  match (if Config.walkPending s.free % 2 = 0 then none else s.tick.runAhead k w) with
  | some s1 => s1
  | none => s.tick.setWave k { w with stopped := true }

/-- The words of a walker instruction that a wave re-issues, and the instruction. It issued before the
pre-emption, so that the steps of R41 before its execution do not come again. -/
def State.again (s : State) (w : Wave) : Option (Instr × W64 × W64) :=
  w.reissue.bind (fun r => match decodeWave (s.decodeCtx w) r.w0 r.w1 with
    | .ok i => some (i, r.w0, r.w1)
    | .error _ => none)

/-- The steps of R41 for a wave: the state after the slot, with the instruction latched when it goes on
to execute. -/
def State.issue (s : State) (k : Nat) (w0 : Wave) : State :=
  if w0.preempt then s.preemptSlot k w0
  else if w0.cancel then s.discardWave k
  else match s.again w0 with
  | some p => (s.setWave k w0).latch k w0 p.1 p.2
  | none => match s.breakpoint w0 with
    | some n =>
      let ws := s.wordsAt k w0
      takeTrap s k w0 (trapRec w0 0x000D n 0 ws.1 ws.2 0 0)
    | none =>
      if w0.sys.stepPend && !w0.sys.sup then
        let ws := s.wordsAt k w0
        let w1 := { w0 with sys := { w0.sys with stepPend := false, bpSupp := false } }
        takeTrap s k w1 (trapRec w1 0x000E 0 0 ws.1 ws.2 0 0)
      else
        let w := { w0 with sys := { w0.sys with bpSupp := false } }
        match (s.setWave k w).fetchAt k w with
        | (s1, .error e) =>
          takeTrap s1 k w (trapRec w e.cause 0 e.sub 0 0 0 (BitVec.ofNat 64 e.addr))
        | (s1, .ok ws) =>
          match decodeWave (s1.decodeCtx w) ws.1 ws.2 with
          | .error t =>
            takeTrap s1 k w (trapRec w (if t.unimpl then 1 else 2) t.detail 0 ws.1 ws.2 0
              (BitVec.ofNat 64 (t.flo + t.fhi * 2 ^ 8)))
          | .ok i =>
            match s1.converge k w i ws with
            | some s2 => s2
            | none => s1.latch k w i ws

/-- Is it a step of a unit, or of the world outside, rather than an instruction or a command? -/
def isMove (i : Instr) : Bool :=
  i.wave?.isNone && i.ce?.isNone && (match i with
    | .ceIllegal _ _ _ _ => false
    | _ => true)

/-! ## The choice of a wave (R46) -/

/-- Is it FP64 arithmetic: the TYPE of a floating instruction, or a format of a CVT (R46, R171)? -/
def fp64Op (op : Nat) (o : WOp) : Bool :=
  if op = 0x45 then o.m.extractLsb' 0 4 = 11#4 || o.m.extractLsb' 4 4 = 11#4
  else decide (0x40 ≤ op) && decide (op ≤ 0x46) && o.ty = 9

/-- Cycles for which an instruction holds its slot (R46). -/
def holdCycles (vec : Bool) (width : Nat) (i : Option Instr) : Nat :=
  if vec then
    let c := match i.bind Instr.wave? with
      | some (op, o) => if fp64Op op.toNat o then 4 else 1
      | none => 1
    (width * c + 31) / 32
  else 1

/-- Does an instruction of this OP and FN write V[D] in every lane that it executes for, and not read it? -/
def writesLanes (op fn : Nat) : Bool :=
  (decide (1 ≤ op) && decide (op ≤ 9)) || op = 0x0C || (decide (0x40 ≤ op) && decide (op ≤ 0x46))
    || (op = 0x87 && fn = 3) || op = 0x88 || (op = 0x89 && fn = 10) || op = 0x9E || op = 0xA0 || op = 0xA5
    || op = 0xA8 || (op = 0xE0 && (fn = 0 || fn = 3 || fn = 4)) || op = 0xE3 || (op = 0xFC && fn = 1)

/-- Does an instruction word wait for PMAP lanes that the pool unit has yet to answer: does it name the register
that takes their status as a source, or as a destination that it may leave as it was (R46, R355)? A further
PMAP may take the register over. -/
def State.poolWaits (s : State) (k : Nat) (w0 : W64) : Bool :=
  let r := rawOf w0 0
  let spares := writesLanes r.op.toNat r.fn.toNat || (r.op = 0xFC#8 && r.fn = 0#5)
  s.poolReqs.any (fun q => q.wave = k && !q.late
    && (operandsOf w0).any (fun u => match u.cls with
        | .v _ => (operandRegs u).contains q.dst && !(u.lo = 24 && spares)
        | _ => false))

/-- Does the next instruction of a wave wait so? -/
def State.poolHolds (s : State) (k : Nat) (w : Wave) : Bool :=
  match s.nextWord k w with
  | .ok w0 => s.poolWaits k w0
  | .error _ => false

/-- The ready waves of a slot with their resident positions (R46): neither waiting nor stopped, with their
sources available, of the slot's form, not issued in this cycle by the quarter's other slot, its instruction not
found in this cycle to wait for earlier accesses of the wave, and with the islands on the way of its fetch
performing (R399). -/
def State.readyFor (s : State) (x : Slot) (cycle : Nat) : List (Nat × Wave) :=
  let other := (s.core x.core).slots.find (2 * x.quarter + (if x.vec then 0 else 1))
  s.waves.filter (fun p => slotCore p.1 = x.core && p.2.quarter = x.quarter && p.2.wait.isNone
    && !p.2.stopped && !s.poolHolds p.1 p.2 && !((s.core x.core).tried.find (p.1 % 64) = some cycle)
    && (p.2.reissue.isSome || s.slicesOn (s.waveObs p.1 p.2) [(p.2.pc.toNat, 16)])
    && (match other with
        | some (pos, at_, _) => !(pos = p.1 % 64 && at_ = cycle)
        | none => true)
    && s.nextVec p.1 p.2 = x.vec)

/-- The wave that a slot takes (R46): the oldest beyond the age bound, the lowest position on a tie;
else the first after the last issued, with wrap-round. -/
def State.pick (s : State) (x : Slot) (cycle : Nat) : Option (Nat × Wave) :=
  let rs := s.readyFor x cycle
  let old := rs.filter (fun p => decide (64 < cycle - p.2.ready))
  match minBy (fun (p : Nat × Wave) => p.2.ready) old with
  | some p => some p
  | none =>
    let last := ((s.core x.core).slots.find (2 * x.quarter + (if x.vec then 1 else 0))).map (·.1)
    match last with
    | none => rs.head?
    | some l => ((rs.filter (fun p => decide (l < p.1 % 64))) ++ rs).head?

/-- The island of a core's L1, scratchpad, copy engine and walker (R396). -/
def baseIsland (c : Nat) : Nat := 240 * coreDie c + 6 * corePhys c + 5

/-- WAVE_ISSUE: `dt` core cycles after the core's last issue slot, this slot takes a ready wave and goes
through R41 with it. A slot that still holds an instruction, finds no ready wave, or whose quarter's
or core base's island does not perform (R399), issues nothing. -/
def execWaveIssue (x : Slot) (s : State) : Out :=
  let cycle := (s.core x.core).cycle + x.dt
  let s1 := s.modCore x.core (fun c => { c with cycle := cycle })
  let key := 2 * x.quarter + (if x.vec then 1 else 0)
  let island := 240 * coreDie x.core + 6 * corePhys x.core + x.quarter
  if !s1.islandOn island || !s1.islandOn (baseIsland x.core) then .next s1
  else if ((s1.core x.core).slots.find key).any (fun p => decide (cycle < p.2.2)) then .next s1
  else match s1.pick x cycle with
    | none => .next s1
    | some (k, w) =>
      let s2 := s1.issue k { w with ready := cycle }
      let n := holdCycles x.vec w.width s2.issued
      .next (s2.modCore x.core (fun c => { c with
        slots := c.slots.put key (k % 64, cycle, cycle + n) }))

/-! ## What a slot keeps of the instruction that it issued -/

/-- Has the instruction not gone on: the wave in its slot, its segment and PC are as they were? A branch to itself
goes on. -/
def State.stoodStill (s t : State) (k : Nat) (i : Instr) : Bool :=
  decide (t.waves.find k = s.waves.find k) && t.curseg.getD k 0 = s.curseg.getD k 0
    && (match i.wave? with
      | some (op, _) => op != 0x80#8 && op != 0x81#8
      | none => false)

/-- The instruction that the wave w0 took the slot for waits for earlier accesses of its wave: it has not
issued, so that the core's slots are as before it and the wave's age runs from when it is ready (R46; log 141). `s0` is
the state before the slot. -/
def State.giveBack (s0 t : State) (k : Nat) (w : Wave) : State :=
  (t.modCore (slotCore k) (fun c => { c with
    slots := (s0.core (slotCore k)).slots
    tried := c.tried.put (k % 64) c.cycle })).setWave k
      { w with sys := { w.sys with bpSupp := ((s0.waves.find k).map (·.sys.bpSupp)).getD w.sys.bpSupp } }

/-- The lanes' registers that a completed instruction has written over, as the pool unit has yet to answer for
them: their status no longer goes there (R46, R355; log 143). -/
def State.overtake (s t : State) (k : Nat) (i : Instr) (w0 w : Wave) : State :=
  match i.wave? with
  | some (op, o) =>
    if writesLanes op.toNat o.fn.toNat && !o.grp && w.pc = w0.pc + BitVec.ofNat 64 o.len && w.wait.isNone
        && w.sys.inTrap = w0.sys.inTrap then
      let ls := (w0.active o.guard).filter (fun l => w.exm.getLsbD l)
      let rs := ((operandsOf s.insn.1).filter (fun u => u.lo == 24)).flatMap operandRegs
      { t with poolReqs := t.poolReqs.map (fun q =>
          if q.wave = k && rs.contains q.dst && ls.contains q.lane then { q with late := true } else q) }
    else t
  | none => t

/-- The end of a slot whose instruction has executed: `s0` is the state before the slot, `s` with the
instruction latched, and `out` what its meaning answers. A wave that re-issued a walker instruction goes to
its next one. -/
def afterIssue (s0 s : State) (i : Instr) (out : Out) : Out :=
  match out, s.cur with
  | .next t, some k => match s.waves.find k, t.waves.find k with
    | some w0, some w =>
      if s.stoodStill t k i then .next (s0.giveBack t k w)
      else
        let t1 := if t.poolReqs.isEmpty then t else s.overtake t k i w0 w
        .next (if w.sys.resume.isSome then t1.setWave k w.pastReissue else t1)
    | _, _ => out
  | _, _ => out

end Sys2Proof.Machine
end

