-- ==== Sys2Proof/Machine/System.lean ====
section
/-! DEFINITION. System instructions (R315-R317, R350, R354, R355, R361, R362): the system registers, the
returns from the handlers, translation invalidation and the pool unit; and the steps of the caches and of
memory that no instruction asks for (R82, R86, R387). -/

namespace Sys2Proof.Machine

/-! ## System registers (R316-R324) -/

/-- `CTX.INFO` of a context's device (R321). -/
def State.ctxInfo (s : State) (ctx dev : Nat) : Nat :=
  match s.ctxs.find ctx with
  | none => 0
  | some c =>
    let dm := dieMask (s.devDies ctx dev)
    ctx % 2 ^ 12 + c.view * 2 ^ 12 + c.part * 2 ^ 14 + dev * 2 ^ 16
      + (s.devDies ctx dev).length * 2 ^ 18 + widest dm * 2 ^ 21 + dm * 2 ^ 24

/-- `PSTAT` (R318). -/
def Pkg.pstat (p : Pkg) : Nat :=
  (if p.busy then 1 else 0) + (if p.refused then 2 else 0) + p.cur * 4

/-- `HARV.MAP.c` (R323). -/
def State.harvMap (s : State) (c : Nat) : Nat :=
  (nth s.pkg.harv c 0).toNat + (s.logicalCores [c]).length * 2 ^ 40

/-- `LCT.m` of a device (R323). -/
def State.lct (s : State) (dies : List Nat) (m : Nat) : Nat :=
  let cs := s.logicalCores dies
  natOf ((List.range 8).map (fun j => match cs[8 * m + j]? with
    | some c => BitVec.ofNat 8 (corePhys c + 64 * coreDie c)
    | none => 0xFF))

/-- `FG.GRANT.c` (R324). -/
def State.fgGrant (s : State) (c : Nat) : Nat :=
  let f := (s.die c).fil
  f.owner + (if f.pendOwner.isSome then 2 ^ 12 else 0)

/-- `DBG.HOLD` (R372). -/
def CtxRegs.hold (r : CtxRegs) : Nat :=
  (if r.holdCe then 1 else 0) + (if r.holdGu then 2 else 0) + (if r.holdChild then 4 else 0)

/-- A system register by number, for a context's device; `die` is the die that DIECORES describes. The
trap record is the wave's own. -/
def State.sysReg (s : State) (ctx dev : Nat) (die : Option Nat) (srn : Nat) : Nat :=
  let dies := s.devDies ctx dev
  let regs := ((s.ctxs.find ctx).map (·.regs)).getD CtxRegs.init
  if srn ≤ 0x01B then s.capVal dies die srn
  else if srn = 0x080 then s.pkg.cur
  else if srn = 0x081 then s.pkg.pstat
  else if 0x088 ≤ srn ∧ srn ≤ 0x08B then s.harvMap (srn - 0x088)
  else if srn = 0x090 then s.ctxInfo ctx dev
  else if srn = 0x092 then (if s.pkg.ctxBusy then 1 else 0) + s.pkg.ctxResult.toNat * 2 ^ 4
  else if 0x0A0 ≤ srn ∧ srn ≤ 0x0B1 then s.lct dies (srn - 0x0A0)
  else if 0x0C0 ≤ srn ∧ srn ≤ 0x0C3 then s.fgGrant (srn - 0x0C0)
  else if srn = 0x0D0 then regs.wdog.toNat
  else if srn = 0x0D1 then regs.hold
  else if srn = 0x0E0 then s.pkg.ready.toNat
  else 0

/-- Is a number listed in R316? -/
def sysListed (n : Nat) : Bool :=
  n ≤ 0x01B || (0x040 ≤ n && n ≤ 0x047) || n = 0x080 || n = 0x081 || (0x088 ≤ n && n ≤ 0x08B)
    || (0x090 ≤ n && n ≤ 0x092) || (0x0A0 ≤ n && n ≤ 0x0B1) || (0x0C0 ≤ n && n ≤ 0x0C3)
    || n = 0x0D0 || n = 0x0D1 || n = 0x0E0

/-- May a supervisor wave read it? `CTXCMD` and `CTXSTAT` are the host's, and the trap record opens in the
trap handler only (R316). -/
def sysReadable (n : Nat) (inTrap : Bool) : Bool :=
  n != 0x091 && n != 0x092 && (inTrap || !(0x040 ≤ n && n ≤ 0x047))

/-- Registers from a base to the end of its array (R317). -/
def sysArray (base : Nat) : Nat :=
  if base ≤ 0x01B then 0x01C - base
  else if 0x040 ≤ base ∧ base ≤ 0x047 then 0x048 - base
  else if 0x088 ≤ base ∧ base ≤ 0x08B then 0x08C - base
  else if 0x0A0 ≤ base ∧ base ≤ 0x0B1 then 0x0B2 - base
  else if 0x0C0 ≤ base ∧ base ≤ 0x0C3 then 0x0C4 - base
  else 1

/-- The entry checks of R317: a trap (UNIMPL or not, and the field's lowest bit), or the register. They are
made when the guard holds, in the un-indexed form too, whose SRN stands in the word (log 89). -/
def sysEntry (w : Wave) (o : WOp) (write : Bool) : Except (Bool × Nat) Nat :=
  let base := o.c.toNat + (o.m.toNat % 16) * 2 ^ 8
  let ix := if o.m.getLsbD 4 then (w.greg o.b.toNat).toNat else 0
  let n := base + ix
  if o.m.getLsbD 4 && decide (sysArray base ≤ ix) then .error (false, 40)
  else if 0x800 ≤ n then .error (false, 48)
  else if !sysListed n then .error (true, 48)
  else if write || !sysReadable n w.sys.inTrap then .error (false, 48)
  else .ok n

/-- Raise the trap of a failed entry check. -/
def sysTrap (s : State) (k : Nat) (w : Wave) (e : Bool × Nat) : Out :=
  trapWith s k w (if e.1 then 1 else 2) 8 0 0 (BitVec.ofNat 64 (e.2 + (e.2 + 7) * 2 ^ 8))

def execSysrd (o : WOp) (s : State) : Out :=
  onGroup s o (fun k w =>
    match sysEntry w o false with
    | .error e => sysTrap s k w e
    | .ok n =>
      let g := s.gangs.find w.gang
      let v := if 0x040 ≤ n ∧ n ≤ 0x047 then (w.sys.trec.extractLsb' (64 * (n - 0x040)) 64).toNat
        else s.sysReg ((g.map (·.ctx)).getD 0) ((g.map (·.dev)).getD 0) (some (coreDie (slotCore k))) n
      .next (s.retire k (w.setG o.d.toNat (BitVec.ofNat 64 v)) o.len))

/-- SYSWR: no register of R316 gives a supervisor wave W, so every write fails its entry checks. -/
def execSyswr (o : WOp) (s : State) : Out :=
  onGroup s o (fun k w =>
    match sysEntry w o true with
    | .error e => sysTrap s k w e
    | .ok _ => .next (s.retire k w o.len))

/-! ## Returns (R36, R362) -/

/-- RTT: the trap handler's return, or the lane handler's; where no lane stays live, the wave ends as END
ends it, with its earlier accesses performed (R36, R104). -/
def execRtt (o : WOp) (s : State) : Out :=
  onGroup s o (fun k w =>
    if w.sys.inTrap then trapReturn s k w w.trecPc
    else if w.stack.length != w.sys.hdepth then
      trapWith s k w 0x0008 w.stack.length 0 0 0
    else
      let x := w.leaveLane
      if x.live = 0 then (if s.endBusy k then stall s else .next (s.endWave k x))
      else .next (s.setWave k x))

def execRttSkip (o : WOp) (s : State) : Out :=
  onGroup s o (fun k w => trapReturn s k w (w.trecPc + (if w.trecX then 16 else 8)))

/-- RTT.GO: the trap handler's return to an address. It sets the privilege that TREC.PRIV gives, as R362 states,
though R315 names RTT and RTT.SKIP alone as lowering privilege (log 139). -/
def execRttGo (o : WOp) (s : State) : Out :=
  onGroup s o (fun k w =>
    let t := w.greg o.a.toNat
    if w.stack.length = w.trecDepth && !aligned8 t then .next (failContext s k w w.sys.trec)
    else trapReturn s k w t)

/-! ## Translation invalidation (R350) -/

/-- Does a cached translation belong to a context, and cover an address when one is given? -/
def PageEnt.hit (p : PageEnt) (ctx : Nat) (va : Option Nat) : Bool :=
  p.ctx = ctx && (match va with
    | none => true
    | some a => p.vpn / 2 ^ p.cover = vpnOf a / 2 ^ p.cover)

/-- Does a cached table pointer stay when a context's go from the walkers of some dies, and of the I/O dies
that serve them (R348, R350)? -/
def pointerStays (dies : List Nat) (ctx key : Nat) : Bool :=
  let die := key / 2 ^ 64
  !(key / 2 ^ 52 % 2 ^ 12 = ctx && (dies.contains die || decide (4 ≤ die)))

/-- Remove translations of a context from the TLBs and walker caches of dies, and empty the last-page
registers of its resident waves there: with an address too, every cached table pointer goes (R350). -/
def State.tlbDrop (s : State) (dies : List Nat) (ctx : Nat) (va : Option Nat) : State :=
  let keep := fun (m : Map PageEnt) => m.filter (fun e => !e.2.hit ctx va)
  { s with
    walkc := s.walkc.filter (fun e => pointerStays dies ctx e.1)
    cores := s.cores.map (fun p =>
      if dies.contains (coreDie p.1) then (p.1, { p.2 with tlb := keep p.2.tlb }) else p)
    dies := s.dies.map (fun p => if dies.contains p.1 then (p.1, { p.2 with tlb := keep p.2.tlb }) else p)
    waves := s.waves.map (fun p =>
      if dies.contains (coreDie (slotCore p.1)) && s.ctxOf p.2 = ctx then
        (p.1, { p.2 with sys := { p.2.sys with lastPage := [] } })
      else p) }

/-- Perform the updates that a context's REDGs have yet to make, oldest first (R350). -/
def State.redgSettle (s : State) (ctx : Nat) : State :=
  (s.redgs.filter (fun r => r.ctx = ctx)).foldl (fun (x : State) r => x.redgDo r)
    { s with redgs := s.redgs.filter (fun r => r.ctx != ctx) }

/-- Perform what used a context's translations and is not yet performed: the updates of its REDGs, and the
stores that the cores of its partition still combine (R350, step 4). -/
def State.usedDone (s : State) (ctx : Nat) : State :=
  (s.partOf ctx).foldl (fun (x : State) d => x.drainDie d) (s.redgSettle ctx)

/-- TLB.INV: the release of R104, the removal, and the wait for every access that used what is removed,
which makes those accesses performed. -/
def tlbInv (s : State) (k : Nat) (w : Wave) (va : Option Nat) (len : Nat) : Out :=
  if s.relBusy k then stall s
  else
    let ctx := s.ctxOf w
    let s1 := ((s.release (s.waveObs k w) false).usedDone ctx).tlbDrop (s.partOf ctx) ctx va
    .next (s1.retire k { w with sys := { w.sys with lastPage := [] } } len)

def execTlbInvVa (o : WOp) (s : State) : Out :=
  onGroup s o (fun k w =>
    let va := (w.greg o.a.toNat).toNat
    if canonical va then tlbInv s k w (some va) o.len else illegalField s k w 32)

def execTlbInvCtx (o : WOp) (s : State) : Out := onGroup s o (fun k w => tlbInv s k w none o.len)

/-! ## The pool (R354, R355) -/

/-- PMAP sends its active lanes to the context's pool unit; the wave goes on until an instruction needs their
status (R46). -/
def execPmap (o : WOp) (s : State) : Out :=
  onWave s (fun k w =>
    let ls := w.active o.guard
    let ctx := s.ctxOf w
    let rs := ls.map (fun l => (⟨ctx, k, l, o.d.toNat, BitVec.ofNat 64 (w.vgrp 2 o.b.toNat l), false⟩ : PoolReq))
    let s1 := { s with poolReqs := s.poolReqs ++ rs }
    .next (s1.retire k { w with poolPend := w.poolPend + ls.length } o.len))

def execPmapRec (o : WOp) (s : State) : Out :=
  onWave s (fun k w =>
    let n := o.c.toNat
    if 7 < n then illegalField s k w 48
    else
      let w1 := (w.active o.guard).foldl (fun (x : Wave) l =>
        x.setVgrp 2 o.d.toNat l ((w.sys.frec.getD l 0).toNat / 2 ^ (64 * n) % 2 ^ 64)) w
      .next (s.retire k w1 o.len))

/-- What the pool unit finds for a VA: its status, or the level-2 POOL entry and its address. -/
inductive PoolHit where
  | status (n : Nat)
  | pool (pa e : Nat)
  deriving DecidableEq, Repr, Inhabited

/-- Would a valid leaf fault with neither XLAT.ENTRY nor XLAT.PA (R355)? -/
def State.leafOk (s : State) (ctx level e : Nat) : Bool :=
  !s.leafBad level e && s.nameable ctx (entAddr e) (leafBytes level)

/-- The pool unit's walk (R355). An entry that cannot be read gives status 3. -/
def State.poolWalk (s : State) (o : Obs) (va : Nat) : List Nat → Nat → PoolHit
  | [], _ => .status 3
  | l :: t, table =>
    let pa := table + 8 * (va / 2 ^ (42 - 13 * l) % 2 ^ 13)
    if s.lostAt o.dm 1 pa || (s.poisonAt pa 8).isSome then .status 3
    else
      let e := s.readEntry o pa
      if entV e && !entTbl e then .status (if s.leafOk o.ctx l e then 1 else 3)
      else if l = 2 then
        if !entV e && entPool e && !s.leafBad l e then .pool pa e else .status 3
      else if entV e && s.ptrOk e then s.poolWalk o va t (entAddr e)
      else .status 3

/-- The leaf that backs a POOL entry: V set, POOL, A and D clear, ADDR the frame (R355). -/
def poolLeaf (e frame : Nat) : Nat :=
  (BitVec.ofNat 64 e &&& ~~~(BitVec.ofNat 64 (2 ^ 12 + 2 ^ 13 + 2 ^ 14 + (2 ^ 52 - 2 ^ 16)))
    ||| BitVec.ofNat 64 (1 + frame)).toNat

/-- Does a page lie in the HBM window of a device of dies (R322)? -/
def State.inWindow (s : State) (ctx dev pa n : Nat) : Bool :=
  match (s.windows ctx)[dev]? with
  | some w => decide (w.1 ≤ pa) && decide (pa + n ≤ w.1 + w.2)
  | none => false

/-- One request: the state after, and the status. -/
def State.poolServe (s : State) (ctx dev : Nat) (o : Obs) (va : Nat) : State × Nat :=
  if !canonical va then (s, 3)
  else match s.ctxs.find ctx with
    | none => (s, 3)
    | some c => match s.poolWalk o va [0, 1, 2] c.root with
      | .status n => (s, n)
      | .pool pa e =>
        let p := c.pool + 65536 * c.poolUsed
        if c.pooln ≤ c.poolUsed || !s.inWindow ctx dev p 65536 then (s, 2)
        else
          let s1 := (s.setCtx ctx { c with poolUsed := c.poolUsed + 1 }).zeroHome p 65536
          (s1.writeEntry o pa (poolLeaf e p), 0)

/-- The island of an I/O die's pool unit (R396). -/
def poolIsland (io : Nat) : Nat := 960 + 32 * io + 28

/-- A wave takes the status of a lane, unless a later instruction has written its register; when that ends its
next instruction's wait for the pool unit, it becomes ready (R46). -/
def State.poolAnswer (s : State) (r : PoolReq) (st : Nat) (held : Bool) : State :=
  s.modWave r.wave (fun x => { (if r.late then x else x.setV r.dst r.lane (BitVec.ofNat 32 st)) with
    poolPend := x.poolPend - 1
    ready := if held && !s.poolHolds r.wave x then (s.core (slotCore r.wave)).cycle else x.ready })

/-- Do the islands that a request at a pool unit needs perform: the unit's, those of its walk, and those of the
page that it would clear (R355, R399)? -/
def State.poolOn (s : State) (ctx dev : Nat) (o : Obs) (va : Nat) : Bool :=
  s.islandOn (poolIsland (s.servingIo ctx dev)) && (s.pkg.islands.isEmpty || (s.walkOn o va
    && (s.ctxs.find ctx).all (fun c => (blocksOf 128 (c.pool + 65536 * c.poolUsed) 65536).all (s.paOn o))))

/-- POOL_UNIT_REQUEST: the context's pool unit serves its oldest request, once the islands that it needs
perform (R399). -/
def execPoolUnitRequest (ctx : Nat) (s : State) : Out :=
  match s.poolReqs.find? (fun r => r.ctx = ctx) with
  | none => .refused (.notEnabled "POOL_UNIT_REQUEST")
  | some r => match s.waves.find r.wave with
    | none => .next { s with poolReqs := s.poolReqs.erase r }
    | some w =>
      let dev := ((s.gangs.find w.gang).map (·.dev)).getD 0
      let o : Obs := ⟨ctx, dieMask (s.devDies ctx dev), 4 + s.servingIo ctx dev, none, none⟩
      if !s.poolOn ctx dev o r.va.toNat then .refused (.notEnabled "POOL_UNIT_REQUEST")
      else
      let (s1, st) := ({ s with poolReqs := s.poolReqs.erase r }).poolServe ctx dev o r.va.toNat
      .next (s1.poolAnswer r st (s.poolHolds r.wave w))

/-! ## Steps of the caches and of memory -/

/-- WCB_ENTRY_TIMEOUT: an entry held for 1,024 cycles drains (R82), once the core's island and those on its way
perform (R399). -/
def execWcbEntryTimeout (core sector : Nat) (s : State) : Out :=
  match (s.core core).wcb.find sector with
  | some x =>
    if x.since + 1024 ≤ (s.core core).cycle && s.islandOn (baseIsland core)
        && s.paOn ⟨0, x.dev, coreDie core, some core, none⟩ (sector * 16) then
      .next (s.drainSec ⟨0, x.dev, coreDie core, some core, none⟩ core sector)
    else .refused (.notEnabled "WCB_ENTRY_TIMEOUT")
  | none => .refused (.notEnabled "WCB_ENTRY_TIMEOUT")

/-- L2_VICTIM_WRITEBACK: a victim line's dirty sectors are written back (R86), once the islands of the slice and
of their home perform (R399). -/
def execL2VictimWriteback (die line : Nat) (s : State) : Out :=
  match (s.die die).victim.find? (fun p => p.1 / 8 = line) with
  | some p =>
    if s.paOn ⟨0, p.2.dev, die, none, none⟩ (line * 128) then .next (s.victimBack die line)
    else .refused (.notEnabled "L2_VICTIM_WRITEBACK")
  | none => .refused (.notEnabled "L2_VICTIM_WRITEBACK")

/-- UNCORRECTABLE_SOFT_ERROR: a sector of HBM or the DDR tier is poisoned (R387). -/
def execUncorrectableSoftError (pa : Nat) (s : State) : Out :=
  if (s.paKind pa).isMem then
    .next { s with poison := if s.poison.contains (pa / 16) then s.poison else s.poison ++ [pa / 16] }
  else .refused (.notEnabled "UNCORRECTABLE_SOFT_ERROR")

end Sys2Proof.Machine
end

