-- ==== Sys2Proof/Machine/Context.lean ====
section
/-! DEFINITION. Contexts and partitions (R318-R320), Filigree grants (R324), the host's invalidations
(R350), engine commands (R296), DBG.HOLD (R372), the watchdog (R373), the event ring (R374), and the loss
of a die (R389). -/

namespace Sys2Proof.Machine

/-! ## Creating and destroying contexts (R320, R395) -/

/-- `CTXSTAT.RESULT` (R320). -/
def State.ctxAnswer (s : State) (n : Nat) : State :=
  { s with pkg := { s.pkg with ctxResult := BitVec.ofNat 4 n } }

/-- Bit of READY (R394). -/
def State.isReady (s : State) (i : Nat) : Bool := s.pkg.ready.getLsbD i

/-- Are the CD, HBM and CLASP bits of a die set (R395)? -/
def State.dieReady (s : State) (c : Nat) : Bool :=
  s.isReady (2 + c) && s.isReady (8 + 2 * c) && s.isReady (9 + 2 * c) && s.isReady (22 + c)

/-- The partitions under a PMODE. -/
def parts (cur : Nat) : Nat :=
  match cur with
  | 0 => 1
  | 1 => 2
  | _ => 4

/-- Does a range lie in one window of the HBM of some dies? -/
def State.inHbm (s : State) (dies : List Nat) (pa n : Nat) : Bool :=
  (match s.paKind pa with
    | .hbm ds => ds.all dies.contains
    | _ => false) && s.paKind (pa + n - 1) = s.paKind pa && (pa + n - 1) / 2 ^ 40 = pa / 2 ^ 40

/-- Is a context record no record at all: an identifier out of range, VIEW 3, or a field that is not zero
where R320 has zero? A destroy, which names a context alone, checks this much of its record (log 64). -/
def formBad (x : Nat) : Bool :=
  fld x 0 32 = 0 || decide (4096 ≤ fld x 0 32) || fld x 32 2 = 3 || fld x 36 28 != 0 || fld x 224 32 != 0
    || fld x 352 32 != 0 || fld x 480 32 != 0

/-- The fields of a context record that R320 constrains. -/
def State.recordBad (s : State) (x : Nat) : Bool :=
  let dies := partDies s.pkg.cur (fld x 34 2)
  formBad x || fld x 64 16 != 0 || !(s.paKind (fld x 64 64)).isMem
    || fld x 128 6 != 0 || fld x 192 32 = 0 || decide (65536 < fld x 192 32)
    || fld x 256 3 != 0 || fld x 320 3 != 0
    || (fld x 448 32 != 0 && (fld x 384 16 != 0 || !s.inHbm dies (fld x 384 64) (65536 * fld x 448 32)))

/-- A context from its record. -/
def ctxOfRecord (x : Nat) : Ctx where
  view := fld x 32 2
  part := fld x 34 2
  root := fld x 64 64
  kit := BitVec.ofNat 64 (fld x 128 64)
  kitn := fld x 192 32
  tcode := BitVec.ofNat 64 (fld x 256 64)
  tlen := fld x 320 32
  pool := fld x 384 64
  pooln := fld x 448 32
  poolUsed := 0
  nextId := 1
  regs := CtxRegs.init
  heaps := []
  queues := []
  levels := []
  devq := []
  events := []
  nextToken := 0
  failed := false
  poisoned := false

/-- The state after CTXCMD has read its record, and the record. -/
def State.cmdRecord (s : State) (val : BitVec 64) : State × Nat :=
  let pa := (val.extractLsb' 6 46).toNat * 64
  (s.physSeen pa 64, natOf (s.physRead 15 pa 64))

/-- Do the islands on the way to that record perform (R399)? -/
def State.cmdOn (s : State) (val : BitVec 64) : Bool :=
  s.paOn ⟨0, 15, 4, none, none⟩ ((val.extractLsb' 6 46).toNat * 64)

/-- Are the functions of a record's partition ready (R395)? -/
def State.partReady (s : State) (c : Ctx) : Bool := (partDies s.pkg.cur c.part).all s.dieReady

/-- CTX_CREATE: a CTXCMD write with OP 1 (R320, R395). The command runs in the step of its write, and a write
while BUSY is 1 is ignored (log 113); where several results apply, a function that is not ready comes first
(log 64). -/
def execCtxCreate (val : BitVec 64) (s : State) : Out :=
  if val.extractLsb' 0 2 != 1#2 then .refused (.notEnabled "CTX_CREATE")
  else if s.pkg.ctxBusy then .next s
  else if s.pkg.busy then .next (s.ctxAnswer 5)
  else if !s.cmdOn val then .refused (.notEnabled "CTX_CREATE")
  else
    let (s1, x) := s.cmdRecord val
    let c := ctxOfRecord x
    if !s1.partReady c then .next (s1.ctxAnswer 3)
    else if s1.recordBad x then .next (s1.ctxAnswer 4)
    else if parts s1.pkg.cur ≤ c.part then .next (s1.ctxAnswer 3)
    else if (viewDevs s1.pkg.cur c.part c.view).isNone then .next (s1.ctxAnswer 2)
    else if (s1.ctxs.find (fld x 0 32)).isSome then .next (s1.ctxAnswer 1)
    else if 1024 ≤ s1.ctxs.length then .next (s1.ctxAnswer 7)
    else .next ((s1.setCtx (fld x 0 32) c).ctxAnswer 0)

/-- Does work of a context remain: a launch, a copy program, a gather job or an image (R320)? -/
def State.hasWork (s : State) (ctx : Nat) (c : Ctx) : Bool :=
  !c.devq.isEmpty || s.entries.any (fun e => e.ctx = ctx) || s.gangs.any (fun g => g.2.ctx = ctx)
    || s.images.any (fun m => m.2.gang.ctx = ctx) || s.gjobs.any (fun j => j.owner.ctx = ctx)
    || s.engines.any (fun e => e.2.slots.any (fun p => p.2.owner.ctx = ctx && !p.2.isFree))

/-- Write 0 to every grant that names a context (R324). -/
def State.dropGrants (s : State) (ctx : Nat) : State :=
  { s with dies := s.dies.map (fun d =>
      if d.2.fil.owner = ctx || d.2.fil.pendOwner = some ctx then
        (d.1, { d.2 with fil := { d.2.fil with pendOwner := some 0 } })
      else d) }

/-- CTX_DESTROY: a CTXCMD write with OP 2 (R320, log 113). Before the firmware runs nothing responds to it
(R404, log 71); where several results apply, log 64 gives the order. -/
def execCtxDestroy (val : BitVec 64) (s : State) : Out :=
  if val.extractLsb' 0 2 != 2#2 then .refused (.notEnabled "CTX_DESTROY")
  else if s.pkg.ctxBusy || !s.isReady 0 then .next s
  else if s.pkg.busy then .next (s.ctxAnswer 5)
  else if !s.cmdOn val then .refused (.notEnabled "CTX_DESTROY")
  else
    let (s1, x) := s.cmdRecord val
    let id := fld x 0 32
    if formBad x then .next (s1.ctxAnswer 4)
    else match s1.ctxs.find id with
      | none => .next (s1.ctxAnswer 1)
      | some c =>
        if s1.hasWork id c then .next (s1.ctxAnswer 6)
        else
          let s2 := (s1.tlbDrop (s1.partOf id) id none).dropGrants id
          .next ({ s2 with
            ctxs := s2.ctxs.del id, cancels := s2.cancels.filter (fun r => r.ctx != id) }.ctxAnswer 0)

/-! ## Partitions (R318, R319) -/

/-- PMODE_WRITE: refused, or a change of PARTS begins (R319, R395). -/
def execPmodeWrite (val : BitVec 64) (s : State) : Out :=
  let p := (val.extractLsb' 0 2).toNat
  if !s.ctxs.isEmpty || s.pkg.busy || p = 3 || p = s.pkg.cur
      || !(List.range 4).all (fun c => s.isReady (2 + c)) then
    .next { s with pkg := { s.pkg with refused := true } }
  else .next { s with pkg := { s.pkg with busy := true, refused := false, next := p } }

/-- Memory with every byte of HBM zero (R319, R406). -/
def State.noHbm (s : State) : List Host.Cell :=
  s.mem.filter (fun c => match s.paKind c.1 with
    | .hbm _ => false
    | _ => true)

/-- PMODE_CHANGE_COMPLETE: caches discarded, HBM zeroed, grants reset, the new partitions formed (R319). -/
def execPmodeChangeComplete (s : State) : Out :=
  if s.pkg.busy then
    .next { s with
      mem := s.noHbm
      walkc := []
      cores := s.cores.map (fun p => (p.1, { p.2 with
        wcb := [], l1 := [], tlb := [], icache := [], mcache := [], ccache := [], clb := [] }))
      dies := s.dies.map (fun p => (p.1, { p.2 with
        remote := [], ddr := [], victim := [], tlb := [], fil := Filigree.init }))
      pkg := { s.pkg with
        cur := s.pkg.next, busy := false, ph := [], phPend := [], feHost := [], feDev := [] } }
  else .refused (.notEnabled "PMODE_CHANGE_COMPLETE")

/-! ## Filigree grants (R324, R395) -/

/-- FG_GRANT_WRITE: an owner of the die's partition, or none, waits to take effect; any other value is
ignored, and until the firmware runs every one (R404). -/
def execFgGrantWrite (die : Nat) (val : BitVec 64) (s : State) : Out :=
  let n := (val.extractLsb' 0 12).toNat
  let ok := n = 0 || (s.isReady (26 + die) && (match s.ctxs.find n with
    | some c => (partDies s.pkg.cur c.part).contains die
    | none => false))
  if 4 ≤ die then .refused (.notEnabled "FG_GRANT_WRITE")
  else if !s.isReady 0 then .next s
  else if ok then .next (s.modDie die (fun d => { d with fil := { d.fil with pendOwner := some n } }))
  else .next s

/-- Has a context a resident wave on a die? -/
def State.waveOn (s : State) (ctx die : Nat) : Bool :=
  ctx != 0 && s.waves.any (fun p => coreDie (slotCore p.1) = die && s.ctxOf p.2 = ctx)

/-- FG_GRANT_EFFECT: with no wave of either context on the die, the array becomes zero and OWNER
changes. SEQ counts from the grant on (log 101). -/
def execFgGrantEffect (die : Nat) (s : State) : Out :=
  match (s.die die).fil.pendOwner with
  | none => .refused (.notEnabled "FG_GRANT_EFFECT")
  | some n =>
    if s.waveOn n die || s.waveOn (s.die die).fil.owner die then .refused (.notEnabled "FG_GRANT_EFFECT")
    else .next (s.modDie die (fun d => { d with fil := { Filigree.init with owner := n } }))

/-! ## Invalidation by the host (R350) -/

/-- The host's invalidation: steps 2 to 4 of R350. -/
def hostInv (ctx : Nat) (s : State) (name : String) (va : Ctx → Option Nat) : Out :=
  match s.ctxs.find ctx with
  | none => .refused (.notEnabled name)
  | some c => .next ((s.usedDone ctx).tlbDrop (s.partOf ctx) ctx (va c))

def execHostTlbInvVa (ctx : Nat) (s : State) : Out :=
  hostInv ctx s "HOST_TLB_INV_VA" (fun c => some c.regs.invVa.toNat)
def execHostTlbInvCtx (ctx : Nat) (s : State) : Out := hostInv ctx s "HOST_TLB_INV_CTX" (fun _ => none)

/-! ## Engine commands (R296, R374) -/

/-- Is a program the one that a token of a context names? -/
def Prog.named (p : Prog) (ctx : Nat) (token : BitVec 32) : Bool :=
  p.st = 3 && !p.discarded && p.owner.gang.isSome && p.owner.ctx = ctx && p.token = token.toNat

/-- The faulted program, in its engine, that a token names. -/
def State.faulted (s : State) (ctx : Nat) (token : BitVec 32) : Option (Nat × Nat × Prog) :=
  (s.engines.flatMap (fun e => e.2.slots.map (fun p => (e.1, p.1, p.2)))).find? (fun x =>
    x.2.2.named ctx token)

/-- Change the programs of images. -/
def State.modSaved (s : State) (f : Prog → Prog) : State :=
  { s with images := s.images.map (fun m => (m.1, { m.2 with
      engines := m.2.engines.map (fun e => { e with slots := e.slots.map (fun p => (p.1, f p.2)) }) })) }

/-- A transfer that goes on. -/
def Xfer.again (x : Xfer) : Xfer := { x with faulted := false, told := false, culprit := false }

/-- Resume: unfinished transfers go on, and the program goes on at the command that faulted, or after the
transfer that did; a WAITX at which it waited is executed again (log 128). -/
def Prog.resume (p : Prog) : Prog := { p with st := 1, xfers := p.xfers.map Xfer.again }

/-- Skip: the faulting command is abandoned, and the program goes on at RPC. Another transfer that had faulted
on its own goes on, and faults again unless its cause is repaired. -/
def Prog.skip (p : Prog) : Prog :=
  { p with st := 1, xfers := (p.xfers.filter (fun x => !x.culprit)).map Xfer.again,
           cpc := BitVec.ofNat 64 (fld p.frec.toNat 128 64) }

/-- Discard: CE.WAIT goes on reporting the fault, and the slot is free. -/
def Prog.discard (p : Prog) : Prog := { p with xfers := [], discarded := true }

/-- Answer the fault that a token names: a program in its engine, or in an image; a token that names none
is ignored. -/
def engCmd (ctx : Nat) (token : BitVec 32) (s : State) (name : String) (f : Prog → Prog) : Out :=
  if (s.ctxs.find ctx).isNone then .refused (.notEnabled name)
  else match s.faulted ctx token with
    | some (e, slot, p) => .next (s.setProg e slot (f p))
    | none => .next (s.modSaved (fun p => if p.named ctx token then f p else p))

def execEngcmdResume (ctx : Nat) (token : BitVec 32) (s : State) : Out :=
  engCmd ctx token s "ENGCMD_RESUME" Prog.resume
def execEngcmdSkip (ctx : Nat) (token : BitVec 32) (s : State) : Out :=
  engCmd ctx token s "ENGCMD_SKIP" Prog.skip

/-- ENGCMD_DISCARD: the program's footprint goes too, with the edges that wait for it. -/
def execEngcmdDiscard (ctx : Nat) (token : BitVec 32) (s : State) : Out :=
  match s.faulted ctx token with
  | some (e, slot, p) => .next ((s.setProg e slot p.discard).freeProg e p.job)
  | none =>
    if (s.ctxs.find ctx).isNone then .refused (.notEnabled "ENGCMD_DISCARD")
    else
      let jobs := s.images.flatMap (fun m => m.2.engines.flatMap (fun e =>
        (e.slots.filter (fun p => p.2.named ctx token)).map (fun p => p.2.job)))
      let s1 := s.modSaved (fun p => if p.named ctx token then p.discard else p)
      .next { s1 with images := s1.images.map (fun m => (m.1, { m.2 with
        fps := m.2.fps.map (fun l => l.filter (fun f => !jobs.contains f.job)) })) }

/-! ## DBG.HOLD (R372) -/

/-- A held program runs. -/
def Prog.release (p : Prog) (ctx : Nat) : Prog :=
  if p.st = 6 && p.owner.ctx = ctx then { p with st := 1 } else p

/-- Release the copy programs that a context's hold keeps, images included. -/
def State.freeCe (s : State) (ctx : Nat) : State :=
  let s1 := s.modSaved (fun p => p.release ctx)
  { s1 with engines := s1.engines.map (fun e => (e.1, { e.2 with
      slots := e.2.slots.map (fun p => (p.1, p.2.release ctx)) })) }

/-- Release the gather jobs of a context. -/
def State.freeGu (s : State) (ctx : Nat) : State :=
  { s with gjobs := s.gjobs.map (fun j => if j.owner.ctx = ctx then { j with held := false } else j) }

/-- Release the children of a context. -/
def State.freeChild (s : State) (ctx : Nat) : State :=
  let f := fun (e : Entry) => if e.ctx = ctx then { e with held := false } else e
  { s.modCtx ctx (fun c => { c with devq := c.devq.map f }) with
    entries := (s.modCtx ctx (fun c => { c with devq := c.devq.map f })).entries.map f }

/-- DBG_HOLD_WRITE: a cleared bit releases every item it holds. -/
def execDbgHoldWrite (ctx : Nat) (val : BitVec 64) (s : State) : Out :=
  if (s.ctxs.find ctx).isNone then .refused (.notEnabled "DBG_HOLD_WRITE")
  else
    let s0 := s.modCtx ctx (fun c => { c with regs := { c.regs with
      holdCe := val.getLsbD 0, holdGu := val.getLsbD 1, holdChild := val.getLsbD 2 } })
    let s1 := if val.getLsbD 0 then s0 else s0.freeCe ctx
    let s2 := if val.getLsbD 1 then s1 else s1.freeGu ctx
    .next (if val.getLsbD 2 then s2 else s2.freeChild ctx)

/-! ## The watchdog (R373) -/

/-- Does DBG.HOLD of a context hold an item? -/
def State.holding (s : State) (ctx : Nat) (c : Ctx) : Bool :=
  s.engines.any (fun e => e.2.slots.any (fun p => p.2.st = 6 && p.2.owner.ctx = ctx))
    || s.gjobs.any (fun j => j.held && j.owner.ctx = ctx)
    || s.entries.any (fun e => e.held && e.ctx = ctx) || c.devq.any (·.held)

/-- A waiting wave ends its wait and raises WATCHDOG at its waiting instruction. -/
def State.watchWave (s : State) (k : Nat) (w : Wave) : State :=
  match w.wait with
  | none => s
  | some x =>
    let s1 := match x.kind with
      | .pop => s.modGang w.gang (fun g => g.markWait x.obj false w.qbit false)
      | .push => s.modGang w.gang (fun g => g.markWait x.obj true w.qbit false)
      | _ => s
    let w1 := { w with wait := none, ready := (s1.core (slotCore k)).cycle }
    takeTrap s1 k w1 (trapRec w1 0x000F x.kind.code 0 x.w0 x.w1 0 0)

/-- WATCHDOG_EXPIRY: every resident wave of the context waits, no gang of it waits for a place, nothing is
held, and the limit has passed (R52, R373). What the units do restarts the count where they do it: a time
that the model does not count (log 79). -/
def execWatchdogExpiry (ctx : Nat) (s : State) : Out :=
  match s.ctxs.find ctx with
  | none => .refused (.notEnabled "WATCHDOG_EXPIRY")
  | some c =>
    let ws := s.waves.filter (fun p => s.ctxOf p.2 = ctx)
    if c.regs.wdog = 0 || ws.isEmpty || ws.any (fun p => p.2.wait.isNone)
        || s.entries.any (fun e => e.ctx = ctx && s.wants e)
        || s.images.any (fun m => m.2.gang.ctx = ctx) || s.holding ctx c then
      .refused (.notEnabled "WATCHDOG_EXPIRY")
    else .next ((ws.foldl (fun (x : State) p => x.watchWave p.1 p.2) s).post ctx ⟨4, 0, 0, 0, 0, 0, []⟩)

/-- EVENT_RECORD_WRITE: the oldest waiting record, once the ring has room; then the MSI-X message. -/
def execEventRecordWrite (ctx : Nat) (s : State) : Out :=
  match s.ctxs.find ctx with
  | none => .refused (.notEnabled "EVENT_RECORD_WRITE")
  | some c =>
    let r := c.regs
    let n := 2 ^ r.evLog.toNat
    let pa := r.evBase.toNat + 128 * (r.evTail.toNat % n)
    if c.events.isEmpty || r.evBase = 0 || decide (n ≤ (r.evTail - r.evHead).toNat) then
      .refused (.notEnabled "EVENT_RECORD_WRITE")
    else if !s.paOn (s.frontObs ctx 0) pa then .refused (.notEnabled "EVENT_RECORD_WRITE")
    else match s.eventWrite ctx with
      | some s1 => .next s1
      | none => .refused (.notEnabled "EVENT_RECORD_WRITE")

/-! ## The loss of a die (R389) -/

/-- The entries of a table that memory lists, by index. -/
def State.tableIdx (s : State) (table : Nat) : List Nat :=
  nubNat ((s.mem.filter (fun c => decide (hbmAt table ≤ c.1) && decide (c.1 < hbmAt table + 65536))).map
    (fun c => (c.1 - hbmAt table) / 8))

/-- Does a table, or one below it, hold a leaf in the DDR tier behind an I/O die? -/
def State.tableDdr (s : State) (o : Obs) (io : Nat) : Nat → Nat → Bool
  | 0, _ => false
  | n + 1, table => (s.tableIdx table).any (fun i =>
      let e := s.readEntry o (table + 8 * i)
      entV e && (if entTbl e then s.tableDdr o io n (entAddr e) else s.paKind (entAddr e) = .ddr io))

/-- Does the loss of a die (compute die c, or 4 + i for I/O die i) concern a context: a device includes it,
it serves one, or holds the context's DDR? -/
def State.concerns (s : State) (die ctx : Nat) (c : Ctx) : Bool :=
  if die < 4 then (s.devs c).any (fun ds => ds.contains die)
  else (List.range (s.devs c).length).any (fun d => s.servingIo ctx d = die - 4)
    || s.tableDdr (s.frontObs ctx 0) (die - 4) 3 c.root

/-- A gang on a lost die is discarded with everything it started. -/
def State.loseGang (s : State) (gang : Nat) (g : Gang) : State :=
  let s1 := (s.gangWaves gang).foldl (fun (x : State) p => x.discardWave p.1) s
  let s2 := (s1.gangProgs gang).foldl (fun (x : State) p =>
    (x.setProg p.1 p.2.1 { p.2.2 with st := 7, xfers := [] }).freeProg p.1 p.2.2.job) s1
  let s3 := (s2.gjobs.filter (fun j => j.owner.gang = some gang)).foldl (fun (x : State) j =>
    x.gEnd (indexIn (x.gjobs.map (·.job)) j.job) j) s2
  let s4 : State := { s3.dropFg gang with
    redgs := s3.redgs.filter (fun r => r.gang != gang)
    cores := (s3.dropFg gang).cores.map (fun p =>
      (p.1, { p.2 with matq := p.2.matq.filter (fun j => j.gang != gang) })) }
  s4.freeGang gang g

/-- The barrier objects of a gang that the units know: those that BAR.INIT made, those that a wave or a
program waits on, and those that a program or a job counts on. -/
def State.gangBars (s : State) (gang : Nat) (g : Gang) : List Nat :=
  nubNat (g.bars
    ++ (s.gangWaves gang).filterMap (fun p => p.2.wait.bind (fun x =>
      if x.kind = .barrier || x.kind = .yield then some x.obj else none))
    ++ (s.gangProgs gang).flatMap (fun p => if p.2.2.isFree then [] else
      p.2.2.dbar.toNat :: (if p.2.2.st = 2 then [p.2.2.waitObj] else [])
        ++ p.2.2.xfers.flatMap (fun x => x.bar.toList))
    ++ (s.gjobs.filter (fun j => j.owner.gang = some gang)).map (fun j => gBar j.block.toNat))

/-- A wave that was about to be pre-empted goes on: one that had stopped for it is ready now (R46). -/
def Wave.unstop (w : Wave) (now : Nat) : Wave :=
  if w.preempt then
    { w.rewind with
      preempt := false
      stopped := false
      ready := if w.stopped then now else w.ready }
  else w

/-- A gang that was about to be pre-empted runs on. -/
def State.unstop (s : State) (gang : Nat) : State :=
  { s.modGang gang (fun g => { g with phase := .resident }) with
    waves := s.waves.map (fun p =>
      if p.2.gang = gang then (p.1, p.2.unstop (s.core (slotCore p.1)).cycle) else p) }

/-- ERR.BROKEN in every barrier object of a surviving gang, which runs on where it is. -/
def State.breakBars (s : State) (gang : Nat) (g : Gang) : State :=
  (s.gangBars gang g).foldl (fun (x : State) off =>
    x.modBar gang off false (fun b => b.setErr errBroken)) (s.unstop gang)

/-- An entry of a poisoned context takes no further gang: images and waiting gangs go, and a COPY that has
not started ends; resident gangs run on. -/
def State.loseEntry (s : State) (e : Entry) : State :=
  let ims := s.imagesOf e
  let s1 : State := { s with
    images := s.images.filter (fun p => !(p.2.gang.ctx = e.ctx && p.2.gang.launch = e.id))
    gangs := s.gangs.filter (fun p => !(ims.any (fun q => q.1 = p.1))) }
  let s2 := s1.modOrder e.order (fun x => { x with cancelled := true, live := x.live - ims.length })
  if e.copy && !e.admitted then s2.launchDone e.ctx e.id 0 0 else s2.entryCheck e.ctx e.id

/-- The loss of a die reaches a context: it is poisoned (R389). The record of the loss comes before the
completion words that follow from it (R388). -/
def State.poison_ (s0 : State) (die ctx : Nat) : State :=
  let s := s0.post ctx ⟨5, 0, 0, 0, 0, 0, [BitVec.ofNat 8 die]⟩
  let ids := s.levelsUnder ctx 0 0
  let s1 := (s.stopLevels ctx ids true).modCtx ctx (fun c => { c with poisoned := true })
  let gs := s1.gangs.filter (fun p => p.2.ctx = ctx && p.2.phase != .saved)
  let s2 := gs.foldl (fun (x : State) p =>
    if p.2.cores.any (fun c => coreDie c = die) then x.loseGang p.1 p.2 else x.breakBars p.1 p.2) s1
  let s3 := (s2.engines.flatMap (fun e => (e.2.slots.filter (fun p => p.2.owner.gang.isNone
      && p.2.owner.ctx = ctx && !p.2.isFree && engineDie e.1 = die)).map (fun p => (e.1, p.1, p.2)))).foldl
    (fun (x : State) p => x.copyEnd p.1 p.2.1 { p.2.2 with st := 7 } 0 0) s2
  let s4 := (s3.entries.filter (fun e => e.ctx = ctx)).foldl (fun (x : State) e => x.loseEntry e)
    (s3.consumeAll ctx)
  (s4.dropChildren ctx 0 0).settleAll ctx ids

/-- The READY bits of the functions that a die carries (R394). -/
def dieBits (die : Nat) : List Nat :=
  if die < 4 then [2 + die, 8 + 2 * die, 9 + 2 * die, 22 + die, 26 + die]
  else [6 + (die - 4), 16 + (die - 4), 18 + (die - 4), 20 + (die - 4)]

/-- The package without a die: what its caches and units held is lost. -/
def State.dropDie (s : State) (die : Nat) : State :=
  let mask : BitVec 30 := (dieBits die).foldl (fun (m : BitVec 30) i => m ||| (1#30 <<< i)) 0
  let s1 : State := { s with
    walkc := s.walkc.filter (fun x => x.1 / 2 ^ 64 != die)
    pkg := { s.pkg with ready := s.pkg.ready &&& ~~~mask } }
  if die < 4 then
    { s1.modDie die (fun d => { d with remote := [], ddr := [], victim := [], tlb := [], lost := true }) with
      cores := s1.cores.map (fun p => if coreDie p.1 = die then
        (p.1, { p.2 with
          wcb := [], l1 := [], tlb := [], icache := [], mcache := [], ccache := [], clb := [] }) else p) }
  else { s1 with pkg := { s1.pkg with ioLost := setNth s1.pkg.ioLost (die - 4) true } }

/-- DIE_LOST: a compute die, or 4 + i for I/O die i, is lost; every context that it concerns is
poisoned. -/
def execDieLost (die : Nat) (s : State) : Out :=
  if 6 ≤ die || (decide (die < 4) && (s.die die).lost)
      || (decide (4 ≤ die) && nth s.pkg.ioLost (die - 4) false) then .refused (.notEnabled "DIE_LOST")
  else
    let hit := s.ctxs.filter (fun p => s.concerns die p.1 p.2)
    .next (hit.foldl (fun (x : State) p => x.poison_ die p.1) (s.dropDie die))

end Sys2Proof.Machine
end

