-- ==== Sys2Proof/Machine/HostIf.lean ====
section
/-! DEFINITION. What the host and the peers reach (R378-R386, R390): the registers of BAR0, read and
written, the aperture of BAR2, and inbound RDMA. -/

namespace Sys2Proof.Machine

/-! ## Writing registers (R6, R316, R378) -/

/-- The bits of a mask from lo, n long. -/
def bits (lo n : Nat) : Nat := (2 ^ n - 1) * 2 ^ lo

/-- Replace word j of a record, keeping only the bits of a mask: reserved fields stay zero (R6). -/
def putWord {n : Nat} (x : BitVec n) (j : Nat) (v : BitVec 64) (mask : Nat) : BitVec n :=
  let old := fld x.toNat (64 * j) 64
  BitVec.ofNat n (x.toNat - old * 2 ^ (64 * j) + v.toNat * 2 ^ (64 * j)) &&& BitVec.ofNat n mask

/-- The writable bits of the tables of R384-R386. -/
def peerMask : Nat := bits 0 13 + bits 32 96 + bits 128 45
def inboundMask : Nat := bits 0 4 + bits 32 160
def portMask : Nat := bits 0 48 + bits 64 128
def qpMask : Nat := bits 0 7 + bits 8 48 + bits 64 80 + bits 160 128

/-- CHAIN.c (R401): with EN 0 no cluster holds the token. -/
def Die.setChain (d : Die) (v : BitVec 64) : Die :=
  { d with
    chainEn := v.extractLsb' 0 9
    chainHold := v.extractLsb' 16 16
    chainTok := if v.extractLsb' 0 9 = 0#9 then 15 else d.chainTok }

/-- The register of BAR0 at a package-level offset that a row of its own writes: PMODE, CTXCMD, FG.GRANT,
ISLAND, SGCMD, PKGRST. -/
def ownPkg (off : Nat) (v : BitVec 64) : Bool :=
  off = 8 * 0x080 || (off = 8 * 0x091 && (v.extractLsb' 0 2 = 1#2 || v.extractLsb' 0 2 = 2#2))
    || (8 * 0x0C0 ≤ off && off ≤ 8 * 0x0C3) || (0x200000 ≤ off && off < 0x202000)
    || (off = 0x208000 && 1 ≤ (v.extractLsb' 0 4).toNat && (v.extractLsb' 0 4).toNat ≤ 3)
    || off = 0x208040

/-- A write of a package-level register that has no row of its own; one to a read-only or unlisted offset
changes nothing. -/
def State.pkgWrite (s : State) (off : Nat) (v : BitVec 64) : State :=
  let p := s.pkg
  if off = 8 * 0x091 then (if p.ctxBusy then s else s.ctxAnswer (if p.busy then 5 else 4))
  else if off = 0x8008 then { s with pkg := { p with apBase := v &&& BitVec.ofNat 64 (bits 30 22) } }
  else if 0x9000 ≤ off ∧ off < 0x9200 then
    let k := (off - 0x9000) / 32
    { s with pkg := { p with
      peers := p.peers.set k 0 (putWord (p.peers.getD k 0) ((off - 0x9000) % 32 / 8) v peerMask) } }
  else if 0xA000 ≤ off ∧ off < 0xA800 then
    let k := (off - 0xA000) / 32
    { s with pkg := { p with
      inbound := p.inbound.set k 0 (putWord (p.inbound.getD k 0) ((off - 0xA000) % 32 / 8) v inboundMask) } }
  else if 0xC000 ≤ off ∧ off < 0xC400 then
    let k := (off - 0xC000) / 64
    { s with pkg := { p with
      ports := p.ports.set k 0 (putWord (p.ports.getD k 0) ((off - 0xC000) % 64 / 8) v portMask) } }
  else if 0x100000 ≤ off ∧ off < 0x140000 then
    let k := (off - 0x100000) / 64
    { s with pkg := { p with
      qps := p.qps.set k 0 (putWord (p.qps.getD k 0) ((off - 0x100000) % 64 / 8) v qpMask) } }
  else if 0x204000 ≤ off ∧ off < 0x204020 then
    s.modDie ((off - 0x204000) / 8) (fun d => d.setChain v)
  else if off = 0x208008 then { s with pkg := { p with signet := { p.signet with addr := v } } }
  else if off = 0x208010 then
    { s with pkg := { p with signet := { p.signet with len := v.extractLsb' 0 32 } } }
  else s

/-- A heap record with word j written: HEAD4 and HEAD32 are the device's (R357). -/
def Heap.write (h : Heap) (j : Nat) (v : BitVec 64) : Heap :=
  match j with
  | 0 => { h with ring4 := v }
  | 1 => { h with ring32 := v }
  | 2 => { h with log4 := v.extractLsb' 0 4, log32 := v.extractLsb' 4 4 }
  | 3 => { h with tail4 := v.extractLsb' 32 32 }
  | 4 => { h with tail32 := v.extractLsb' 32 32 }
  | _ => h

def Heap.zero : Heap := ⟨0, 0, 0, 0, 0, 0, 0, 0⟩

/-- The debug block with a register written (R371). -/
def Dbg.write (d : Dbg) (off : Nat) (v : BitVec 64) : Dbg :=
  match off with
  | 0x22000 => { d with ctl := v.extractLsb' 0 5 }
  | 0x22008 => { d with lid := v }
  | 0x22010 => { d with who := v.extractLsb' 0 40 }
  | _ => { d with bp := setNth d.bp ((off - 0x22018) / 8) (v.extractLsb' 3 61) }

/-- The registers of a window with one written, at an offset from 0x22000 up, at WDOG.LIM or at the
invalidation's VA (R350, R365, R371, R373, R374, R383); `img` says that the context holds an image. -/
def CtxRegs.write (r : CtxRegs) (off : Nat) (v : BitVec 64) (img : Bool) : CtxRegs :=
  if off = 8 * 0x0D0 then { r with wdog := v.extractLsb' 0 48 }
  else if off = 0x20000 then { r with invVa := v }
  else if 0x22000 ≤ off ∧ off ≤ 0x22030 then { r with dbg := r.dbg.write off v }
  else if off = 0x22800 then { r with evBase := v &&& BitVec.ofNat 64 (bits 7 45) }
  else if off = 0x22808 then { r with evLog := v.extractLsb' 0 4 }
  else if off = 0x22810 then { r with evHead := v.extractLsb' 0 32 }
  else if off = 0x22828 then { r with evVec := v.extractLsb' 0 12, evEn := v.getLsbD 15 }
  else if img then r
  else if off = 0x23000 then { r with lkBase := v &&& BitVec.ofNat 64 (bits 12 40) }
  else if off = 0x23008 then { r with lkSlot := v.extractLsb' 12 20 }
  else if off = 0x23010 then { r with lkSlots := v.extractLsb' 0 16 }
  else r

/-- The register of a context's window that a row of its own writes: BIND and DOORBELL, DBG.HOLD, the
invalidation command and ENGCMD. -/
def ownCtx (off : Nat) (v : BitVec 64) : Bool :=
  (0x10000 ≤ off && off < 0x11000) || off = 8 * 0x0D1
    || (off = 0x20008 && (v = 1#64 || v = 2#64))
    || (off = 0x22820 && v.extractLsb' 0 2 != 0#2)

/-- A write of a register of a context's window that has no row of its own. -/
def State.windowWrite (s : State) (ctx off : Nat) (v : BitVec 64) : State :=
  s.modCtx ctx (fun c =>
    if 0x21000 ≤ off ∧ off < 0x21800 then
      let k := (off - 0x21000) / 64
      { c with heaps := c.heaps.put k ((c.heaps.getD k Heap.zero).write ((off - 0x21000) % 64 / 8) v) }
    else { c with regs := c.regs.write off v (s.images.any (fun m => m.2.gang.ctx = ctx)) })

/-- REGISTER_WRITE: an aligned 8-byte write of the host to a register without a row of its own. Until the
firmware runs, only the Signet mailbox answers (R404). -/
def execRegisterWrite (o : RegWrite) (s : State) : Out :=
  if o.off % 8 != 0 then .refused (.notEnabled "REGISTER_WRITE")
  else if o.ctx = 0 then
    if ownPkg o.off o.val then .refused (.notEnabled "REGISTER_WRITE")
    else if s.isReady 0 || (0x208000 ≤ o.off && o.off < 0x208040) then .next (s.pkgWrite o.off o.val)
    else .next s
  else if ownCtx o.off o.val then .refused (.notEnabled "REGISTER_WRITE")
  else .next (if s.isReady 0 then s.windowWrite o.ctx o.off o.val else s)

/-! ## Reading registers (R316, R378, R390) -/

/-- `DIESTAT` (R390). -/
def State.dieStat (s : State) : Nat :=
  ((List.range 4).map (fun c => if (s.die c).lost then 2 ^ c else 0)).sum
    + ((List.range 2).map (fun i => if nth s.pkg.ioLost i false then 2 ^ (4 + i) else 0)).sum

/-- The kind of an island, as OPPTAB numbers the kinds; none for a reserved island (R396, R397). -/
def islandKind (n : Nat) : Option Nat :=
  if n < 960 then
    let l := n % 240
    if l < 216 then some (if l % 6 < 4 then 0 else if l % 6 = 4 then 1 else 2)
    else if l < 232 then some 3
    else if l = 232 then some 4
    else if l < 238 then some 5
    else none
  else if n < 1024 then (if (n - 960) % 32 < 29 then some 6 else none)
  else none

/-- `ISLAND.n` and `ISTAT.n` (R397). -/
def Island.reg (x : Island) : Nat :=
  x.opp.toNat + x.st.toNat * 2 ^ 4 + (if x.fgate then 2 ^ 6 else 0) + x.idle.toNat * 2 ^ 8
    + x.cap.toNat * 2 ^ 32

/-- The core of a matrix-array island. -/
def islandCore (n : Nat) : Nat := n / 240 * 64 + n % 240 / 6

def State.istat (s : State) (n : Nat) : Nat :=
  let x := s.island n
  x.oppNow.toNat + x.stNow.toNat * 2 ^ 4
    + (if islandKind n = some 1 && (s.core (islandCore n)).fgated then 2 ^ 6 else 0)
    + (if x.busy then 2 ^ 7 else 0) + (if x.ref then 2 ^ 8 else 0)

/-- `CHAIN.c` (R401). -/
def Die.chainReg (d : Die) : Nat := d.chainEn.toNat + d.chainHold.toNat * 2 ^ 16 + d.chainTok * 2 ^ 32

/-- A trap record as the host reads it: which wave's it is no rule says, so the value is free (log 109). -/
def State.hostTrec (s : State) (n : Nat) : Nat := (Config.freeWord (s.free + n)).toNat

/-- Is it the number of a word of the trap record (R316)? -/
def isTrec (srn : Nat) : Bool := decide (0x040 ≤ srn) && decide (srn ≤ 0x047)

/-- Does a register answer the host: until the firmware runs, the Signet mailbox and READY (R404, log 71)? -/
def State.responds (s : State) (off : Nat) : Bool :=
  s.isReady 0 || off / 8 = 0x0E0 || (decide (0x208000 ≤ off) && decide (off < 0x208040))

/-- What the host reads at a package-level offset of BAR0; write-only and unlisted offsets read zero, and
what a register that does not respond reads as is free. -/
def State.pkgRead (s : State) (off : Nat) : Nat :=
  let p := s.pkg
  if !s.responds off then (Config.freeWord s.free).toNat
  else if off < 0x4000 then
    (if isTrec (off / 8) then s.hostTrec (off / 8) else s.sysReg 0 0 none (off / 8))
  else if off = 0x8000 then s.dieStat
  else if off = 0x8008 then p.apBase.toNat
  else if off = 0x8010 then (nth p.ddr 0 0).toNat * 2 ^ 32
  else if off = 0x8018 then (nth p.ddr 1 0).toNat * 2 ^ 32
  else if 0x9000 ≤ off ∧ off < 0x9200 then
    fld (p.peers.getD ((off - 0x9000) / 32) 0).toNat (64 * ((off - 0x9000) % 32 / 8)) 64
  else if 0xA000 ≤ off ∧ off < 0xA800 then
    fld (p.inbound.getD ((off - 0xA000) / 32) 0).toNat (64 * ((off - 0xA000) % 32 / 8)) 64
  else if 0xC000 ≤ off ∧ off < 0xC400 then
    fld (p.ports.getD ((off - 0xC000) / 64) 0).toNat (64 * ((off - 0xC000) % 64 / 8)) 64
  else if 0x100000 ≤ off ∧ off < 0x140000 then
    fld (p.qps.getD ((off - 0x100000) / 64) 0).toNat (64 * ((off - 0x100000) % 64 / 8)) 64
  else if 0x200000 ≤ off ∧ off < 0x202000 then
    (if (islandKind ((off - 0x200000) / 8)).isSome then (s.island ((off - 0x200000) / 8)).reg else 0)
  else if 0x202000 ≤ off ∧ off < 0x204000 then
    (if (islandKind ((off - 0x202000) / 8)).isSome then s.istat ((off - 0x202000) / 8) else 0)
  else if 0x204000 ≤ off ∧ off < 0x204020 then (s.die ((off - 0x204000) / 8)).chainReg
  else if 0x205000 ≤ off ∧ off < 0x205380 then
    (Config.oppTab ((off - 0x205000) / 128) ((off - 0x205000) % 128 / 8)).toNat
  else if off = 0x208008 then p.signet.addr.toNat
  else if off = 0x208010 then p.signet.len.toNat
  else if off = 0x208018 then (if p.signet.busy then 1 else 0) + p.signet.result.toNat * 2 ^ 4
  else if off = 0x208020 then p.signet.svnMin.toNat + p.signet.svnCur.toNat * 2 ^ 16
  else 0

/-- A heap record as the host reads it (R357). -/
def Heap.word (h : Heap) (j : Nat) : Nat :=
  match j with
  | 0 => h.ring4.toNat
  | 1 => h.ring32.toNat
  | 2 => h.log4.toNat + h.log32.toNat * 2 ^ 4
  | 3 => h.head4.toNat + h.tail4.toNat * 2 ^ 32
  | 4 => h.head32.toNat + h.tail32.toNat * 2 ^ 32
  | _ => 0

/-- `BIND` of a queue: V stays 1 until an unbind takes effect (R326). -/
def Queue.bind (q : Queue) : Nat := (if q.v then 1 else 0) + q.daddr

/-- What the host reads at an offset of a context's window; `CAP.DIES`, `CAP.CORES` and `CAP.DIECORES`
describe device 0 and its logical die 0, and the other CAP registers read the same through every window
(R25). Of a context that is not created, which has no device 0, those three read 0 (log 126). -/
def State.windowRead (s : State) (ctx off : Nat) : Nat :=
  if !s.isReady 0 then (Config.freeWord s.free).toNat
  else if isTrec (off / 8) then s.hostTrec (off / 8)
  else match s.ctxs.find ctx with
  | none => if off / 8 ≤ 0x01B then s.capVal [] none (off / 8) else 0
  | some c =>
    let r := c.regs
    if off < 0x4000 then s.sysReg ctx 0 (s.devDies ctx 0).head? (off / 8)
    else if 0x10000 ≤ off ∧ off < 0x11000 ∧ off % 16 = 0 then
      ((c.queues.find ((off - 0x10000) / 16)).map Queue.bind).getD 0
    else if off = 0x20000 then r.invVa.toNat
    else if 0x21000 ≤ off ∧ off < 0x21800 then
      (c.heaps.getD ((off - 0x21000) / 64) Heap.zero).word ((off - 0x21000) % 64 / 8)
    else if off = 0x22000 then r.dbg.ctl.toNat
    else if off = 0x22008 then r.dbg.lid.toNat
    else if off = 0x22010 then r.dbg.who.toNat
    else if 0x22018 ≤ off ∧ off ≤ 0x22030 then (nth r.dbg.bp ((off - 0x22018) / 8) 0).toNat * 8
    else if off = 0x22800 then r.evBase.toNat
    else if off = 0x22808 then r.evLog.toNat
    else if off = 0x22810 then r.evHead.toNat
    else if off = 0x22818 then r.evTail.toNat
    else if off = 0x22828 then r.evVec.toNat + (if r.evEn then 2 ^ 15 else 0)
    else if off = 0x23000 then r.lkBase.toNat
    else if off = 0x23008 then r.lkSlot.toNat * 2 ^ 12
    else if off = 0x23010 then r.lkSlots.toNat
    else 0

/-! ## The aperture of BAR2 (R379, R390, R395) -/

/-- Is it an address of the DDR tier whose READY bit is clear (R376, R395)? Its size is not known then. -/
def State.ddrWaits (s : State) (a : Nat) : Bool :=
  let i := (a - 0xC000000000000) / 2 ^ 42
  decide (0xC000000000000 ≤ a) && decide (i < 2) && !s.isReady (16 + i)

/-- How the package answers a host access to n bytes at a PA: 0 performed, 1 Unsupported Request, 2
Completer Abort; the first of its 4 KiB blocks that is not performed, each with its own home (R322, R390),
says which. -/
def State.hostStatus (s : State) (pa n : Nat) : Nat :=
  let one := fun (a : Nat) => if s.ddrWaits a then 2 else match s.paKind a with
    | .hbm ds =>
      let d := homeAmong ds a
      if (s.die d).lost || !s.isReady (8 + 2 * d + Config.stackOf a % 2) then 2 else 0
    | .ddr i => if nth s.pkg.ioLost i false || !s.isReady (16 + i) then 2 else 0
    | _ => 1
  (((blocksOf 4096 pa n).map one).find? (· != 0)).getD 0

/-- The host as an observer: it stands before no cache (R119), and reaches the DDR tier at its controller
(R377). -/
def hostObs : Obs := ⟨0, 15, 4, none, none⟩
def hostLeaf : Leaf := ⟨5, 1, false, false⟩

/-- Victim lines that a write meets are written back first (R86). -/
def State.freeLines (s : State) (pa n : Nat) : State :=
  (List.range ((pa + n - 1) / 128 + 1 - pa / 128)).foldl (fun (x : State) i =>
    (List.range 4).foldl (fun (y : State) d => y.victimBack d (pa / 128 + i)) x) s

/-- Read for the host or a peer. Bytes of a poisoned sector are free: no rule states them. -/
def State.hostRead (s : State) (pa n : Nat) : State × List Byte :=
  match s.poisonAt pa n with
  | some _ => s.freeBytes n
  | none => s.pread hostObs hostLeaf .die pa n

/-- Write for the host or a peer. -/
def State.hostWrite (s : State) (pa : Nat) (bs : List Byte) : State :=
  (s.freeLines pa bs.length).pwrite hostObs hostLeaf .die pa bs

/-- Give the host or a peer an answer. -/
def State.answer (s : State) (st : Nat) (data : List Byte) : State :=
  { s with hostResp := s.hostResp ++ [⟨st, data⟩] }

/-- Do the islands on the way of every line of a host access perform (R399)? -/
def State.hostOn (s : State) (pa n : Nat) : Bool := (blocksOf 128 pa n).all (fun a => s.paOn hostObs a)

/-- May an access of BAR2 come: through a function whose link is up, within the size that Resizable BAR set
(R378, R381, R389; log 108), by islands that perform (R399)? -/
def State.bar2Ok (s : State) (o : Bar2) (n : Nat) : Bool :=
  let io := o.fn % 2
  s.hostLink io && n != 0 && decide (o.off + n ≤ 2 ^ s.pkg.bar2)
    && s.islandOn (960 + 32 * io) && s.hostOn (s.pkg.apBase.toNat + o.off) n

/-- HOST_BAR2_READ: `APBASE` + offset, performed at the home or the DDR controller (R377, R379). -/
def execHostBar2Read (o : Bar2) (s : State) : Out :=
  let pa := s.pkg.apBase.toNat + o.off
  if !s.bar2Ok o o.size then .refused (.notEnabled "HOST_BAR2_READ")
  else
    let st := s.hostStatus pa o.size
    if st != 0 then .next (s.answer st [])
    else
      let (s1, bs) := s.hostRead pa o.size
      .next (s1.answer 0 bs)

/-- HOST_BAR2_WRITE: a posted write has no answer; one that is not performed changes nothing. -/
def execHostBar2Write (o : Bar2) (s : State) : Out :=
  let pa := s.pkg.apBase.toNat + o.off
  if !s.bar2Ok o o.data.length then .refused (.notEnabled "HOST_BAR2_WRITE")
  else if s.hostStatus pa o.data.length != 0 then .next s
  else .next (s.hostWrite pa o.data)

/-! ## Inbound RDMA (R386) -/

/-- Does a valid inbound entry allow an operation (its bit 1 R, 2 W, 3 A) on a range? -/
def State.admits (s : State) (key : BitVec 32) (op pa n : Nat) : Bool :=
  s.pkg.inbound.any (fun p =>
    let e := p.2.toNat
    bitN e 0 && bitN e op && fld e 32 32 = key.toNat && decide (fld e 64 64 ≤ pa)
      && decide (pa + n ≤ fld e 64 64 + fld e 128 64))

/-- Does a local queue pair connect, through a port whose I/O die is there (R384) and whose island performs
(R399)? -/
def State.peerOn (s : State) (o : Rdma) : Bool :=
  s.qpLink o.qp.toNat && s.islandOn (portIsland (s.qpPort o.qp.toNat))

/-- A peer's request: a NAK when no entry admits it (R384), else as a host access, once the islands on the way
perform (R399). -/
def peerDo (s : State) (name : String) (o : Rdma) (op n : Nat) (f : State → State) : Out :=
  let pa := o.pa
  if !s.peerOn o || !s.hostOn pa n then .refused (.notEnabled name)
  else if n = 0 || !s.admits o.rkey op pa n then .next (s.answer 4 [])
  else
    let st := s.hostStatus pa n
    if st != 0 then .next (s.answer st []) else .next (f s)

def execPeerRdmaRead (o : Rdma) (s : State) : Out :=
  peerDo s "PEER_RDMA_READ" o 1 o.size (fun x =>
    let (x1, bs) := x.hostRead o.pa o.size
    x1.answer 0 bs)

def execPeerRdmaWrite (o : Rdma) (s : State) : Out :=
  peerDo s "PEER_RDMA_WRITE" o 2 o.data.length (fun x => (x.hostWrite o.pa o.data).answer 0 [])

/-- An inbound atomic of 8 bytes, at the home slice's arithmetic unit: FetchAdd or CmpSwap; a misaligned one
is answered with the NAK (log 70). -/
def execPeerRdmaAtomic (o : Rdma) (s : State) : Out :=
  if o.pa % 8 != 0 then
    (if s.peerOn o then .next (s.answer 4 []) else .refused (.notEnabled "PEER_RDMA_ATOMIC"))
  else peerDo s "PEER_RDMA_ATOMIC" o 3 8 (fun x =>
    let (x1, bs) := x.hostRead o.pa 8
    let old := BitVec.ofNat 64 (natOf bs)
    let new := if o.cas then (if old = o.cmp then o.opd else old) else old + o.opd
    (x1.hostWrite o.pa (bytesOf 8 new.toNat)).answer 0 bs)

end Sys2Proof.Machine
end

