-- ==== Sys2Proof/Machine/Lanes.lean ====
section
/-! DEFINITION. Cross-lane instructions (R185-R191). -/

namespace Sys2Proof.Machine

/-- Registers of a 32-bit or 64-bit lane operand (R185). -/
def lregs (o : WOp) : Nat := if o.ty = 2 || o.ty = 3 || o.ty = 9 then 2 else 1

/-- The lane that a lane operand names (R186). -/
def Wave.laneOp (w : Wave) (o : WOp) : Nat :=
  if o.m.getLsbD 4 then (w.greg o.b.toNat).toNat % w.width else o.c.toNat

/-- The value of operand A in a lane. -/
def Wave.laneA (w : Wave) (o : WOp) (l : Nat) : Nat := w.vgrp (lregs o) o.a.toNat l

def execRdfirst (o : WOp) (s : State) : Out :=
  onGroup s o (fun k w =>
    let v := match w.active o.guard with
      | [] => 0
      | l :: _ => w.laneA o l
    .next (s.retire k (w.setG o.d.toNat (BitVec.ofNat 64 v)) o.len))

def execRdlane (o : WOp) (s : State) : Out :=
  onGroup s o (fun k w =>
    .next (s.retire k (w.setG o.d.toNat (BitVec.ofNat 64 (w.laneA o (w.laneOp o)))) o.len))

def execWrlane (o : WOp) (s : State) : Out :=
  onGroup s o (fun k w =>
    .next (s.retire k (w.setVgrp (lregs o) o.d.toNat (w.laneOp o) (w.greg o.a.toNat).toNat) o.len))

/-- Write each active lane a value computed from the wave as it was. -/
def perLane (o : WOp) (s : State) (f : Wave → Nat → Nat) (regs : Nat) : Out :=
  onWave s (fun k w =>
    let w1 := (w.active o.guard).foldl
      (fun (x : Wave) l => x.setVgrp regs o.d.toNat l (f w l)) w
    .next (s.retire k w1 o.len))

def execBcast (o : WOp) (s : State) : Out :=
  perLane o s (fun w _ => w.laneA o (w.laneOp o)) (lregs o)

/-- The lane that LPERM reads for a lane, or none (R188). -/
def permSource (fn width l n : Nat) : Option Nat :=
  let x : Int := match fn with
    | 0 => n
    | 1 => (l : Int) - n
    | 2 => (l : Int) + n
    | _ => (Nat.xor l n : Nat)
  if 0 ≤ x ∧ x < width then some x.toNat else none

def execLperm (o : WOp) (s : State) : Out :=
  perLane o s (fun w l =>
    let n := match o.ext with
      | some x => x.toNat % 2 ^ 32
      | none => if o.sB then (w.greg o.b.toNat).toNat % 2 ^ 32 else (w.vreg o.b.toNat l).toNat
    match permSource o.fn.toNat w.width l n with
    | some x => w.laneA o (if (w.active o.guard).contains x then x else l)
    | none => w.laneA o l) (lregs o)

/-! ## Polls and reductions (R189, R190) -/

def execPoll (o : WOp) (s : State) : Out :=
  onGroup s o (fun k w =>
    let act := w.active o.guard
    let t := act.filter (fun l => w.predAt o.a.toNat l)
    let w1 := match o.fn.toNat with
      | 0 => w.setGP (o.d.toNat - 64) (t = act)
      | 1 => w.setGP (o.d.toNat - 64) (t != [])
      | 2 => w.setG o.d.toNat (maskOf t)
      | _ => w.setGP (o.d.toNat - 64) (t = [] || t = act)
    .next (s.retire k w1 o.len))

/-- Fold over the active lanes' values in ascending order, from the first (R190). -/
def foldLanes {α : Type} (f : α → α → α × W32) : List α → W32 → Option (α × W32)
  | [], _ => none
  | x :: t, fl => some (t.foldl (fun acc y =>
      let r := f acc.1 y
      (r.1, acc.2 ||| r.2)) (x, fl))

/-- LRED on integers: the result over w bits and its flags. -/
def lredInt (o : WOp) (xs : List Nat) : Nat × W32 :=
  let t := o.ty
  let w := tyWidth t
  let v := xs.map (fun x => elemInt t x 0)
  let (lo, hi) := tyRange t
  match o.fn.toNat with
  | 4 => satRule t o.sat (v.foldl (· + ·) 0)
  | 5 => (intCode w (v.foldl (fun a b => if b < a then b else a) hi), 0)
  | 6 => (intCode w (v.foldl (fun a b => if a < b then b else a) lo), 0)
  | 7 => (xs.foldl (· &&& ·) (2 ^ w - 1), 0)
  | 8 => (xs.foldl (· ||| ·) 0, 0)
  | _ => (xs.foldl (· ^^^ ·) 0, 0)

/-- LRED on floats, in lane order; each enabled condition of a step is kept (R190). -/
def lredFloat (o : WOp) (md : W32) (xs : List Nat) : Nat × W32 :=
  let t := o.ty
  let f := tyFmt t
  match o.fn.toNat with
  | 4 =>
    (foldLanes (fun a b => flAdd f (rmSel md o.rnd) (flushes t (modeFtz md))
      (flElem t (modeDaz md) a 0) (flElem t (modeDaz md) b 0)) xs 0).getD (0, 0)
  | 5 => (foldLanes (fun a b => minMaxElem t md false a b) xs 0).getD (f.infCode, 0)
  | _ => (foldLanes (fun a b => minMaxElem t md true a b) xs 0).getD (f.signed true f.infCode, 0)

def execLred (o : WOp) (s : State) : Out :=
  onGroup s o (fun k w =>
    let xs := (w.active o.guard).map (w.laneA o)
    let (r, fl) := if o.ty ≤ 3 then lredInt o xs else lredFloat o w.regs.mode xs
    let en := enabledOf w.regs.mode fl
    if en != 0 then trapWith s k w 0x0004 (arithDetail en true) 0 0 0
    else .next (s.retire k ((w.setReg .grp (ty64 o.ty) (o.ty = 0) o.d.toNat r).orFlags fl) o.len))

/-! ## Equal lanes (R191) -/

def execSameMask (o : WOp) (s : State) : Out :=
  perLane o s (fun w l =>
    (maskOf ((w.active o.guard).filter (fun m => w.laneA o m = w.laneA o l))).toNat) 2

def execSameAll (o : WOp) (s : State) : Out :=
  onGroup s o (fun k w =>
    let act := w.active o.guard
    let b := match act with
      | [] => true
      | l :: t => t.all (fun m => w.laneA o m = w.laneA o l)
    .next (s.retire k (w.setGP (o.d.toNat - 64) b) o.len))

end Sys2Proof.Machine
end

