-- ==== Sys2Proof/Machine/Power.lean ====
section
/-! DEFINITION. Bring-up, power and security (R394-R406): readiness, islands, Facet gating, Chain mode,
the Signet mailbox, and package reset. -/

namespace Sys2Proof.Machine

/-! ## Readiness (R394) -/

/-- Is the function of a READY bit on a lost die? -/
def State.bitLost (s : State) (bit : Nat) : Bool :=
  (List.range 6).any (fun d => (dieBits d).contains bit
    && (if d < 4 then (s.die d).lost else nth s.pkg.ioLost (d - 4) false))

/-- FUNCTION_READY: a function other than the firmware and the root announces itself, once the firmware
runs. For a DDR bit `trained` is the size that training found, in units of 4 GiB; for a HOST bit, 1 when
the link runs CXL. -/
def execFunctionReady (bit : Nat) (trained : BitVec 64) (s : State) : Out :=
  if bit < 2 || 30 ≤ bit || s.isReady bit || !s.isReady 0 || s.bitLost bit
      || ((bit = 16 || bit = 17) && decide (1024 < trained.toNat)) then
    .refused (.notEnabled "FUNCTION_READY")
  else
    let p := s.pkg
    .next { s with pkg := { p with
      ready := p.ready ||| (1#30 <<< bit)
      ddr := if bit = 16 || bit = 17 then setNth p.ddr (bit - 16) (trained.extractLsb' 0 11) else p.ddr
      cxl := if bit = 18 || bit = 19 then setNth p.cxl (bit - 18) (trained.getLsbD 0) else p.cxl } }

/-! ## Islands (R396-R399) -/

/-- Does an island accept only state 0: die control, and a front end (R396)? -/
def onlyOn (n : Nat) : Bool := (n < 960 && n % 240 = 237) || (960 ≤ n && (n - 960) % 32 = 1)

/-- The sum of all caps with one island's replaced. -/
def State.capSum (s : State) (n cap : Nat) : Nat :=
  ((List.range 1024).map (fun i => if (islandKind i).isNone then 0
    else if i = n then cap else (s.island i).cap.toNat)).sum

/-- The copy engines of an island of an I/O die (R396). -/
def islandEngines (n : Nat) : List Nat :=
  (List.range 32).filterMap (fun i =>
    let e := 1024 + 32 * ((n - 960) / 32) + i
    if engineIsland e = n then some e else none)

/-- Does an island hold state of any context (R398)? A running copy program or gather job is such. -/
def State.holdsState (s : State) (n : Nat) : Bool :=
  let die := n / 240
  let c := islandCore n
  let gangOn := s.gangs.any (fun g => g.2.phase != .saved && g.2.cores.contains c)
  match islandKind n with
  | some 0 => s.waves.any (fun w => slotCore w.1 = c && w.2.quarter = n % 240 % 6)
  | some 1 => gangOn
  | some 2 => gangOn
  | some 3 =>
    let d := s.die die
    s.gjobs.any (fun j => j.accepted && coreDie j.core = die && unitIsland die j.unit = n) ||
    let mine := fun (m : Map Sector) => m.any (fun x => x.2.mask != 0 && groupOf (x.1 / 8) = n % 240 - 216)
    mine d.remote || mine d.ddr || mine d.victim
  | some 4 =>
    let f := (s.die die).fil
    f.nb != 0 || f.key != 0 || !f.cmds.isEmpty
  | some 6 => (islandEngines n).any (fun e => (s.engine e).slots.any (fun p => !p.2.isFree))
  | _ => false

/-- The command of an ISLAND.n value on an island: FGATE exists on matrix-array islands only. -/
def Island.command (x : Island) (n : Nat) (val : BitVec 64) : Island :=
  { x with
    opp := val.extractLsb' 0 4
    st := val.extractLsb' 4 2
    fgate := val.getLsbD 6 && islandKind n = some 1
    idle := val.extractLsb' 8 16
    cap := val.extractLsb' 32 16
    ref := false
    busy := val.extractLsb' 0 4 != x.oppNow || val.extractLsb' 4 2 != x.stNow }

def State.setIsland (s : State) (n : Nat) (x : Island) : State :=
  { s with pkg := { s.pkg with islands := s.pkg.islands.put n x } }

/-- ISLAND_WRITE: refused, or a change of operating point or state begins (R397, R398). A write to a
reserved island, or of state 3, is ignored. -/
def execIslandWrite (n : Nat) (val : BitVec 64) (s : State) : Out :=
  let x := s.island n
  let opp := (val.extractLsb' 0 4).toNat
  let st := (val.extractLsb' 4 2).toNat
  let cap := (val.extractLsb' 32 16).toNat
  match islandKind n with
  | none => if n < 1024 then .next s else .refused (.notEnabled "ISLAND_WRITE")
  | some k =>
    if st = 3 || !s.isReady 0 then .next s
    else if cap < (Config.oppTab k opp).toNat || 200000 < s.capSum n cap || (st = 2 && s.holdsState n)
        || x.busy || (onlyOn n && st != 0) then
      .next (s.setIsland n { x with ref := true })
    else .next (s.setIsland n (x.command n val))

/-- A gated island returns as it stands after package reset (R399): the slots of a quarter, a core's array, its
caches and its engine, L2 lines, the Filigree array, a die's heaps, an I/O die's engines and the table
pointers of its walkers. -/
def State.gateIsland (s : State) (n : Nat) : State :=
  let die := n / 240
  let c := islandCore n
  let drop := fun (m : Map Sector) => m.filter (fun x => groupOf (x.1 / 8) != n % 240 - 216)
  match islandKind n with
  | some 0 => s.modCore c (fun x => { x with slots := x.slots.filter (fun p => p.1 / 2 != n % 240 % 6) })
  | some 1 => s.modCore c (fun x => { x.zeroArray with fgated := false })
  | some 2 => (s.modCore c (fun x => { x with
      wcb := [], l1 := [], tlb := [], icache := [], mcache := [], ccache := [], clb := [] })).setEngine c
        Engine.init
  | some 3 => s.modDie die (fun d => { d with
      remote := drop d.remote, ddr := drop d.ddr, victim := drop d.victim })
  | some 4 => s.modDie die (fun d => { d with fil := { Filigree.init with
      owner := d.fil.owner, pendOwner := d.fil.pendOwner } })
  | some 5 => if n % 240 = 236 then { s with ctxs := s.ctxs.map (fun p =>
      (p.1, { p.2 with heaps := p.2.heaps.filter (fun h => h.1 / 8 != die) })) } else s
  | some 6 =>
    let s1 := (islandEngines n).foldl (fun (x : State) e => x.setEngine e Engine.init) s
    if n % 32 = 26 || n % 32 = 27 then
      { s1 with walkc := s1.walkc.filter (fun x => x.1 / 2 ^ 64 != 4 + (n - 960) / 32) }
    else s1
  | _ => s

/-- The waves that wait for a gather unit of a die whose island performs again re-issue (R43, R399). -/
def State.unitWake (s : State) (n : Nat) : State :=
  if islandKind n = some 3 && s.islandOn n then
    s.reissueAll (fun _ x => x.kind = .footprint && x.gen = 3 && x.obj = n / 240)
  else s

/-- ISLAND_TRANSITION_COMPLETE: the change is in force (R399). -/
def execIslandTransitionComplete (n : Nat) (s : State) : Out :=
  let x := s.island n
  if x.busy then
    let s1 := s.setIsland n { x with oppNow := x.opp, stNow := x.st, busy := false }
    .next ((if x.st = 2 then s1.gateIsland n else s1).unitWake n)
  else .refused (.notEnabled "ISLAND_TRANSITION_COMPLETE")

/-! ## Steps that wait for islands (R399)

A step that completes levels, writes event records, or saves or restores a gang reaches memory beside its own
accesses. Where an island on the way of one of those bytes does not perform, the step does not happen yet. -/

/-- The completion words that a step writes, each as context, device and VA: those of the levels that it
completes (R330). -/
def State.newWords (s t : State) : List (Nat × Nat × Nat) :=
  t.ctxs.flatMap (fun c => c.2.levels.filterMap (fun l =>
    if l.2.complete && !((s.level? c.1 l.1).map (·.complete)).getD false then
      l.2.done.map (fun d => (c.1, l.2.dev, d.toNat))
    else none))

/-- The event records that a step writes, each as context and PA (R374). -/
def State.newRecords (s t : State) : List (Nat × Nat) :=
  t.ctxs.flatMap (fun c => match s.ctxs.find c.1 with
    | some x => (List.range (c.2.regs.evTail - x.regs.evTail).toNat).map (fun i =>
        (c.1, x.regs.evBase.toNat + 128 * ((x.regs.evTail.toNat + i) % 2 ^ x.regs.evLog.toNat)))
    | none => [])

/-- The images in which two states differ, each as context, device, PA and length: those that a step writes, or
reads back for a gang that it restores (R363, R364). -/
def State.imageMoves (s t : State) : List (Nat × Nat × Nat × Nat) :=
  ((t.images.filter (fun p => (s.images.find p.1).isNone))
    ++ s.images.filter (fun p => (t.images.find p.1).isNone && (t.gangs.find p.1).isSome)).filterMap (fun p =>
      let g := p.2.gang
      match s.ctxs.find g.ctx, s.entry? g.ctx g.launch with
      | some c, some e => some (g.ctx, g.dev, c.regs.slotAt p.2.slot, imageLen e.kd g.waves p.2.fil)
      | _, _ => none)

/-- Do the islands on the way of those bytes perform? -/
def State.writesOn (s t : State) : Bool :=
  s.pkg.islands.isEmpty
    || ((s.newWords t).all (fun x => s.slicesOn (s.frontObs x.1 x.2.1) [(x.2.2, 16)])
      && (s.newRecords t).all (fun x => s.paOn (s.frontObs x.1 0) x.2 && s.paOn (s.frontObs x.1 0) (x.2 + 127))
      && (s.imageMoves t).all (fun x => (blocksOf 128 x.2.2.1 x.2.2.2).all (s.paOn (s.frontObs x.1 x.2.1))))

/-- What a step answers, when the islands that its writes need perform; else it waits. -/
def whenOn (s : State) (out : Out) : Out :=
  match out with
  | .next t => if s.writesOn t then out else stall s
  | x => x

/-! ## Facet idle gating (R238, R400) -/

/-- FACET_IDLE_GATE: no matrix instruction has executed on the array for the idle time, and none is to
come, a paired one of its leader included (R236, R400). -/
def execFacetIdleGate (core : Nat) (s : State) : Out :=
  let x := s.island (arrayIsland core)
  let c := s.core core
  if x.fgate && !c.fgated && (s.arrayJobs core).isEmpty && decide ((x.idle.toNat + 1) * 256 ≤ c.cycle - c.lastMat) then
    .next (s.modCore core (fun y => { y with fgated := true }))
  else .refused (.notEnabled "FACET_IDLE_GATE")

/-- FACET_WAKE_COMPLETE: gated Facets wake for a matrix instruction, or when FGATE is clear. -/
def execFacetWakeComplete (core : Nat) (s : State) : Out :=
  let c := s.core core
  if c.fgated && (!(s.island (arrayIsland core)).fgate || !(s.arrayJobs core).isEmpty) then
    .next (s.modCore core (fun y => { y with fgated := false, lastMat := y.cycle }))
  else .refused (.notEnabled "FACET_WAKE_COMPLETE")

/-! ## Chain mode (R401) -/

/-- The next enabled cluster after one, in ascending order with wrap-round. -/
def Die.nextChain (d : Die) : Option Nat :=
  ((List.range 9).map (fun i => (d.chainTok % 9 + 1 + i) % 9)).find? (fun k => d.chainEn.getLsbD k)

/-- CHAIN_TOKEN_PASS: the token passes on; from no holder, to the lowest enabled cluster. -/
def execChainTokenPass (die : Nat) (s : State) : Out :=
  let d := s.die die
  let next := if 9 ≤ d.chainTok then (List.range 9).find? (fun k => d.chainEn.getLsbD k) else d.nextChain
  match (if die < 4 then next else none) with
  | some k => .next (s.setDie die { d with chainTok := k, chainRun := 0 })
  | none => .refused (.notEnabled "CHAIN_TOKEN_PASS")

/-! ## The Signet mailbox (R402-R405) -/

/-- Set the mailbox's result. -/
def State.sgResult (s : State) (n : Nat) : State :=
  { s with pkg := { s.pkg with signet := { s.pkg.signet with result := BitVec.ofNat 4 n } } }

/-- The PA of the mailbox's buffer in the host window. -/
def State.sgPa (s : State) : Nat := 0xD000000000000 + s.pkg.signet.addr.toNat

/-- Can the mailbox's buffer hold n bytes of host memory, 4 KiB aligned? -/
def State.sgOk (s : State) (n : Nat) : Bool :=
  s.pkg.signet.addr.toNat % 4096 = 0 && decide (s.pkg.signet.addr.toNat + n ≤ 2 ^ 47)

/-- SG_LOAD_FIRMWARE: the image is verified and runs, or is refused (R404). -/
def execSgLoadFirmware (s : State) : Out :=
  let g := s.pkg.signet
  if g.busy then .next s
  else
    let img := memRead s.mem s.sgPa g.len.toNat
    let v := Config.imageVersion img
    if !s.sgOk g.len.toNat || !Config.imageFormed img then .next (s.sgResult 3)
    else if !Config.signaturesVerify img then .next (s.sgResult 1)
    else if v.toNat < g.svnMin.toNat then .next (s.sgResult 2)
    else .next { s with pkg := { s.pkg with
      ready := s.pkg.ready ||| 1#30
      signet := { g with result := 0, svnCur := v, svnMin := v, image := img } } }

/-- SG_READ_CERTIFICATES: the chains of both identities into the buffer. -/
def execSgReadCertificates (s : State) : Out :=
  let g := s.pkg.signet
  let c := Config.certificates
  if g.busy then .next s
  else if !s.sgOk c.length then .next (s.sgResult 3)
  else if g.len.toNat < c.length then .next (s.sgResult 4)
  else .next ({ s with mem := memWrite s.mem s.sgPa c }.sgResult 0)

/-- The first 128 bytes of the attestation report (R405). -/
def State.report (s : State) (nonce : List Byte) : List Byte :=
  let g := s.pkg.signet
  bytesOf 4 1 ++ bytesOf 4 3501 ++ (Config.sha384 g.image ++ rep 48 0#8).take 48
    ++ bytesOf 4 (g.svnMin.toNat + g.svnCur.toNat * 2 ^ 16) ++ bytesOf 4 s.dieStat ++ nonce
    ++ (List.range 4).flatMap (fun c => bytesOf 8 (s.harvMap c))

/-- SG_ATTEST: the signed report replaces the nonce in the buffer (R405). -/
def execSgAttest (s : State) : Out :=
  let g := s.pkg.signet
  if g.busy then .next s
  else if g.len.toNat < 3501 then .next (s.sgResult 4)
  else if !s.sgOk 3501 then .next (s.sgResult 3)
  else
    let r := s.report (memRead s.mem s.sgPa 32)
    let bs := r ++ (Config.signEd25519 r ++ rep 64 0#8).take 64
      ++ (Config.signMlDsa65 r ++ rep 3309 0#8).take 3309
    .next ({ s with mem := memWrite s.mem s.sgPa bs }.sgResult 0)

/-! ## Package reset (R406) -/

/-- PKGRST: every context and image is discarded, HBM is zero, and every register is at its reset value;
the DDR tier keeps its contents, and the firmware's minimum version stands. Writes of other values are
ignored. -/
def execPkgrst (val : BitVec 64) (s : State) : Out :=
  if val != 0x00000000C0DE0001#64 then .next s
  else .next { State.reset with
    mem := s.noHbm
    poison := s.poison.filter (fun x => match s.paKind (x * 16) with
      | .hbm _ => false
      | _ => true)
    pkg := { Pkg.init with signet := { Pkg.init.signet with svnMin := s.pkg.signet.svnMin } }
    nextGang := s.nextGang
    nextJob := s.nextJob
    nextOrder := s.nextOrder
    hostResp := s.hostResp
    outbox := s.outbox
    agenda := s.agenda
    free := s.free }

end Sys2Proof.Machine
end

