-- ==== Sys2Proof/Machine/Volume.lean ====
section
/-! DEFINITION. Volumes (R91, R92, R258-R262): `VLD`, `VST`, `VPROBE`, and the coordinate look-aside
buffer with `CLB.INV`. -/

namespace Sys2Proof.Machine

/-- A volume descriptor's fields (R91). -/
structure Vol where
  addr : Nat
  root : Nat
  vid : Nat
  esize : Nat
  heap : Nat
  bg : Nat
  limx : Nat
  limy : Nat
  limz : Nat
  deriving DecidableEq, Repr, Inhabited

/-- The fields of a descriptor, when it is valid (R91, R92). R91 leaves it to software that the bytes of BG above
ESIZE are zero, and R92 does not list them: the model reports VOL.DESC when they are not (log 132). -/
def Vol.parse (addr x : Nat) : Option Vol :=
  let v : Vol := ⟨addr, fld x 0 64, fld x 64 16, fld x 80 5, fld x 88 3, fld x 128 128, fld x 256 19,
    fld x 275 19, fld x 294 19⟩
  let reserved := fld x 85 3 != 0 || fld x 91 5 != 0 || fld x 96 32 != 0 || fld x 313 7 != 0
    || fld x 320 192 != 0
  if addr % 64 != 0 || v.root = 0 || v.root % 4096 != 0 || v.esize = 0 || decide (16 < v.esize)
      || decide (2 ^ (8 * v.esize) ≤ v.bg) || reserved then none else some v

/-- What a volume instruction does with a lane. -/
inductive VolOp where
  | load | store | probe
  deriving DecidableEq, Repr

/-- KIND of a volume access (R352): 6 a read, 7 a write or allocation. -/
def VolOp.kind (v : VolOp) : Nat := if v = .store then 7 else 6

/-- A fault of a volume access. -/
def volFault (cause kind size addr v0 v1 : Nat) : LFault := ⟨cause, kind, size, 2, addr, v0, v1, 0, 0⟩

/-- A fault of translation or of the far side; SIZE of a fill is log 114's. -/
def volXlat (kind n : Nat) (e : XErr) : LFault := volFault e.cause kind (sizeLog n) e.addr e.v0 e.v1

/-- Coordinates (R258). -/
def volX (c : Nat) : Nat := fld c 0 19
def volY (c : Nat) : Nat := fld c 19 19
def volZ (c : Nat) : Nat := fld c 38 19

/-- The child index at node level v (R92). -/
def childIndex (c v : Nat) : Nat :=
  let sh := 15 - 4 * v
  fld (volZ c) sh 4 * 2 ^ 8 + fld (volY c) sh 4 * 2 ^ 4 + fld (volX c) sh 4

/-- The index of an element in its brick (R92). -/
def brickIndex (c : Nat) : Nat := fld (volZ c) 0 3 * 2 ^ 6 + fld (volY c) 0 3 * 2 ^ 3 + fld (volX c) 0 3

/-- The key of a brick in a CLB (R261). -/
def clbKey (vid c : Nat) : Nat :=
  vid * 2 ^ 48 + volZ c / 8 * 2 ^ 32 + volY c / 8 * 2 ^ 16 + volX c / 8

/-- Entries of a CLB (R18). -/
def clbSize : Nat := 256

/-- Fill a core's CLB; a full one loses an entry that no rule names (log 45). -/
def State.clbFill (s : State) (c key va : Nat) : State :=
  let m := (s.core c).clb
  if (m.find key).isSome || decide (m.length < clbSize) then
    s.modCore c (fun x => { x with clb := x.clb.put key va })
  else
    let i := (Config.freeWord s.free).toNat % clbSize
    s.tick.modCore c (fun x => { x with clb := Map.put (x.clb.eraseIdx i) key va })

/-- Read a pointer, at its place (R260). -/
def State.volPtr (s : State) (o : Obs) (va : Nat) : State × Except LFault Nat :=
  match s.check o none .read true va 8 with
  | (s1, .error e) => (s1, .error (volXlat 6 8 e))
  | (s1, .ok ps) =>
    let (s2, bs) := s1.readPieces o .place ps
    (s2, .ok (natOf bs))

/-- How a pointer is found zero: what a step of the walk does there. -/
inductive Step4 where
  | found (va : Nat)
  | absent
  | fault (f : LFault)
  | busy
  deriving DecidableEq, Repr, Inhabited

/-- Fill a drawn block: a node with zeros, a brick with BG in every element (R260). -/
def State.volFill (s : State) (o : Obs) (v : Vol) (brick : Bool) (va n : Nat) :
    State × Option LFault :=
  match s.check o none .write true va n with
  | (s1, .error e) => (s1, some (volXlat 7 n e))
  | (s1, .ok ps) =>
    let s2 := ps.foldl (fun (x : State) p => x.zeroHome p.pa p.n) s1
    if brick && v.bg != 0 then
      let bs := (List.range 512).flatMap (fun _ => bytesOf v.esize v.bg)
      (s2.writePieces o .place ps bs, none)
    else (s2, none)

/-- Allocate what a zero pointer lacks, and install it by compare-and-swap (R260). -/
def State.volGrow (s : State) (o : Obs) (v : Vol) (brick : Bool) (ptr : Nat) : State × Step4 :=
  let big := !brick || decide (8 < v.esize)
  match s.heapDraw o.ctx o.die v.heap big with
  | (s1, .busy) => (s1, .busy)
  | (s1, .none) => (s1, .fault (volFault 0x0503 7 3 v.addr v.heap 0))
  | (s1, .block va) =>
    match s1.volFill o v brick va (if brick then 512 * v.esize else blockBytes big) with
    | (s2, some f) => (s2.heapReturn o.ctx o.die v.heap big va, .fault f)
    | (s2, none) => match s2.check o none .atomic true ptr 8 with
      | (s3, .error e) => (s3.heapReturn o.ctx o.die v.heap big va, .fault (volXlat 7 8 e))
      | (s3, .ok ps) => match ps with
        | p :: _ =>
          let (s4, old) := s3.atomAt o { p.leaf with ap := 1 } p.pa 8 1 va 0
          if old = 0 then (s4, .found va)
          else (s4.heapReturn o.ctx o.die v.heap big va, .found old)
        | [] => (s3, .absent)

/-- Follow the pointer of a step of the walk; `store` allocates what is missing. -/
def State.volStep (s : State) (o : Obs) (v : Vol) (op : VolOp) (brick : Bool) (ptr : Nat) :
    State × Step4 :=
  match s.volPtr o ptr with
  | (s1, .error f) => (s1, .fault f)
  | (s1, .ok p) =>
    if p != 0 then (s1, .found p)
    else if op = .store then s1.volGrow o v brick ptr
    else (s1, .absent)

/-- Walk from a node through the levels of a list to the brick (R92). -/
def State.volWalk (s : State) (o : Obs) (v : Vol) (op : VolOp) (c : Nat) : List Nat → Nat → State × Step4
  | [], node => (s, .found node)
  | l :: t, node =>
    match s.volStep o v op (l = 3) ((node + 8 * childIndex c l) % 2 ^ 64) with
    | (s1, .found p) => s1.volWalk o v op c t p
    | r => r

/-- What a walk's pointers and drawn blocks touch: the address, the bytes, and whether it writes
(R110). -/
def State.volNodes (s : State) (o : Obs) (v : Vol) (op : VolOp) (c : Nat) :
    List Nat → Nat → List (Nat × Nat × Bool)
  | [], _ => []
  | l :: t, node =>
    let brick := decide (l = 3)
    let ptr := (node + 8 * childIndex c l) % 2 ^ 64
    let zero := match (s.volPtr o ptr).2 with
      | .ok p => decide (p = 0)
      | .error _ => false
    match s.volStep o v op brick ptr with
    | (s1, .found p) =>
      let n := if brick then 512 * v.esize else blockBytes true
      (if zero then [(ptr, 8, true), (p, n, true)] else [(ptr, 8, false)]) ++ s1.volNodes o v op c t p
    | _ => [(ptr, 8, false)]

/-- The brick of a coordinate: from the CLB, or by a walk that fills it (R261). -/
def State.volBrick (s : State) (o : Obs) (v : Vol) (op : VolOp) (core c : Nat) : State × Step4 :=
  match (s.core core).clb.find (clbKey v.vid c) with
  | some va => (s, .found va)
  | none => match s.volWalk o v op c [0, 1, 2, 3] v.root with
    | (s1, .found va) => (s1.clbFill core (clbKey v.vid c) va, .found va)
    | r => r

/-- Is a coordinate above its limit? -/
def Vol.outside (v : Vol) (c : Nat) : Bool :=
  decide (v.limx < volX c) || decide (v.limy < volY c) || decide (v.limz < volZ c)

/-- A volume instruction under way. -/
structure VRun where
  s : State
  w : Wave
  faults : List (Nat × LFault)
  /-- A heap's island does not perform (R399). -/
  held : Bool
  /-- What the walks touched (R110). -/
  seen : List (Nat × Nat × Bool)

/-- The element of a lane, for its operation, once its brick is known. -/
def VRun.element (r : VRun) (k : Nat) (w0 : Wave) (o : WOp) (v : Vol) (op : VolOp) (l va : Nat) : VRun :=
  let obs := r.s.waveObs k w0
  let n := 2 ^ (o.m.toNat % 4)
  match op with
  | .probe => { r with w := r.w.setPL o.d.toNat l true }
  | .load => match r.s.check obs none .read false va v.esize with
    | (s1, .error e) => { r with s := s1, faults := r.faults ++ [(l, volXlat 6 v.esize e)] }
    | (s1, .ok ps) =>
      let (s2, bs) := s1.readPieces obs (pathOf k false false) ps
      { r with s := s2, w := r.w.setVgrp n o.d.toNat l (natOf bs) }
  | .store => match r.s.check obs none .write false va v.esize with
    | (s1, .error e) => { r with s := s1, faults := r.faults ++ [(l, volXlat 7 v.esize e)] }
    | (s1, .ok ps) =>
      { r with s := s1.writePieces obs (pathOf k false false) ps
                 (bytesOf v.esize (w0.vgrp n o.d.toNat l)) }

/-- One lane, in the order of R258. -/
def VRun.lane (r : VRun) (k : Nat) (w0 : Wave) (o : WOp) (v : Vol) (op : VolOp) (l : Nat) : VRun :=
    let c := w0.vgrp 2 o.b.toNat l
    if v.outside c then
      { r with faults := r.faults
          ++ [(l, volFault 0x0501 op.kind (sizeLog v.esize) v.addr (c % 2 ^ 57) 0)] }
    else
      let obs := r.s.waveObs k w0
      let nodes := if ((r.s.core (slotCore k)).clb.find (clbKey v.vid c)).isSome then []
        else r.s.volNodes obs v op c [0, 1, 2, 3] v.root
      let r : VRun := { r with seen := r.seen ++ nodes }
      match r.s.volBrick obs v op (slotCore k) c with
      | (s1, .fault f) => { r with s := s1, faults := r.faults ++ [(l, f)] }
      | (s1, .busy) => { r with s := s1, held := true }
      | (s1, .absent) =>
        let r1 : VRun := { r with s := s1 }
        match op with
        | .probe => { r1 with w := r1.w.setPL o.d.toNat l false }
        | .load => { r1 with w := r1.w.setVgrp (2 ^ (o.m.toNat % 4)) o.d.toNat l v.bg }
        | .store => r1
      | (s1, .found brick) =>
        ({ r with s := s1 } : VRun).element k w0 o v op l ((brick + brickIndex c * v.esize) % 2 ^ 64)

/-- The element that a lane's access would reach, when its path exists. -/
def State.volPeek (s : State) (k : Nat) (w : Wave) (v : Vol) (c : Nat) : Option Nat :=
  match (s.volBrick (s.waveObs k w) v .probe (slotCore k) c).2 with
  | .found b => some ((b + brickIndex c * v.esize) % 2 ^ 64)
  | _ => none

/-- The frame of the three instructions: the descriptor once, the waits of the lanes' elements, then the
lanes in ascending order (R258, R260), unless a footprint covers what their walks touch (R110), or the wave
has yet to update it (R100). A walk that installs a pointer follows the wave's reductions (R101). A
descriptor address that is not 64-byte aligned, for which R92 and R258 name no cause, parks every active lane with
VOL.DESC, and nothing is read (log 133). -/
def onVolume (i : Instr) (o : WOp) (s : State) (op : VolOp) : Out :=
  onWave s (fun k w =>
    let act := w.active o.guard
    let obs := s.waveObs k w
    let addr := (w.greg o.a.toNat).toNat
    let all := fun (st : State) (f : LFault) => endLanes s w st k w o.len (act.map (fun l => (l, f)))
    if act.isEmpty then .next (s.retire k w o.len)
    else if addr % 64 != 0 then all s (volFault 0x0502 6 6 addr 0 0)
    else match s.heldBy w.gang false false addr 64 with
      | some j => .next (s.waitOn k w .footprint j 0 i)
      | none => if s.accBusy k w [(addr, 64)] then stall s
        else match s.readG obs (pathOf k false false) false addr 64 with
        | (s1, .error e) => all s1 (volXlat 6 64 e)
        | (s1, .ok bs) => match Vol.parse addr (natOf bs) with
          | none => all s1 (volFault 0x0502 6 6 addr 0 0)
          | some v =>
            if op != .probe && decide (4 * 2 ^ (o.m.toNat % 4) < v.esize) then
              all s1 (volFault 0x0502 6 6 addr 0 0)
            else
              let elems := act.filterMap (fun l => (s1.volPeek k w v (w.vgrp 2 o.b.toNat l)).map
                (fun a => (a, v.esize)))
              match (if op = .probe then none else s.fpHold w elems (op = .store) false) with
              | some j => .next (s.waitOn k w .footprint j 0 i)
              | none =>
                if op != .probe && s.accBusy k w elems then stall s
                else
                  let r := act.foldl (fun (x : VRun) l => x.lane k w o v op l) ⟨s1, w, [], false, []⟩
                  match r.seen.findSome? (fun p => s.heldBy w.gang p.2.2 false p.1 p.2.1) with
                  | some j => .next (s.waitOn k w .footprint j 0 i)
                  | none => if s.accBusy k w (r.seen.map (fun p => (p.1, p.2.1)))
                      || s.redgBusy k && r.seen.any (fun p => p.2.2) || r.held then stall s
                    else endLanes s w r.s k r.w o.len r.faults)

def execVld (o : WOp) (s : State) : Out := onVolume (.vld o) o s .load

def execVst (o : WOp) (s : State) : Out := onVolume (.vst o) o s .store

def execVprobe (o : WOp) (s : State) : Out := onVolume (.vprobe o) o s .probe

/-- Remove CLB entries of a core. -/
def Core.clbDrop (c : Core) (all : Bool) (vid : Nat) : Core :=
  { c with clb := if all then [] else c.clb.filter (fun e => e.1 / 2 ^ 48 != vid) }

/-- CLB.INV (R262): the CLBs of the die or of its partition, and the accesses that used them are
performed: their cores' buffers drain to L2. -/
def execClbInv (o : WOp) (s : State) : Out :=
  onGroup s o (fun k w =>
    let g := w.greg o.a.toNat
    if g.toNat / 2 ^ 16 != 0 then illegalField s k w 32
    else
      let die := coreDie (slotCore k)
      let ds := if o.m.getLsbD 0 then partDies s.pkg.cur (diePart s.pkg.cur die) else [die]
      let cs := s.cores.keys.filter (fun c => ds.contains (coreDie c))
      let obs := s.waveObs k w
      let s1 := cs.foldl (fun (x : State) c =>
        (x.drainAll { obs with core := some c, die := coreDie c } c).modCore c
          (fun y => y.clbDrop (o.m.getLsbD 1) g.toNat)) s
      .next (s1.retire k w o.len))

end Sys2Proof.Machine
end

