-- ==== Sys2Proof/Machine/Dispatch.lean ====
section
/-! DEFINITION. The meaning of every instruction: one arm per row of the opcode table. -/

namespace Sys2Proof.Machine

/-- The meaning of an instruction, command or step. -/
def exec (i : Instr) (s : State) : Host.Outcome State Fault Refusal :=
  match i with
  | .waveIssue o => Sys2Proof.Machine.execWaveIssue o s
  | .getid o => Sys2Proof.Machine.execGetid o s
  | .getcap o => Sys2Proof.Machine.execGetcap o s
  | .iadd o => Sys2Proof.Machine.execIadd o s
  | .isub o => Sys2Proof.Machine.execIsub o s
  | .ineg o => Sys2Proof.Machine.execIneg o s
  | .iabs o => Sys2Proof.Machine.execIabs o s
  | .imul o => Sys2Proof.Machine.execImul o s
  | .imad o => Sys2Proof.Machine.execImad o s
  | .imin o => Sys2Proof.Machine.execImin o s
  | .imax o => Sys2Proof.Machine.execImax o s
  | .and o => Sys2Proof.Machine.execAnd o s
  | .or o => Sys2Proof.Machine.execOr o s
  | .xor o => Sys2Proof.Machine.execXor o s
  | .not o => Sys2Proof.Machine.execNot o s
  | .andn o => Sys2Proof.Machine.execAndn o s
  | .bool3 o => Sys2Proof.Machine.execBool3 o s
  | .shl o => Sys2Proof.Machine.execShl o s
  | .shr o => Sys2Proof.Machine.execShr o s
  | .sar o => Sys2Proof.Machine.execSar o s
  | .shf o => Sys2Proof.Machine.execShf o s
  | .bfe o => Sys2Proof.Machine.execBfe o s
  | .bfi o => Sys2Proof.Machine.execBfi o s
  | .popc o => Sys2Proof.Machine.execPopc o s
  | .clz o => Sys2Proof.Machine.execClz o s
  | .brev o => Sys2Proof.Machine.execBrev o s
  | .mov o => Sys2Proof.Machine.execMov o s
  | .movi o => Sys2Proof.Machine.execMovi o s
  | .sel o => Sys2Proof.Machine.execSel o s
  | .icmp o => Sys2Proof.Machine.execIcmp o s
  | .pbool o => Sys2Proof.Machine.execPbool o s
  | .idp4 o => Sys2Proof.Machine.execIdp4 o s
  | .idp2 o => Sys2Proof.Machine.execIdp2 o s
  | .fadd o => Sys2Proof.Machine.execFadd o s
  | .fsub o => Sys2Proof.Machine.execFsub o s
  | .fmul o => Sys2Proof.Machine.execFmul o s
  | .ffma o => Sys2Proof.Machine.execFfma o s
  | .fmin o => Sys2Proof.Machine.execFmin o s
  | .fmax o => Sys2Proof.Machine.execFmax o s
  | .fcmp o => Sys2Proof.Machine.execFcmp o s
  | .frcp o => Sys2Proof.Machine.execFrcp o s
  | .frsq o => Sys2Proof.Machine.execFrsq o s
  | .fsqrt o => Sys2Proof.Machine.execFsqrt o s
  | .fdiv o => Sys2Proof.Machine.execFdiv o s
  | .fexp2 o => Sys2Proof.Machine.execFexp2 o s
  | .flog2 o => Sys2Proof.Machine.execFlog2 o s
  | .cvt o => Sys2Proof.Machine.execCvt o s
  | .fneg o => Sys2Proof.Machine.execFneg o s
  | .fabs o => Sys2Proof.Machine.execFabs o s
  | .bra o => Sys2Proof.Machine.execBra o s
  | .braIndirect o => Sys2Proof.Machine.execBraIndirect o s
  | .call o => Sys2Proof.Machine.execCall o s
  | .callIndirect o => Sys2Proof.Machine.execCallIndirect o s
  | .ret o => Sys2Proof.Machine.execRet o s
  | .cvgPush o => Sys2Proof.Machine.execCvgPush o s
  | .cvgJoin o => Sys2Proof.Machine.execCvgJoin o s
  | .exmGet o => Sys2Proof.Machine.execExmGet o s
  | .exmSet o => Sys2Proof.Machine.execExmSet o s
  | .yield o => Sys2Proof.Machine.execYield o s
  | .end_ o => Sys2Proof.Machine.execEnd o s
  | .trap o => Sys2Proof.Machine.execTrap o s
  | .rdfirst o => Sys2Proof.Machine.execRdfirst o s
  | .rdlane o => Sys2Proof.Machine.execRdlane o s
  | .wrlane o => Sys2Proof.Machine.execWrlane o s
  | .bcast o => Sys2Proof.Machine.execBcast o s
  | .lperm o => Sys2Proof.Machine.execLperm o s
  | .poll o => Sys2Proof.Machine.execPoll o s
  | .lred o => Sys2Proof.Machine.execLred o s
  | .sameMask o => Sys2Proof.Machine.execSameMask o s
  | .sameAll o => Sys2Proof.Machine.execSameAll o s
  | .getmode o => Sys2Proof.Machine.execGetmode o s
  | .setmode o => Sys2Proof.Machine.execSetmode o s
  | .getflags o => Sys2Proof.Machine.execGetflags o s
  | .setflags o => Sys2Proof.Machine.execSetflags o s
  | .clrflags o => Sys2Proof.Machine.execClrflags o s
  | .ldg o => Sys2Proof.Machine.execLdg o s
  | .stg o => Sys2Proof.Machine.execStg o s
  | .atg o => Sys2Proof.Machine.execAtg o s
  | .redg o => Sys2Proof.Machine.execRedg o s
  | .redgRedir o => Sys2Proof.Machine.execRedgRedir o s
  | .redgUpdate idx => Sys2Proof.Machine.execRedgUpdate idx s
  | .pref o => Sys2Proof.Machine.execPref o s
  | .lds o => Sys2Proof.Machine.execLds o s
  | .sts o => Sys2Proof.Machine.execSts o s
  | .ats o => Sys2Proof.Machine.execAts o s
  | .ldc o => Sys2Proof.Machine.execLdc o s
  | .fenceRel o => Sys2Proof.Machine.execFenceRel o s
  | .fenceAcq o => Sys2Proof.Machine.execFenceAcq o s
  | .fenceAr o => Sys2Proof.Machine.execFenceAr o s
  | .icinv o => Sys2Proof.Machine.execIcinv o s
  | .qbind o => Sys2Proof.Machine.execQbind o s
  | .qbindInit o => Sys2Proof.Machine.execQbindInit o s
  | .qpush o => Sys2Proof.Machine.execQpush o s
  | .qpop o => Sys2Proof.Machine.execQpop o s
  | .qtry o => Sys2Proof.Machine.execQtry o s
  | .qstat o => Sys2Proof.Machine.execQstat o s
  | .barInit o => Sys2Proof.Machine.execBarInit o s
  | .barArr o => Sys2Proof.Machine.execBarArr o s
  | .barWait o => Sys2Proof.Machine.execBarWait o s
  | .barExp o => Sys2Proof.Machine.execBarExp o s
  | .ceStart o => Sys2Proof.Machine.execCeStart o s
  | .ceWait o => Sys2Proof.Machine.execCeWait o s
  | .gthr o => Sys2Proof.Machine.execGthr o s
  | .sctr o => Sys2Proof.Machine.execSctr o s
  | .gatherUnitAccept idx => Sys2Proof.Machine.execGatherUnitAccept idx s
  | .gatherSector idx => Sys2Proof.Machine.execGatherSector idx s
  | .scatterSector idx => Sys2Proof.Machine.execScatterSector idx s
  | .launch o => Sys2Proof.Machine.execLaunch o s
  | .mldb o => Sys2Proof.Machine.execMldb o s
  | .mma o => Sys2Proof.Machine.execMma o s
  | .mst o => Sys2Proof.Machine.execMst o s
  | .mz o => Sys2Proof.Machine.execMz o s
  | .matrixArrayExecute core => Sys2Proof.Machine.execMatrixArrayExecute core s
  | .curOpen o => Sys2Proof.Machine.execCurOpen o s
  | .curNext o => Sys2Proof.Machine.execCurNext o s
  | .curSeek o => Sys2Proof.Machine.execCurSeek o s
  | .curDesc o => Sys2Proof.Machine.execCurDesc o s
  | .curGet o => Sys2Proof.Machine.execCurGet o s
  | .curTest o => Sys2Proof.Machine.execCurTest o s
  | .curCoit o => Sys2Proof.Machine.execCurCoit o s
  | .appOpen o => Sys2Proof.Machine.execAppOpen o s
  | .appPut o => Sys2Proof.Machine.execAppPut o s
  | .appClose o => Sys2Proof.Machine.execAppClose o s
  | .vld o => Sys2Proof.Machine.execVld o s
  | .vst o => Sys2Proof.Machine.execVst o s
  | .vprobe o => Sys2Proof.Machine.execVprobe o s
  | .fgCfg o => Sys2Proof.Machine.execFgCfg o s
  | .fgLoad o => Sys2Proof.Machine.execFgLoad o s
  | .fgSeed o => Sys2Proof.Machine.execFgSeed o s
  | .fgClamp o => Sys2Proof.Machine.execFgClamp o s
  | .fgFree o => Sys2Proof.Machine.execFgFree o s
  | .fgSweep o => Sys2Proof.Machine.execFgSweep o s
  | .fgRead o => Sys2Proof.Machine.execFgRead o s
  | .fgCnt o => Sys2Proof.Machine.execFgCnt o s
  | .filExecCfg die => Sys2Proof.Machine.execFilExecCfg die s
  | .filExecLoad die => Sys2Proof.Machine.execFilExecLoad die s
  | .filExecSeed die => Sys2Proof.Machine.execFilExecSeed die s
  | .filExecClamp die => Sys2Proof.Machine.execFilExecClamp die s
  | .filExecFree die => Sys2Proof.Machine.execFilExecFree die s
  | .filSweepColour die => Sys2Proof.Machine.execFilSweepColour die s
  | .filExecRead die => Sys2Proof.Machine.execFilExecRead die s
  | .filExecCnt die => Sys2Proof.Machine.execFilExecCnt die s
  | .filCompletionPush die => Sys2Proof.Machine.execFilCompletionPush die s
  | .sysrd o => Sys2Proof.Machine.execSysrd o s
  | .syswr o => Sys2Proof.Machine.execSyswr o s
  | .rtt o => Sys2Proof.Machine.execRtt o s
  | .rttSkip o => Sys2Proof.Machine.execRttSkip o s
  | .rttGo o => Sys2Proof.Machine.execRttGo o s
  | .clbInv o => Sys2Proof.Machine.execClbInv o s
  | .tlbInvVa o => Sys2Proof.Machine.execTlbInvVa o s
  | .tlbInvCtx o => Sys2Proof.Machine.execTlbInvCtx o s
  | .pmap o => Sys2Proof.Machine.execPmap o s
  | .poolUnitRequest ctx => Sys2Proof.Machine.execPoolUnitRequest ctx s
  | .pmapRec o => Sys2Proof.Machine.execPmapRec o s
  | .wcbEntryTimeout core sector => Sys2Proof.Machine.execWcbEntryTimeout core sector s
  | .l2VictimWriteback die line => Sys2Proof.Machine.execL2VictimWriteback die line s
  | .ceAdd o => Sys2Proof.Machine.execCeAdd o s
  | .ceAddImm o => Sys2Proof.Machine.execCeAddImm o s
  | .ceAddExt o => Sys2Proof.Machine.execCeAddExt o s
  | .ceSub o => Sys2Proof.Machine.execCeSub o s
  | .ceSubImm o => Sys2Proof.Machine.execCeSubImm o s
  | .ceSubExt o => Sys2Proof.Machine.execCeSubExt o s
  | .ceMul o => Sys2Proof.Machine.execCeMul o s
  | .ceMulImm o => Sys2Proof.Machine.execCeMulImm o s
  | .ceMulExt o => Sys2Proof.Machine.execCeMulExt o s
  | .ceAnd o => Sys2Proof.Machine.execCeAnd o s
  | .ceAndImm o => Sys2Proof.Machine.execCeAndImm o s
  | .ceAndExt o => Sys2Proof.Machine.execCeAndExt o s
  | .ceOr o => Sys2Proof.Machine.execCeOr o s
  | .ceOrImm o => Sys2Proof.Machine.execCeOrImm o s
  | .ceOrExt o => Sys2Proof.Machine.execCeOrExt o s
  | .ceXor o => Sys2Proof.Machine.execCeXor o s
  | .ceXorImm o => Sys2Proof.Machine.execCeXorImm o s
  | .ceXorExt o => Sys2Proof.Machine.execCeXorExt o s
  | .ceShl o => Sys2Proof.Machine.execCeShl o s
  | .ceShlImm o => Sys2Proof.Machine.execCeShlImm o s
  | .ceShlExt o => Sys2Proof.Machine.execCeShlExt o s
  | .ceShr o => Sys2Proof.Machine.execCeShr o s
  | .ceShrImm o => Sys2Proof.Machine.execCeShrImm o s
  | .ceShrExt o => Sys2Proof.Machine.execCeShrExt o s
  | .ceSar o => Sys2Proof.Machine.execCeSar o s
  | .ceSarImm o => Sys2Proof.Machine.execCeSarImm o s
  | .ceSarExt o => Sys2Proof.Machine.execCeSarExt o s
  | .ceMin o => Sys2Proof.Machine.execCeMin o s
  | .ceMinImm o => Sys2Proof.Machine.execCeMinImm o s
  | .ceMinExt o => Sys2Proof.Machine.execCeMinExt o s
  | .ceMax o => Sys2Proof.Machine.execCeMax o s
  | .ceMaxImm o => Sys2Proof.Machine.execCeMaxImm o s
  | .ceMaxExt o => Sys2Proof.Machine.execCeMaxExt o s
  | .li d im => Sys2Proof.Machine.execLi d im s
  | .liExt d x => Sys2Proof.Machine.execLiExt d x s
  | .lih d x => Sys2Proof.Machine.execLih d x s
  | .getl d k => Sys2Proof.Machine.execGetl d k s
  | .beq o => Sys2Proof.Machine.execBeq o s
  | .beqImm o => Sys2Proof.Machine.execBeqImm o s
  | .beqExt o => Sys2Proof.Machine.execBeqExt o s
  | .bne o => Sys2Proof.Machine.execBne o s
  | .bneImm o => Sys2Proof.Machine.execBneImm o s
  | .bneExt o => Sys2Proof.Machine.execBneExt o s
  | .blt o => Sys2Proof.Machine.execBlt o s
  | .bltImm o => Sys2Proof.Machine.execBltImm o s
  | .bltExt o => Sys2Proof.Machine.execBltExt o s
  | .bge o => Sys2Proof.Machine.execBge o s
  | .bgeImm o => Sys2Proof.Machine.execBgeImm o s
  | .bgeExt o => Sys2Proof.Machine.execBgeExt o s
  | .bltu o => Sys2Proof.Machine.execBltu o s
  | .bltuImm o => Sys2Proof.Machine.execBltuImm o s
  | .bltuExt o => Sys2Proof.Machine.execBltuExt o s
  | .bgeu o => Sys2Proof.Machine.execBgeu o s
  | .bgeuImm o => Sys2Proof.Machine.execBgeuImm o s
  | .bgeuExt o => Sys2Proof.Machine.execBgeuExt o s
  | .jmp off => Sys2Proof.Machine.execJmp off s
  | .jmpExt x => Sys2Proof.Machine.execJmpExt x s
  | .loop k a im => Sys2Proof.Machine.execLoop k a im s
  | .loopImm k x im => Sys2Proof.Machine.execLoopImm k x im s
  | .endl k im => Sys2Proof.Machine.execEndl k im s
  | .ld o => Sys2Proof.Machine.execLd o s
  | .ldBase o => Sys2Proof.Machine.execLdBase o s
  | .ldDisp o => Sys2Proof.Machine.execLdDisp o s
  | .st o => Sys2Proof.Machine.execSt o s
  | .stBase o => Sys2Proof.Machine.execStBase o s
  | .stDisp o => Sys2Proof.Machine.execStDisp o s
  | .dld o => Sys2Proof.Machine.execDld o s
  | .dldBase o => Sys2Proof.Machine.execDldBase o s
  | .dldDisp o => Sys2Proof.Machine.execDldDisp o s
  | .dset k f a => Sys2Proof.Machine.execDset k f a s
  | .dsetExt k f x => Sys2Proof.Machine.execDsetExt k f x s
  | .addr d a k chk => Sys2Proof.Machine.execAddr d a k chk s
  | .xfer a sp => Sys2Proof.Machine.execXfer a sp s
  | .xferSector eng slot idx => Sys2Proof.Machine.execXferSector eng slot idx s
  | .gsub a sctr => Sys2Proof.Machine.execGsub a sctr s
  | .waitx o => Sys2Proof.Machine.execWaitx o s
  | .waitxCur d a => Sys2Proof.Machine.execWaitxCur d a s
  | .arrive d a => Sys2Proof.Machine.execArrive d a s
  | .arriveN o => Sys2Proof.Machine.execArriveN o s
  | .sig a b => Sys2Proof.Machine.execSig a b s
  | .ceFence => Sys2Proof.Machine.execCeFence s
  | .halt => Sys2Proof.Machine.execHalt s
  | .nop => Sys2Proof.Machine.execNop s
  | .queueDoorbell ctx q => Sys2Proof.Machine.execQueueDoorbell ctx q s
  | .queueLineTaken ctx q data => Sys2Proof.Machine.execQueueLineTaken ctx q data s
  | .bindWrite ctx q val => Sys2Proof.Machine.execBindWrite ctx q val s
  | .bindClearEffect ctx q => Sys2Proof.Machine.execBindClearEffect ctx q s
  | .frontEndReadLaunch io => Sys2Proof.Machine.execFrontEndReadLaunch io s
  | .frontEndReadCancel io => Sys2Proof.Machine.execFrontEndReadCancel io s
  | .frontEndReadReplace io => Sys2Proof.Machine.execFrontEndReadReplace io s
  | .frontEndReadCopy io => Sys2Proof.Machine.execFrontEndReadCopy io s
  | .claspAdmit entry => Sys2Proof.Machine.execClaspAdmit entry s
  | .gangPlace entry => Sys2Proof.Machine.execGangPlace entry s
  | .gangPreempt gang => Sys2Proof.Machine.execGangPreempt gang s
  | .gangRestore gang => Sys2Proof.Machine.execGangRestore gang s
  | .gangRetire gang => Sys2Proof.Machine.execGangRetire gang s
  | .cancelTakeEffect io => Sys2Proof.Machine.execCancelTakeEffect io s
  | .ctxCreate val => Sys2Proof.Machine.execCtxCreate val s
  | .ctxDestroy val => Sys2Proof.Machine.execCtxDestroy val s
  | .pmodeWrite val => Sys2Proof.Machine.execPmodeWrite val s
  | .pmodeChangeComplete => Sys2Proof.Machine.execPmodeChangeComplete s
  | .fgGrantWrite die val => Sys2Proof.Machine.execFgGrantWrite die val s
  | .fgGrantEffect die => Sys2Proof.Machine.execFgGrantEffect die s
  | .hostTlbInvVa ctx => Sys2Proof.Machine.execHostTlbInvVa ctx s
  | .hostTlbInvCtx ctx => Sys2Proof.Machine.execHostTlbInvCtx ctx s
  | .engcmdResume ctx token => Sys2Proof.Machine.execEngcmdResume ctx token s
  | .engcmdSkip ctx token => Sys2Proof.Machine.execEngcmdSkip ctx token s
  | .engcmdDiscard ctx token => Sys2Proof.Machine.execEngcmdDiscard ctx token s
  | .dbgHoldWrite ctx val => Sys2Proof.Machine.execDbgHoldWrite ctx val s
  | .watchdogExpiry ctx => Sys2Proof.Machine.execWatchdogExpiry ctx s
  | .eventRecordWrite ctx => Sys2Proof.Machine.execEventRecordWrite ctx s
  | .dieLost die => Sys2Proof.Machine.execDieLost die s
  | .hostBar2Read o => Sys2Proof.Machine.execHostBar2Read o s
  | .hostBar2Write o => Sys2Proof.Machine.execHostBar2Write o s
  | .peerRdmaRead o => Sys2Proof.Machine.execPeerRdmaRead o s
  | .peerRdmaWrite o => Sys2Proof.Machine.execPeerRdmaWrite o s
  | .peerRdmaAtomic o => Sys2Proof.Machine.execPeerRdmaAtomic o s
  | .functionReady bit trained => Sys2Proof.Machine.execFunctionReady bit trained s
  | .islandWrite n val => Sys2Proof.Machine.execIslandWrite n val s
  | .islandTransitionComplete n => Sys2Proof.Machine.execIslandTransitionComplete n s
  | .facetIdleGate core => Sys2Proof.Machine.execFacetIdleGate core s
  | .facetWakeComplete core => Sys2Proof.Machine.execFacetWakeComplete core s
  | .chainTokenPass die => Sys2Proof.Machine.execChainTokenPass die s
  | .sgLoadFirmware => Sys2Proof.Machine.execSgLoadFirmware s
  | .sgReadCertificates => Sys2Proof.Machine.execSgReadCertificates s
  | .sgAttest => Sys2Proof.Machine.execSgAttest s
  | .pkgrst val => Sys2Proof.Machine.execPkgrst val s
  | .registerWrite o => Sys2Proof.Machine.execRegisterWrite o s
  | .ceIllegal cause w0 w1 addr => Sys2Proof.Machine.execCeIllegal cause w0 w1 addr s
  | .uncorrectableSoftError pa => Sys2Proof.Machine.execUncorrectableSoftError pa s

end Sys2Proof.Machine
end

