-- ==== Sys2Proof/Machine/Placed.lean ====
section
/-! DEFINITION. A state in which one given instruction is the next to issue: a context, its page tables,
a gang of one wave, and a wave or a copy program at the instruction. The package itself loads its
programs through queues and Clasp (R326-R340); this stands for that load. -/

namespace Sys2Proof.Machine

/-- Where the placed code lies: virtual address, and the physical address that the tables give. -/
def placedVa : Nat := 0x10000
def placedPa : Nat := 0x40010000
/-- The top table and the table below it. -/
def placedRoot : Nat := 0x20000000
def placedTable : Nat := 0x20010000

/-- A page-table entry that points to the table, and the leaf of 512 MiB: R, W, X, share PART, AP HOME,
A and D set (R345). -/
def placedPtr : Nat := placedTable + 3
def placedLeaf : Nat := 0x40000000 + 0x1 + 0x4 + 0x8 + 0x10 + 0x60 + 0x100 + 0x2000 + 0x4000

/-- The kernel of the placed program. -/
def placedKernel : KDesc where
  va := 0
  w64 := true
  gang := 1
  l1fuse := false
  vregs := 256
  scrkb := 64
  qbmask := 0
  mode := 0
  copyLen := 16
  entry := BitVec.ofNat 64 placedVa
  handler := BitVec.ofNat 64 placedVa
  code := BitVec.ofNat 64 placedVa
  codeLen := 16
  constLen := 0
  copy := BitVec.ofNat 64 placedVa
  const := 0
  fts := []

/-- Its launch in Clasp's window. -/
def placedEntry : Entry where
  ctx := 1
  dev := 0
  id := 1
  graph := 0
  phase := 0
  job := 0
  parents := []
  copy := false
  prio := 0
  coop := false
  wgw := 1
  gangs := 1
  kd := placedKernel
  args := []
  ranges := []
  edges := []
  queue := none
  child := false
  held := false
  admitted := true
  nextGang := 1
  places := []
  live := 1
  prog := 0
  einit := []
  fblock := 0
  order := 0
  cancelled := false

/-- Its context, whose trap handler is the placed code. -/
def placedCtx : Ctx where
  view := 0
  part := 0
  root := placedRoot
  kit := 0
  kitn := 0
  tcode := BitVec.ofNat 64 placedVa
  tlen := 16
  pool := 0
  pooln := 0
  poolUsed := 0
  nextId := 2
  regs := CtxRegs.init
  heaps := []
  queues := []
  levels := []
  devq := []
  events := []
  nextToken := 0
  failed := false
  poisoned := false

/-- Its gang, on core 0 of die 0. -/
def placedGang : Gang where
  launch := 1
  ctx := 1
  dev := 0
  gangId := 0
  cores := [0]
  waves := 1
  scr := 65536
  scratch := []
  placedAt := 0
  phase := .resident
  fgHome := false
  bars := []

/-- A wave of 64 lanes and 256 registers at an address, at a privilege. -/
def placedWave (gang : Nat) (sup inTrap : Bool) : Wave where
  gang := gang
  wg := 0
  wid := 0
  w64 := true
  vregs := 256
  quarter := 0
  pc := BitVec.ofNat 64 placedVa
  exm := BitVec.allOnes 64
  live := BitVec.allOnes 64
  park := if sup && !inTrap then BitVec.allOnes 64 else 0
  rpl := 0
  stop := 0
  hretPc := 0
  hretExm := 0
  stack := if sup && !inTrap then [⟨BitVec.allOnes 64, BitVec.ofNat 64 placedVa, 2⟩] else []
  wait := none
  regs := { v := [], g := [], p := [], gp := 0, c := [], q := [], mode := 0, flags := 0 }
  sys := { sup := sup, inTrap := inTrap, inLane := sup && !inTrap, bpSupp := false, stepPend := false,
           hdepth := if sup && !inTrap then 1 else 0, trec := 0, frec := [], lastPage := [], walk := [], resume := none,
           levels := [], starts := [] }
  ready := 0
  poolPend := 0
  fresh := false
  pointed := false
  preempt := false
  cancel := false
  stopped := false

/-- The tables, the code and the context, with the caches of core 0 and die 0 empty of them. -/
def State.placeCode (s : State) (code : List Byte) : State :=
  let m1 := memWrite s.mem placedRoot (bytesOf 8 placedPtr)
  let m2 := memWrite m1 placedTable (bytesOf 8 placedLeaf)
  let s1 := { s with
    mem := memWrite m2 placedPa code
    ctxs := s.ctxs.put 1 placedCtx
    entries := placedEntry :: s.entries
    gangs := s.gangs.put s.nextGang placedGang
    nextGang := s.nextGang + 1 }
  (s1.modCore 0 (fun c => { c with icache := [], tlb := [], slots := [], tried := [] })).modDie 0
    (fun d => { d with tlb := [] })

/-- The privilege at which a wave instruction decodes: the first of R135's contexts that accepts it,
user privilege when none does. -/
def placedPriv (w0 w1 : BitVec 64) : Bool × Bool :=
  match DecodeCtx.widest.find? (fun cx => match decodeWave cx w0 w1 with
    | .ok _ => true
    | .error _ => false) with
  | some cx => (cx.sup, cx.inTrap)
  | none => (false, false)

/-- A wave about to issue the instruction whose words are w. -/
def State.placeInstr (s : State) (w : Nat) : State :=
  let w0 := BitVec.ofNat 64 w
  let p := placedPriv w0 (BitVec.ofNat 64 (w / 2 ^ 64))
  let s1 := s.placeCode (bytesOf 16 w)
  { s1.setWave 0 (placedWave s.nextGang p.1 p.2) with
    agenda := .ev (.waveIssue ⟨0, 0, !w0.getLsbD 9, 1⟩) :: s.agenda }

/-- A copy program about to issue the command whose words are w. -/
def State.placeCommand (s : State) (w : Nat) : State :=
  let s1 := s.placeCode (bytesOf 8 w)
  let o : Owner := ⟨1, 0, some s.nextGang, none, 1⟩
  let p := Prog.start o false (BitVec.ofNat 64 placedVa) [] 0xFFFFFFFF#32 0 s.nextJob
    (BitVec.ofNat 64 placedVa) 16 0
  { s1.setEngine 0 { starts := 1, slots := [(0, p)], last := 7 } with
    agenda := .engine 0 :: s.agenda
    nextJob := s.nextJob + 1 }

end Sys2Proof.Machine
end

