-- ==== Sys2Proof/Machine/Step.lean ====
section
/-! DEFINITION. One step of the package: the agenda's first move, or, when it names none, a move that no
rule of the spec fixes (log 2). An issue slot's instruction executes in the slot's own step (R41). -/

namespace Sys2Proof.Machine

/-- Make one move: a step of a unit, with the instruction that an issue slot issues; or an engine's
next command. A step that finds an island of its writes not performing waits (R399). -/
def move (a : Act) (s : State) : Host.Outcome State Fault Refusal :=
  match a with
  | .ev i => match exec i s with
    | .next s1 => match s1.issued with
      | some j =>
        let s2 := { s1 with issued := none }
        afterIssue s s2 j (whenOn s2 (exec j s2))
      | none => whenOn s (.next s1)
    | x => x
  | .engine e => match s.engineTurn e with
    | (s1, some i) => whenOn s1 (exec i s1)
    | (s1, none) => .next s1

/-- A free move: one that is not open to the package now leaves it as it was. -/
def freeMove (s : State) : Host.Outcome State Fault Refusal :=
  match Config.nextEngine s.free with
  | some e => move (.engine e) s.tick
  | none =>
    if isMove (Config.nextMove s.free) then
      match move (.ev (Config.nextMove s.free)) s.tick with
      | .refused (.notEnabled _) => .next s.tick
      | x => x
    else .next s.tick

/-- One step. -/
def step (s : State) : Host.Outcome State Fault Refusal :=
  match s.agenda with
  | a :: t => move a { s with agenda := t }
  | [] => freeMove s

/-- The state with an instruction stored where the next step fetches: a context whose tables map a
code page, with one wave, or one copy program, about to issue from it (log 2). -/
def State.withFetchWord (s : State) (nbits w : Nat) : State :=
  if nbits ≤ 32 then s.placeCommand w else s.placeInstr w

end Sys2Proof.Machine
end

