-- ==== Sys2Proof/Safety.lean ====
section
/-! DEFINITION. What a safe run is, in the terms that claims use: the canonical form of memory, steps that
answer a next state, and what of a state an instruction of one wave may touch. -/

namespace Sys2Proof.Machine

/-- The canonical form of memory: addresses strictly rise, and no entry holds what an unlisted address
reads as. -/
abbrev Memory.wf (m : List Host.Cell) : Prop :=
  m.Pairwise (fun x y => x.1 < y.1) ∧ ∀ x ∈ m, x.2 ≠ memDflt

/-- The invariant that every step keeps: memory is in its canonical form. -/
abbrev State.Inv (s : State) : Prop := Memory.wf s.mem

/-- Does an outcome go on? -/
def goesOn (x : Out) : Bool :=
  match x with
  | .next _ => true
  | _ => false

/-- A run is safe for n steps when none of them is a fault or a refusal. -/
def State.safeFor : Nat → State → Bool
  | 0, _ => true
  | n + 1, s => match step s with
    | .next t => t.safeFor n
    | _ => false

/-- Every byte of physical memory reads in `t` as in `s`, and so do the caches before it: the dies' L2
and the cores' L1 and write-combining buffers. -/
def sameMemory (s t : State) : Prop :=
  (∀ a, memGet t.mem a = memGet s.mem a) ∧ t.dies = s.dies ∧ t.cores = s.cores

/-- Nothing of the package changes but the waves, the instruction in flight and the agenda. -/
def sameButWaves (s t : State) : Prop :=
  t = { s with waves := t.waves }

/-- No wave but the one at slot k changes. -/
def otherWavesKept (s t : State) (k : Nat) : Prop :=
  ∀ j, j ≠ k → t.waves.find j = s.waves.find j

end Sys2Proof.Machine
end

