-- ==== Sys2Proof/Certificates/Slice0/Obligations.lean ====
section
/-! DEFINITION. The statements for the provers, and the words they are written in (`Sys2Proof.Claims`). -/

/-! ## What the statements speak of -/

namespace Sys2Proof.Claims

open Sys2Proof Sys2Proof.Machine

/-- The wave `w` is the one at the issue slot, in wave slot `k`. -/
structure At (s : State) (k : Nat) (w : Wave) : Prop where
  cur : s.cur = some k
  wave : s.waves.find k = some w

/-- `w'` is `w` but for its registers: V register r of lane l may differ only where `dv r l`, G register r
only where `dg r`, lane l of P register r only where `dp r l`, group predicate r only where `dgp r`, and
bits of `FLAGS` may only become 1, and only those of `df`. -/
structure OnlyRegs (w w' : Wave) (dv : Nat → Nat → Prop) (dg : Nat → Prop) (dp : Nat → Nat → Prop)
    (dgp : Nat → Prop) (df : W32) : Prop where
  rest : w' = { w with regs := w'.regs }
  v : ∀ r l, l < 64 → ¬ dv r l → w'.vreg r l = w.vreg r l
  g : ∀ r, ¬ dg r → w'.greg r = w.greg r
  p : ∀ r l, ¬ dp r l → lane (w'.preg r) l = lane (w.preg r) l
  gp : ∀ r, ¬ dgp r → w'.gpred r = w.gpred r
  c : w'.regs.c = w.regs.c
  q : w'.regs.q = w.regs.q
  mode : w'.regs.mode = w.regs.mode
  flags : ∃ f : W32, w'.regs.flags = w.regs.flags ||| f ∧ f &&& ~~~df = 0

/-- The V registers that a vector form writes: D, and its pair register, in the active lanes (R8, R122). -/
def dstV (w : Wave) (o : WOp) (wide : Bool) (r l : Nat) : Prop :=
  o.grp = false ∧ l ∈ w.active o.guard ∧ (r = o.d.toNat ∨ (wide = true ∧ r = o.d.toNat + 1))

/-- The G register that a group-wide form writes, when its guard holds (R8, R124). -/
def dstG (w : Wave) (o : WOp) (r : Nat) : Prop :=
  o.grp = true ∧ w.guardGrp o.guard = true ∧ r = o.d.toNat

/-- The P register bits that a vector form writes. -/
def dstP (w : Wave) (o : WOp) (r l : Nat) : Prop :=
  o.grp = false ∧ l ∈ w.active o.guard ∧ r = o.d.toNat

/-- The group predicate that a group-wide form writes. -/
def dstGP (w : Wave) (o : WOp) (r : Nat) : Prop :=
  o.grp = true ∧ w.guardGrp o.guard = true ∧ r = o.d.toNat - 64

def never1 (_ : Nat) : Prop := False
def never2 (_ _ : Nat) : Prop := False

/-- The instruction of `mk` completes: it retires at the next instruction with `w'`, which differs from
`w` only in D; no other wave changes, and no byte of memory does. -/
def Retires (i : Instr) (o : WOp) (s : State) (k : Nat) (w w' : Wave) (wide : Bool) (df : W32) : Prop :=
  exec i s = .next (s.retire k w' o.len)
    ∧ OnlyRegs w w' (dstV w o wide) (dstG w o) never2 never1 df
    ∧ sameMemory s (s.retire k w' o.len) ∧ otherWavesKept s (s.retire k w' o.len) k

/-- The same for an instruction whose D is a predicate. -/
def RetiresPred (i : Instr) (o : WOp) (s : State) (k : Nat) (w w' : Wave) (df : W32) : Prop :=
  exec i s = .next (s.retire k w' o.len)
    ∧ OnlyRegs w w' never2 never1 (dstP w o) (dstGP w o) df
    ∧ sameMemory s (s.retire k w' o.len) ∧ otherWavesKept s (s.retire k w' o.len) k

/-! ### Integers (R147-R165) -/

/-- The exact result of an element of an integer instruction (R151-R153). -/
def intExact : Instr → Int → Int → Int
  | .iadd _, a, b => a + b
  | .isub _, a, b => a - b
  | .ineg _, a, _ => -a
  | .iabs _, a, _ => |a|
  | .imul _, a, b => a * b
  | .imin _, a, b => min a b
  | .imax _, a, b => max a b
  | _, _, _ => 0

/-- Clamp an exact value to the range of a TYPE. -/
def clampTo (t : Nat) (x : Int) : Int := max (tyRange t).1 (min (tyRange t).2 x)

/-- The exact result of element e of a cell. -/
def exactAt (i : Instr) (o : WOp) (w : Wave) (c : Machine.Cell) (e : Nat) : Int :=
  intExact i (elemInt o.ty (w.opA o c) e) (elemInt o.ty (w.opB o c) e)

/-- A 32-bit result in G[D] is extended with bit 31 for an INT32 TYPE and with zeros otherwise
(R147). -/
def grpExtended (o : WOp) (w' : Wave) : Prop :=
  o.grp = true → ty64 o.ty = false →
    w'.greg o.d.toNat = if o.ty = 0 then ((w'.greg o.d.toNat).setWidth 32).signExtend 64
      else ((w'.greg o.d.toNat).setWidth 32).setWidth 64

/-- Bit j of a logic result from the operands' bits (R154, R155). -/
def logicBit : Instr → Bool → Bool → Bool → Bool
  | .and _, a, b, _ => a && b
  | .or _, a, b, _ => a || b
  | .xor _, a, b, _ => a ^^ b
  | .not _, a, _, _ => !a
  | .andn _, a, b, _ => a && !b
  | .bool3 o, a, b, c => o.table.getLsbD (a.toNat + 2 * b.toNat + 4 * c.toNat)
  | _, _, _, _ => false

/-- Bit j of the 2w-bit value B × 2^w + A (R157). -/
def pairBit (w a b j : Nat) : Bool := if j < w then a.testBit j else decide (j < 2 * w) && b.testBit (j - w)

/-- Bit j of a shift's or field instruction's result over w bits, from its operands (R156-R159). -/
def shiftBit : Instr → (w a b c j : Nat) → Bool
  | .shl _, _, a, b, _, j => decide (b % 2 ^ 32 ≤ j) && a.testBit (j - b % 2 ^ 32)
  | .shr _, w, a, b, _, j => decide (j + b % 2 ^ 32 < w) && a.testBit (j + b % 2 ^ 32)
  | .sar _, w, a, b, _, j =>
    if j + b % 2 ^ 32 < w then a.testBit (j + b % 2 ^ 32) else a.testBit (w - 1)
  | .shf o, w, a, b, c, j =>
    let n := min (if o.m.getLsbD 6 then o.c.toNat else c % 2 ^ 32) w
    if o.m.getLsbD 5 then pairBit w a b (j + w - n) else pairBit w a b (j + n)
  | .brev _, w, a, _, _, j => a.testBit (w - 1 - j)
  | .bfe o, w, a, b, _, j =>
    let pos := b % 256
    let len := b / 256 % 256
    let t := min (pos + len) w
    if len = 0 ∨ w ≤ pos then false
    else if pos + j < t then a.testBit (pos + j) else tySigned o.ty && a.testBit (t - 1)
  | .bfi _, w, a, b, c, j =>
    let pos := b % 256
    let len := b / 256 % 256
    let t := min (pos + len) w
    if len = 0 ∨ w ≤ pos then c.testBit j
    else if pos ≤ j ∧ j < t then a.testBit (j - pos) else c.testBit j
  | _, _, _, _, _, _ => false

/-- The integer instructions that have one exact result an element. -/
def intOps : List (WOp → Instr) := [.iadd, .isub, .ineg, .iabs, .imul, .imin, .imax]
def logicOps : List (WOp → Instr) := [.and, .or, .xor, .not, .andn, .bool3]
def shiftOps : List (WOp → Instr) := [.shl, .shr, .sar, .shf, .brev, .bfe, .bfi]

/-- The dot product of R165, B's elements read with the other signedness under `.mixb`. -/
def dotExact (o : WOp) (w : Wave) (c : Machine.Cell) : Int :=
  ((List.range (tyCount o.ty)).map (fun e => elemInt o.ty (w.opA o c) e *
    (if tySigned o.ty = o.m.getLsbD 5 then (elem o.ty (w.opB o c) e : Int)
     else sgnN (elem o.ty (w.opB o c) e) (tyWidth o.ty)))).sum

/-- The float instructions of one result register. -/
def floatOps : List (WOp → Instr) := [.fadd, .fsub, .fmul, .ffma, .fmin, .fmax, .frcp, .frsq, .fsqrt,
  .fdiv, .fexp2, .flog2, .fneg, .fabs]

/-- D names a predicate of the form (R125): P0-P47 in the vector form, GP0-GP15, as 64-79, in the
group-wide form. -/
def predDst (o : WOp) : Prop :=
  if o.grp then 64 ≤ o.d.toNat ∧ o.d.toNat < 80 else o.d.toNat < 48

/-- No exception is enabled: MODE[12:8] = 0 (R55, R61). -/
def noneEnabled (w : Wave) : Prop := w.regs.mode &&& 0x1F00#32 = 0

/-- The conditions of `ICMP` (R162). -/
def intRel (n : Nat) (a b : Int) : Prop :=
  (n = 0 ∧ a = b) ∨ (n = 1 ∧ a ≠ b) ∨ (n = 2 ∧ a < b) ∨ (n = 3 ∧ a ≤ b) ∨ (n = 4 ∧ b < a) ∨ (n = 5 ∧ b ≤ a)

/-- The value of a finite number. -/
def flQ : Fl → ℚ
  | .fin neg m e => (if neg then -1 else 1) * m * (2 : ℚ) ^ e
  | _ => 0

/-- Is a decoded value finite? -/
def isFin : Fl → Prop
  | .fin _ _ _ => True
  | _ => False

/-- Less, of two values that are no NaN: an infinity lies beyond every finite value. -/
def fltLess : Fl → Fl → Prop
  | .nan _, _ => False
  | _, .nan _ => False
  | .inf n, b => n = true ∧ b ≠ .inf true
  | _, .inf n => n = false
  | .fin n m e, .fin n' m' e' => flQ (.fin n m e) < flQ (.fin n' m' e')

/-- Equal, of two values that are no NaN: the zeros of both signs are equal. -/
def fltSame : Fl → Fl → Prop
  | .inf n, .inf n' => n = n'
  | .fin n m e, .fin n' m' e' => flQ (.fin n m e) = flQ (.fin n' m' e')
  | _, _ => False

/-- The conditions of `FCMP` (R163). -/
def floatRel (n : Nat) (a b : Fl) : Prop :=
  let un := a.isNan = true ∨ b.isNan = true
  (n = 0 ∧ fltSame a b) ∨ (n = 1 ∧ ¬ un ∧ ¬ fltSame a b) ∨ (n = 2 ∧ fltLess a b)
    ∨ (n = 3 ∧ (fltLess a b ∨ fltSame a b)) ∨ (n = 4 ∧ fltLess b a) ∨ (n = 5 ∧ (fltLess b a ∨ fltSame a b))
    ∨ (n = 6 ∧ ¬ un) ∨ (n = 7 ∧ un) ∨ (n = 8 ∧ (un ∨ fltSame a b)) ∨ (n = 9 ∧ (un ∨ ¬ fltSame a b))
    ∨ (n = 10 ∧ (un ∨ fltLess a b)) ∨ (n = 11 ∧ (un ∨ fltLess a b ∨ fltSame a b))
    ∨ (n = 12 ∧ (un ∨ fltLess b a)) ∨ (n = 13 ∧ (un ∨ fltLess b a ∨ fltSame a b))

/-- `FCMP` sets `IV`: a signalling NaN under every condition, a quiet one under those that order (R163). -/
def fcmpIv (n : Nat) (a b : Fl) : Prop :=
  a = .nan true ∨ b = .nan true
    ∨ (n ∈ [2, 3, 4, 5, 10, 11, 12, 13] ∧ (a.isNan = true ∨ b.isNan = true))

/-- A float operand, element e, as `DAZ` lets it be read. -/
def flOpnd (o : WOp) (w : Wave) (x e : Nat) : Fl := flElem o.ty (modeDaz w.regs.mode) x e

/-- The exact result of a float instruction on finite operands (R166, R168). -/
def floatExact : Instr → ℚ → ℚ → ℚ → ℚ
  | .fadd _, a, b, _ => a + b
  | .fsub _, a, b, _ => a - b
  | .fmul _, a, b, _ => a * b
  | .ffma _, a, b, c => a * b + c
  | .fdiv _, a, b, _ => a / b
  | .frcp _, a, _, _ => 1 / a
  | _, _, _, _ => 0

/-- The operands that a float instruction reads are finite. -/
def floatFinite : Instr → Fl → Fl → Fl → Prop
  | .ffma _, a, b, c => isFin a ∧ isFin b ∧ isFin c
  | .frcp _, a, _, _ => isFin a
  | _, a, b, _ => isFin a ∧ isFin b

/-- Is element e of operand A, B or C a NaN? -/
def nanAt (o : WOp) (x e : Nat) : Prop := (decFl (tyFmt o.ty) (elem o.ty x e)).isNan = true

end Sys2Proof.Claims
namespace Sys2Proof.Claims

open Sys2Proof Sys2Proof.Machine

/-! ### Control, lanes, registers of a wave -/

/-- The guard is of the kind that transfers the whole wave (R30). -/
def wholeGuard (o : WOp) : Prop := ∀ n neg, o.guard ≠ .p n neg

/-- The lanes that a branch guarded by a lane predicate takes (R30). -/
def takenLanes (w : Wave) (o : WOp) : W64 := maskOf (w.active o.guard)

/-- The address of the instruction after `o`. -/
def after (w : Wave) (o : WOp) : W64 := w.pc + BitVec.ofNat 64 o.len

/-- A branch of `i` to `t` in the cases of R30: the whole wave goes or stays by a group-wide guard; by a lane
predicate none of it goes, all of it goes, or it diverges and the fall-through path is pushed; with 32
entries on the stack a divergence takes the trap CVG.OVF (cause 5) instead. -/
def BranchesTo (i : Instr) (o : WOp) (s : State) (k : Nat) (w : Wave) (t : W64) : Prop :=
  (wholeGuard o → w.guardGrp o.guard = true → exec i s = .next (s.retireAt k w t))
  ∧ (wholeGuard o → w.guardGrp o.guard = false → exec i s = .next (s.retireAt k w (after w o)))
  ∧ (∀ n neg, o.guard = .p n neg → takenLanes w o = 0 →
      exec i s = .next (s.retireAt k w (after w o)))
  ∧ (∀ n neg, o.guard = .p n neg → takenLanes w o = w.exm → w.exm ≠ 0 →
      exec i s = .next (s.retireAt k w t))
  ∧ (∀ n neg, o.guard = .p n neg → takenLanes w o ≠ 0 → takenLanes w o ≠ w.exm →
      (w.stack.length < 32 → exec i s = .next (s.retireAt k { w with
          exm := takenLanes w o
          stack := ⟨w.exm &&& ~~~takenLanes w o, pcw (after w o), 1⟩ :: w.stack } t))
      ∧ (32 ≤ w.stack.length → exec i s = .next (takeTrap s k w
          (trapRec w 5 w.stack.length 0 s.insn.1 s.insn.2 0 0))))

/-- A vector instruction that writes each active lane of D retires with `w'`. -/
def WritesLanes (i : Instr) (o : WOp) (s : State) (k : Nat) (w w' : Wave) (n : Nat)
    (val : Nat → Nat) : Prop :=
  exec i s = .next (s.retire k w' o.len)
    ∧ (∀ l ∈ w.active o.guard, w'.vgrp n o.d.toNat l = val l % 2 ^ (32 * n))
    ∧ OnlyRegs w w' (fun r l => l ∈ w.active o.guard ∧ o.d.toNat ≤ r ∧ r < o.d.toNat + n) never1 never2
        never1 0

/-- The group-wide instructions of control, lanes, mode, synchronisation and system (R8, R124). -/
def groupOps : List (WOp → Instr) := [.call, .callIndirect, .ret, .cvgPush, .cvgJoin, .exmGet, .exmSet,
  .yield, .end_, .trap, .rdfirst, .rdlane, .wrlane, .poll, .lred, .sameAll, .getmode, .setmode, .getflags,
  .setflags, .clrflags]

end Sys2Proof.Claims
namespace Sys2Proof.Claims

open Sys2Proof Sys2Proof.Machine

/-! ### Memory, queues and barriers -/

/-- The addresses and sizes that the active lanes access (R75). -/
def laneAccesses (w : Wave) (o : WOp) : List (Nat × Nat) :=
  (w.active o.guard).map (fun l => (w.laneAddr o l, o.sz))

/-- Nothing keeps a memory instruction waiting: no update, matrix instruction or footprint that it must
follow, and no island on its way (R100, R104, R108, R110, R237, R399). -/
def noWaits (o : WOp) (s : State) (k : Nat) (w : Wave) (sync wr sp : Bool) : Prop :=
  (sync = true → s.redgBusy k = false) ∧ (2 ≤ o.ord → s.relBusy k = false)
    ∧ (sp = false → s.accBusy k w (laneAccesses w o) = false)
    ∧ (sp = true → ∀ p ∈ laneAccesses w o, s.scrBusy k p.1 p.2 = false)
    ∧ s.fpHold w (laneAccesses w o) wr sp = none

/-- The run over the active lanes in ascending order, after the release of `.rel` (R104, R194, R195). -/
def lanesRun (lanef : Nat → Wave → LaneRun → Nat → LaneRun) (o : WOp) (s : State) (k : Nat) (w : Wave)
    (sp : Bool) : LaneRun :=
  (w.active o.guard).foldl (fun x l => lanef k w x l)
    ⟨if 2 ≤ o.ord then s.release (s.waveObs k w) (!sp && s.hostScope k w (laneAccesses w o)) else s, w, []⟩

/-- What follows the lanes: the acquire of `.acq`, and one segment for either (R96, R104). -/
def lanesEnd (o : WOp) (s : State) (k : Nat) (w : Wave) (x : State) : State :=
  let y := if o.ord % 2 = 1 then x.acquire (s.waveObs k w) else x
  if o.ord % 2 = 1 ∨ 2 ≤ o.ord then y.segment k else y

/-- A vector memory instruction: its constructor, its lane, and whether it synchronises, writes, and acts
on scratch. -/
structure LaneOp where
  con : WOp → Instr
  lanef : WOp → Nat → Wave → LaneRun → Nat → LaneRun
  sync : WOp → Bool
  wr : Bool
  sp : Bool

def laneOps : List LaneOp :=
  [⟨.ldg, ldgLane, fun o => o.ord != 0, false, false⟩, ⟨.stg, stgLane, fun o => o.ord != 0, true, false⟩,
   ⟨.atg, atgLane, fun _ => true, true, false⟩, ⟨.redg, redgLane, fun _ => true, true, false⟩,
   ⟨.redgRedir, redirLane, fun _ => true, true, false⟩, ⟨.lds, ldsLane, fun o => o.ord != 0, false, true⟩,
   ⟨.sts, stsLane, fun o => o.ord != 0, true, true⟩, ⟨.ats, atsLane, fun _ => true, true, true⟩]

/-- A lane's access lies in the gang's allocation, and is aligned if it synchronises (R76, R95). -/
def inScratch (g : Gang) (w : Wave) (o : WOp) (sync : Bool) (l : Nat) : Prop :=
  g.inBounds (w.laneAddr o l) o.sz = true ∧ (sync = true → w.laneAddr o l % o.sz = 0)

/-- Does byte a lie in the access of lane l? -/
def hits (w : Wave) (o : WOp) (l a : Nat) : Prop := w.laneAddr o l ≤ a ∧ a < w.laneAddr o l + o.sz

/-- The new value of the integer operations of R198 over 8 × sz bits, and whether it is written. -/
def atomSpec (fn sz old v cmp : Nat) : Nat :=
  let m := 2 ^ (8 * sz)
  let sg := fun (x : Nat) => if 2 * x < m then (x : Int) else (x : Int) - m
  match fn with
  | 0 => v
  | 1 => if old = cmp then v else old
  | 2 => (old + v) % m
  | 3 => if sg v < sg old then v else old
  | 4 => if sg old < sg v then v else old
  | 5 => min old v
  | 6 => max old v
  | 7 => old &&& v
  | 8 => old ||| v
  | _ => old ^^^ v

/-- The header of a queue register holds: the register is bound to `off`, where an aligned header with a
legal capacity, the instruction's entry size and an entry area in the allocation lies (R206, R209). -/
def boundTo (w : Wave) (g : Gang) (q : Nat) (sz : Option Nat) (off : Nat) : Prop :=
  ∃ x : W32, w.regs.q.find q = some x ∧ x.toNat = off ∧ g.queOk off sz = true

/-- The instruction has one active lane, `l`, whose checks, of kind `kind`, pass on one piece of HBM or the DDR
tier within a 16-byte sector; `s1` is the state after the checks and `page` the translation kept (R195). -/
structure OneLane (s : State) (k : Nat) (w : Wave) (o : WOp) (l : Nat) (need : Need) (kind : Nat)
    (sync : Bool) (host : Piece → Bool) (fn : Nat) (s1 : State) (page : Option PageEnt) (p : Piece) :
    Prop where
  lanes : w.active o.guard = [l]
  chk : s.laneChk (s.waveObs k w) (w.sys.lastPage.find l) need kind sync (w.laneAddr o l) o.sz host fn
    = ⟨s1, page, .ok [p]⟩
  mem : (s1.paKind p.pa).isMem = true
  size : p.n = o.sz
  within : p.pa % 16 + o.sz ≤ 16

/-- The bytes that a path reads at a PA. -/
def seen (s : State) (ob : Obs) (lf : Leaf) (p : Path) (pa n : Nat) : List Byte :=
  (s.pread ob lf p pa n).2

/-- The copies of a sector that the way from a core to memory may hold: in its L1, its write-combining
buffer, its die's remote partition and victim buffer. -/
def uncached (s : State) (ob : Obs) (c sec : Nat) : Prop :=
  (s.core (s.l1Core c sec)).l1.find sec = none ∧ (s.core c).wcb.find sec = none
    ∧ (s.die ob.die).remote.find sec = none ∧ (s.die ob.die).victim.find sec = none

/-- Whose update a pending REDG is, and the page it was checked on. -/
def redgObs (r : Redg) : Obs := ⟨r.ctx, r.dm, coreDie r.core, some r.core, none⟩
def redgLeaf (r : Redg) : Leaf := ⟨r.share, r.ap, r.rc, false⟩

/-- The bytes of a sector under its mask stand in memory. -/
def inMemory (t : State) (sec : Nat) (x : Sector) : Prop :=
  ∀ i < 16, x.mask.getLsbD i = true → memGet t.mem (hbmAt (sec * 16) + i) = secByte x.data i

/-- No other sector of a map names the bytes of memory that `sec` names; and no sector does. -/
def soleIn (m : Map Sector) (sec : Nat) : Prop :=
  ∀ p ∈ m, hbmAt (p.1 * 16) = hbmAt (sec * 16) → p.1 = sec
def notIn (m : Map Sector) (sec : Nat) : Prop := ∀ p ∈ m, hbmAt (p.1 * 16) ≠ hbmAt (sec * 16)

/-- The wave's gang is g. -/
def inGang (s : State) (w : Wave) (g : Gang) : Prop := s.gangs.find w.gang = some g

end Sys2Proof.Claims
namespace Sys2Proof.Claims

open Sys2Proof Sys2Proof.Machine

/-! ### Copy engines -/

/-- The program p stands in a slot of an engine, and it is the engine's turn with it. -/
structure AtProg (s : State) (e slot : Nat) (p : Prog) : Prop where
  cur : s.curE = some (e, slot)
  prog : s.prog? e slot = some p

/-- The state in which the program goes on at the next command, `len` bytes on. -/
def goesTo (s : State) (e slot : Nat) (p : Prog) (len : Nat) : State :=
  s.setProg e slot { p with cpc := p.cpc + BitVec.ofNat 64 len }

/-- The state in which E[d] is the value, modulo 2⁶⁴, and the program goes on. -/
def setsE (s : State) (e slot : Nat) (p : Prog) (d len : Nat) (v : Int) : State :=
  goesTo s e slot (p.setE d (BitVec.ofInt 64 v)) len

/-- An integer command of R276 in its three forms, and its exact result from the operands. -/
structure CeOp where
  reg : Ce3 → Instr
  imm : CeI → Instr
  ext : CeX → Instr
  val : W64 → W64 → Int

def ceOps : List CeOp :=
  [⟨.ceAdd, .ceAddImm, .ceAddExt, fun a b => a.toNat + b.toNat⟩,
   ⟨.ceSub, .ceSubImm, .ceSubExt, fun a b => (a.toNat : Int) - b.toNat⟩,
   ⟨.ceMul, .ceMulImm, .ceMulExt, fun a b => a.toNat * b.toNat⟩,
   ⟨.ceAnd, .ceAndImm, .ceAndExt, fun a b => (a.toNat &&& b.toNat : Nat)⟩,
   ⟨.ceOr, .ceOrImm, .ceOrExt, fun a b => (a.toNat ||| b.toNat : Nat)⟩,
   ⟨.ceXor, .ceXorImm, .ceXorExt, fun a b => (a.toNat ^^^ b.toNat : Nat)⟩,
   ⟨.ceShl, .ceShlImm, .ceShlExt, fun a b => if b.toNat < 64 then a.toNat * 2 ^ b.toNat else 0⟩,
   ⟨.ceShr, .ceShrImm, .ceShrExt, fun a b => if b.toNat < 64 then a.toNat / 2 ^ b.toNat else 0⟩,
   ⟨.ceSar, .ceSarImm, .ceSarExt, fun a b =>
     if b.toNat < 64 then a.toInt / 2 ^ b.toNat else if a.toInt < 0 then -1 else 0⟩,
   ⟨.ceMin, .ceMinImm, .ceMinExt, fun a b => min a.toInt b.toInt⟩,
   ⟨.ceMax, .ceMaxImm, .ceMaxExt, fun a b => max a.toInt b.toInt⟩]

/-- A branch of R278 in its three forms, and its condition. -/
structure BrOp where
  reg : CeBr → Instr
  imm : CeBr → Instr
  ext : CeBrX → Instr
  cond : W64 → W64 → Bool

def brOps : List BrOp :=
  [⟨.beq, .beqImm, .beqExt, fun a b => decide (a = b)⟩,
   ⟨.bne, .bneImm, .bneExt, fun a b => decide (a ≠ b)⟩,
   ⟨.blt, .bltImm, .bltExt, fun a b => decide (a.toInt < b.toInt)⟩,
   ⟨.bge, .bgeImm, .bgeExt, fun a b => decide (b.toInt ≤ a.toInt)⟩,
   ⟨.bltu, .bltuImm, .bltuExt, fun a b => decide (a.toNat < b.toNat)⟩,
   ⟨.bgeu, .bgeuImm, .bgeuExt, fun a b => decide (b.toNat ≤ a.toNat)⟩]

/-- The program at CPC + 4 × off when the condition holds, at the next command otherwise. -/
def branches (s : State) (e slot : Nat) (p : Prog) (c : Bool) (off : Int) (len : Nat) : State :=
  s.setProg e slot { p with cpc := if c then p.cpc + BitVec.ofInt 64 (4 * off)
                                   else p.cpc + BitVec.ofNat 64 len }

/-- The address that a load or store of R280 forms, modulo 2⁶⁴. -/
def formsAddr (p : Prog) (a : BitVec 5) (b : Option (BitVec 5)) (x : Option (BitVec 32)) (sz : Nat) :
    Int :=
  ((p.getE a.toNat).toNat + (match b with | some r => (p.getE r.toNat).toNat * sz | none => 0 : Nat)
    + (match x with | some d => d.toInt | none => 0 : Int)) % 2 ^ 64

/-- Nothing that the program has in flight holds a command on n bytes at a (R291), and the islands on the way
of a global access perform (R399). -/
def xferFree (s : State) (e : Nat) (p : Prog) (wr sp : Bool) (a n : Nat) : Prop :=
  s.xferHolds e p wr (granules sp (spAddr sp a) n) = false
    ∧ s.granOff e p (granules sp (spAddr sp a) n) = false

/-- The bytes of a command: 8 with an extension word, 4 without. -/
def cmdLen (x : Option (BitVec 32)) : Nat := match x with | some _ => 8 | none => 4

/-- The value that a load of n bytes gives (R280). -/
def loaded (n : Nat) (sx : Bool) (bs : List Byte) : Int :=
  if sx = true ∧ 2 ^ (8 * n) ≤ 2 * natOf bs then (natOf bs : Int) - 2 ^ (8 * n) else natOf bs

/-- A program stopped by a fault with the given cause: it keeps its slot, its registers and CPC; the fault
record holds the cause, the address of the command and the command's address or offset (R294, R295). It is
faulted (3), or its fault is yet to be reported, after transfers in flight before it (8, R109). A program of a
COPY record stops so too (R298, R333). -/
structure Stopped (t : State) (e slot : Nat) (p : Prog) (c : CeCause) (faddr : Nat) : Prop where
  at_ : ∃ (q : Prog), t.prog? e slot = some q ∧ (q.st = 3 ∨ (q.st = 8 ∧ p.inFlight = true)) ∧ q.e = p.e ∧ q.d = p.d ∧ q.l = p.l ∧ q.cpc = p.cpc
    ∧ q.frec.extractLsb' 0 16 = BitVec.ofNat 16 (CeCause.code c).1
    ∧ q.frec.extractLsb' 24 8 = BitVec.ofNat 8 (CeCause.code c).2
    ∧ q.frec.extractLsb' 64 64 = p.cpc ∧ q.frec.extractLsb' 192 64 = BitVec.ofNat 64 faddr

/-- A job that the gather units know, that is not held, at an index of their list. -/
structure AtJob (s : State) (idx : Nat) (j : GJob) : Prop where
  job : s.gjobs[idx]? = some j
  accepted : j.accepted = true
  free : j.held = false
  on : s.gOn j = true

/-- The wave's core has room for a job: a gather unit of its die and a footprint entry (R224). -/
def jobRoom (s : State) (c u b : Nat) (sctr : Bool) : Prop :=
  s.freeUnit (coreDie c) = some u ∧ s.fpRoom c (gRanges b sctr) = true

/-- The barrier that an `XFER` block counts on: none with NC (bit 14), else BAR, or the default barrier for
0xFFFFFFFF (R283). -/
def blockBar (b : Nat) (dbar : W32) : Option Nat :=
  if b.testBit 14 then none
  else some (if b / 2 ^ 704 % 2 ^ 32 = 0xFFFFFFFF then dbar.toNat else b / 2 ^ 704 % 2 ^ 32)

/-- A transfer as its `XFER` starts it. -/
def startedXfer (s : State) (p : Prog) (b : Nat) (todo : List XSector) : Xfer where
  block := BitVec.ofNat 1024 b
  src := p.d.getD (b % 8) 0
  dst := p.d.getD (b / 2 ^ 4 % 8) 0
  bar := blockBar b p.dbar
  cpc := p.cpc
  word := s.insn.1.extractLsb' 0 32
  todo := todo
  packed := none
  faulted := false
  culprit := false
  told := false
  busy := []

/-- The program with a transfer started, if it has a sector to write. -/
def starting (s : State) (p : Prog) (b : Nat) (todo : List XSector) : Prog :=
  { p with xfers := if todo = [] then p.xfers else p.xfers ++ [startedXfer s p b todo] }

/-- The state once a sector of transfer i of a program is performed: the sector has left the transfer, and the
barrier that the transfer counts on has one count-down more (R288). -/
def sectorDone (s1 : State) (e slot i n : Nat) (p : Prog) (x : Xfer) (q : XSector)
    (pk : Option (List (Bool × Nat × Byte × Byte))) : State :=
  let left := x.todo.eraseIdx n
  let s2 := s1.setProg e slot { p with
    xfers := if left = [] then p.xfers.eraseIdx i
             else p.xfers.set i { x with todo := left, packed := pk, busy := s1.xBusy e p x q left } }
  let s3 := match x.bar, p.owner.gang with
    | some bar, some g => s2.modBar g bar true (fun y => y.count (x.block.toNat.testBit 13))
    | _, _ => s2
  if p.st = 3 ∨ p.st = 8 then s3.ceSettle e slot else s3

/-- A transfer of whole bytes within scratch, over one dimension, neither indirect, converted, scaled nor
compressed. -/
structure PlainXfer (x : Xfer) (t d : TDesc) : Prop where
  src : t = TDesc.ofNat x.src.toNat
  dst : d = TDesc.ofNat x.dst.toNat
  rank : t.rank = 1 ∧ d.rank = 1
  ind : t.ind = 0 ∧ d.ind = 0
  fmt : t.fmt = d.fmt ∧ t.fmt ≠ 0 ∧ t.fmt ≤ 12
  scratch : xSSP x.block.toNat = true ∧ xDSP x.block.toNat = true
  plain : xCMPB x.block.toNat = false ∧ xSC x.block.toNat = false ∧ xTR x.block.toNat = false

/-- Where box element j lies in the destination of a plain transfer, and where its source coordinate: inside,
or the nearest edge for EDGE = 2 (R285). -/
def plainDst (x : Xfer) (d : TDesc) (j : Nat) : Nat :=
  d.base + (xDorg x.block.toNat 0 + j) * (d.bits / 8)
def plainCoord (x : Xfer) (j : Nat) : Int := xSorg x.block.toNat 0 + j
def plainFrom (x : Xfer) (t : TDesc) (j : Nat) : Option Nat :=
  let c := plainCoord x j
  if 0 ≤ c ∧ c < t.extent 0 then some (t.base + c.toNat * (t.bits / 8))
  else if xEDGE x.block.toNat = 2 ∧ t.extent 0 ≠ 0 then
    some (t.base + (max 0 (min c (t.extent 0 - 1))).toNat * (t.bits / 8))
  else none

/-- The position and the sector of the row that a job reaches next, and the rows it keeps: none at the start of
a run of 4,096 positions (R225). -/
def jobPos (j : GJob) : Nat := j.next / gSecs j.block.toNat
def jobSec (j : GJob) : Nat := j.next % gSecs j.block.toNat
def jobRows (j : GJob) : Map (List Byte) := if jobPos j % 4096 = 0 ∧ jobSec j = 0 then [] else j.rows

/-- The row number of the job's position is i: read at the position's first sector, kept after it. -/
def rowIs (s : State) (j : GJob) (s1 : State) (i : Nat) : Prop :=
  let b := j.block.toNat
  let o := s.jobObs j.owner (coreDie j.core)
  if jobSec j = 0 then ∃ bs, i = natOf bs ∧
    s.readG o .engine false ((gIndex b + jobPos j * gWidth b) % 2 ^ 64) (gWidth b) = (s1, .ok bs)
  else s1 = s ∧ i = j.index

/-- The job after its sector: gone after the last of COUNT × (SECS + 1), else with its progress. -/
def jobAfter (t u : State) (idx : Nat) (j j1 : GJob) : Prop :=
  t.gjobs = if j.next + 1 = gCount j.block.toNat * gSecs j.block.toNat then u.gjobs.eraseIdx idx
            else u.gjobs.set idx j1

/-- The barrier that a job of the gang counts on has one count-down more: IN for a gather, OUT for a scatter,
here with more to come. -/
def jobCounts (u t : State) (j : GJob) : Prop :=
  ∀ gn g, j.owner.gang = some gn → u.gangs.find gn = some g → gBar j.block.toNat ≠ 0xFFFFFFFF →
    g.barOk (gBar j.block.toNat) = true →
    let b := g.bar (gBar j.block.toNat)
    1 < (if j.sctr then b.out else b.inn) → ∃ (g' : Gang), t.gangs.find gn = some g'
      ∧ (if j.sctr then (g'.bar (gBar j.block.toNat)).out else (g'.bar (gBar j.block.toNat)).inn)
        = (if j.sctr then b.out else b.inn) - 1

end Sys2Proof.Claims
namespace Sys2Proof.Claims

open Sys2Proof Sys2Proof.Machine

/-! ### The matrix array, cursors, volumes, Filigree -/

def matOps : List (WOp → Instr) := [.mldb, .mma, .mst, .mz]

/-- The keys of a map rise. -/
def rising {α : Type} (m : Map α) : Prop := (m.map (·.1)).Pairwise (· < ·)

/-- ILLEGAL (cause 2) with DETAIL 8, naming the 8-bit operand field from bit lo (R137). -/
def illegalAt (s : State) (k : Nat) (w : Wave) (lo : Nat) : State :=
  takeTrap s k w (trapRec w 2 8 0 s.insn.1 s.insn.2 0 (BitVec.ofNat 64 (lo + (lo + 7) * 256)))

/-- The cores of a matrix instruction: its own, and with `.pair` the next one (R236). -/
def matPlaces (o : WOp) (k : Nat) : List Nat :=
  if o.m.getLsbD 0 then [slotCore k, slotCore k + 1] else [slotCore k]

/-- The matrix instruction as it joins the order of its core's array. -/
def matJob (i : Instr) (o : WOp) (k : Nat) (w : Wave) (blk : Nat) : MatJob where
  wave := k
  gang := w.gang
  op := i
  ga := w.greg o.a.toNat
  gb := w.greg o.b.toNat
  gc := w.greg o.c.toNat
  blk := BitVec.ofNat 256 blk

/-- The wave claims cores. -/
def claimAll (s : State) (k : Nat) (cs : List Nat) : State :=
  cs.foldl (fun (x : State) c => x.modCore c (fun y => { y with claim := some k })) s

/-- A matrix instruction is the oldest of its core, its islands are on, its Facets awake, and its cluster may
start it (R237, R238, R399). -/
structure AtArray (s : State) (c : Nat) (j : MatJob) (rest : List MatJob) (o : WOp) (i : Instr) : Prop where
  head : (s.core c).matq = j :: rest
  op : j.op = i
  here : slotCore j.wave = c
  on : s.islandOn (arrayIsland c) = true
  awake : (s.core c).fgated = false
  token : s.chainOk c = true
  pairOn : o.m.getLsbD 0 = true → s.islandOn (arrayIsland (c + 1)) = true
  pairAwake : o.m.getLsbD 0 = true → (s.core (c + 1)).fgated = false

/-- Element kk of a row of elements of a format from an offset on in a gang's scratch, two INT4S elements to
a byte (R53). -/
def codeAt (s : State) (gn off fmt kk : Nat) : Nat :=
  natOf (s.scr gn (off + kk * fmtW fmt / 8) ((fmtW fmt + 7) / 8)) / 2 ^ (kk * fmtW fmt % 8) % 2 ^ fmtW fmt

/-- A scale exponent as a table holds it: −128 counts as 0 (R66). -/
def scaleAt (s : State) (gn off : Nat) : Int :=
  let x := codeAt s gn off 1 0
  if x = 128 then 0 else if x < 128 then (x : Int) else (x : Int) - 256

/-- The key of element (i, n) of the tile that an instruction names. -/
def zAt (o : WOp) (i n : Nat) : Nat := o.d.toNat % 2 * 32768 + i * 512 + n

/-- The exponent of a one-limb block's limbs: E − 7, or 0 for integers (R68). -/
def limbAt (fmt : Nat) (col : PanelCol) : Int := if fmt ≤ 2 then 0 else nth col.exps 0 0 - 7

/-- Element (i, kk) of A as `MMA` reads it (R233): the integer value of its code, 0 under a clear mask bit. -/
def aElem (s : State) (gn : Nat) (o : WOp) (j : MatJob) (i kk : Nat) : Int :=
  let fmt := fld j.blk.toNat 0 4
  let off := j.ga.toNat % 2 ^ 32 + i * fld j.gc.toNat 0 32
  if matReads o i (kk / 32) then
    (intVal fmt (nth (elemCodes fmt (s.scr gn off (fmtBytes fmt 128))) kk 0)).1 else 0

/-- Element kk of a column of an integer panel. -/
def bElem (col : PanelCol) (kk : Nat) : Int := nth (nth col.limbs kk []) 0 0

/-- DADDR of a cursor operand. -/
def daddr (w : Wave) (c : Machine.Cell) (r : Nat) : Nat := w.curAt c r / 2 ^ 6 % 2 ^ 42

/-- Every cursor that an operand names is null (R240), and passes the checks of R242. -/
def nullCur (w : Wave) (o : WOp) (r f : Nat) (addr union : Bool) : Prop :=
  (∀ c ∈ w.cells o, daddr w c r = 0) ∧ w.curCheck (w.cells o) [(r, f)] false addr union = none

/-- The lanes of a vector form that acts, or of a wave form whose guard holds. -/
def actsOn (w : Wave) (o : WOp) (l : Nat) : Prop :=
  l ∈ w.active o.guard ∧ (o.grp = true → w.guardGrp o.guard = true)

/-- The wave form acts. -/
def actsGrp (w : Wave) (o : WOp) : Prop := o.grp = true ∧ w.guardGrp o.guard = true

/-- A walker operation, as the first of an instruction or after another, gives a value. -/
def walksFrom {α : Type} (m : Walk α) (x : WSt) (a : α) (y : WSt) : Prop := m.run x = .ok (a, y)

/-- The bits of an ordinary cursor (R239). -/
def curBits (kind : Nat) (done : Bool) (desc pos fin : Nat) : W128 :=
  BitVec.ofNat 128 (kind + (if done then 8 else 0) + desc / 64 % 2 ^ 42 * 2 ^ 6 + pos * 2 ^ 48 + fin * 2 ^ 88)

/-- The wave with a cursor that it has opened in C[r], the descriptor that the walker read (R90), and the
position at which its fibre begins (log 42). -/
def opened (w : Wave) (r : Nat) (l : Lvl) (x : W128) (pos : Nat) : Wave :=
  { w.setC r x with sys := { w.sys with
      levels := w.sys.levels.put r (BitVec.ofNat 512 l.bits), starts := w.sys.starts.put r pos } }

/-- Does the zero test z of `APP.PUT` drop a value (R255)? -/
def dropsZero (z v : Nat) : Prop :=
  (z = 1 ∧ v % 2 ^ 32 = 0) ∨ (z = 2 ∧ v = 0) ∨ (z = 3 ∧ v % 2 ^ 31 = 0) ∨ (z = 4 ∧ v % 2 ^ 63 = 0)
    ∨ ((z = 5 ∨ z = 6) ∧ v % 2 ^ 15 = 0)

/-- The result of a co-iteration as an octet: coordinate, the two entry positions, presence (R252). -/
def result8 (x a b pres : Nat) : Nat := x + a * 2 ^ 64 + b * 2 ^ 128 + pres * 2 ^ 192

/-- The coordinate of a cursor on a DENSE level, and the entry position of a coordinate there (R244). -/
def denseAt (l : Lvl) (c : Cur) : Nat := c.pos + l.dim - c.fin
def densePos (l : Lvl) (c : Cur) (x : Nat) : Nat := c.fin - l.dim + x

/-- A cursor on a DENSE level, within its fibre. -/
structure DenseSide (l : Lvl) (c : Cur) : Prop where
  kind : l.kind = 0
  open_ : c.done = false
  low : c.fin ≤ c.pos + l.dim
  dim : l.dim ≤ c.fin
  high : c.pos < c.fin
  fits : c.fin < 2 ^ 40

/-! ### The entries of a level (R244-R250), as the walker's reads give them -/

/-- Numbers that the walker reads one after another, each from its address at its width. -/
def nums (u : Walker) (rs : List (Nat × Nat)) : Walk (List Nat) := rs.mapM (fun p => u.num p.1 p.2)

/-- A cursor at a new position, done when that reaches its bound (R244). -/
def movedTo (c : Cur) (bound n : Nat) : Cur :=
  if bound ≤ n then { c with pos := bound, done := true } else { c with pos := n }

/-- The check of an entry of index i against the one before it (R247), where `back` asks for it and the fibre has
one; `low` says what that one's reads give. -/
def prior (l : Lvl) (i : Nat) (back : Bool) (x y : WSt) (low : Prop) : Prop :=
  let first := back = false ∨ ∃ a, l.start = some a ∧ i ≤ a
  (first ∧ y = x) ∨ (¬ first ∧ l.start ≠ none ∧ low)

/-- Slot e of a CCH level lies at address a, by the chunks from one at `ch`, of which n may still be read; its
BASE is to be `want` (R246). -/
def slotIn (u : Walker) (e : Nat) : Nat → Nat → Option Nat → WSt → Nat → WSt → Prop
  | 0, _, _, _, _, _ => False
  | n + 1, ch, want, x, a, y => ch ≠ 0 ∧ ∃ bs x1, walksFrom (u.read 4 ch 20) x bs x1 ∧
    let h := natOf bs
    let base := h / 2 ^ 64 % 2 ^ 40
    let used := h / 2 ^ 128 % 2 ^ 32
    used ≤ 252 ∧ (∀ b, want = some b → b = base)
      ∧ (if base ≤ e ∧ e < base + used then a = ch + 64 + 16 * (e - base) ∧ y = x1
        else slotIn u e n (h % 2 ^ 64) (some (base + used)) x1 a y)

/-- Run r of an RLE level: its start and its length, and that the run before it ends at or below it. -/
def runIs (u : Walker) (l : Lvl) (r : Nat) (back : Bool) (x : WSt) (st n : Nat) (y : WSt) : Prop :=
  ∃ x1, walksFrom (nums u [(l.a1 + r * l.cw, l.cw), (l.a2 + r * l.cw, l.cw)]) x [st, n] x1 ∧ 1 ≤ n ∧ n ≤ 65536
    ∧ prior l r back x1 y (∃ st0 n0, walksFrom (nums u [(l.a1 + (r - 1) * l.cw, l.cw),
        (l.a2 + (r - 1) * l.cw, l.cw)]) x1 [st0, n0] y ∧ 1 ≤ n0 ∧ n0 ≤ 65536 ∧ st0 + n0 ≤ st)

/-- The coordinate of the entry at POS is v, below DIM (R244-R246). -/
def coordIs (u : Walker) (l : Lvl) (c : Cur) (back : Bool) (x : WSt) (v : Nat) (y : WSt) : Prop :=
  v < l.dim ∧ v < 2 ^ 40 ∧ match l.kind with
  | 0 => v = denseAt l c ∧ c.fin ≤ c.pos + l.dim ∧ y = x
  | 1 => ∃ x1, walksFrom (nums u [(l.a1 + c.pos * l.cw, l.cw)]) x [v] x1
    ∧ prior l c.pos back x1 y (∃ v0, walksFrom (nums u [(l.a1 + (c.pos - 1) * l.cw, l.cw)]) x1 [v0] y ∧ v0 < v)
  | 2 => v = denseAt l c ∧ c.fin ≤ c.pos + l.dim ∧ y = x
  | 3 => ∃ q, walksFrom (nums u [(l.a1 + 16 * c.pos, 16)]) x [q] y ∧ v = q / 2 ^ 40 % 2 ^ 40
  | 4 => ∃ st n, runIs u l (c.pos / 2 ^ 16) back x st n y ∧ v = st + c.pos % 2 ^ 16
  | 5 => ∃ b x1, walksFrom (nums u [(l.a1 + c.pos / 2 ^ l.blk * l.cw, l.cw)]) x [b] x1
    ∧ v = b * 2 ^ l.blk + c.pos % 2 ^ l.blk
    ∧ prior l (c.pos / 2 ^ l.blk) back x1 y (∃ b0,
        walksFrom (nums u [(l.a1 + (c.pos / 2 ^ l.blk - 1) * l.cw, l.cw)]) x1 [b0] y ∧ b0 < b)
  | _ => ∃ a x1 x2, slotIn u c.pos (l.count + 1) l.a1 none x a x1 ∧ walksFrom (nums u [(a, 8)]) x1 [v] x2
    ∧ prior l c.pos back x2 y (∃ a0 v0 x3, slotIn u (c.pos - 1) (l.count + 1) l.a1 none x2 a0 x3
        ∧ walksFrom (nums u [(a0, 8)]) x3 [v0] y ∧ v0 < v)

/-- The entry position of the entry at POS is e, or with `.addr` the address of its slot's value. -/
def placeIs (u : Walker) (l : Lvl) (c : Cur) (addr : Bool) (x : WSt) (e : Nat) (y : WSt) : Prop :=
  match l.kind with
  | 2 => ∃ pre q, walksFrom (nums u [(l.a1 + c.pos / 64 * l.pw, l.pw), (l.a0 + 8 * (c.pos / 64), 8)]) x [pre, q] y
    ∧ e = pre + ((List.range (c.pos % 64)).filter q.testBit).length
  | 4 => e = c.pos / 2 ^ 16 ∧ y = x
  | 6 => if addr then ∃ a, slotIn u c.pos (l.count + 1) l.a1 none x a y ∧ e = a + 8 else e = c.pos ∧ y = x
  | _ => e = c.pos ∧ y = x

/-- The first set bit of a BMP level at or after i is j, or j is the bound; at most n words are read. -/
def bitIs (u : Walker) (l : Lvl) (fin : Nat) : Nat → Nat → WSt → Nat → WSt → Prop
  | 0, _, _, _, _ => False
  | n + 1, i, x, j, y => (fin ≤ i ∧ j = fin ∧ y = x)
    ∨ (i < fin ∧ ∃ q x1, walksFrom (nums u [(l.a0 + 8 * (i / 64), 8)]) x [q] x1
      ∧ ((∃ b, i % 64 ≤ b ∧ b < 64 ∧ q.testBit b = true ∧ (∀ b', i % 64 ≤ b' → b' < b → q.testBit b' = false)
          ∧ j = min (i / 64 * 64 + b) fin ∧ y = x1)
        ∨ ((∀ b, i % 64 ≤ b → b < 64 → q.testBit b = false) ∧ bitIs u l fin n (i / 64 * 64 + 64) x1 j y)))

/-- The first HSH entry from index i with PARENT = p is j, or j is COUNT. -/
def childIs (u : Walker) (l : Lvl) (p : Nat) : Nat → Nat → WSt → Nat → WSt → Prop
  | 0, _, _, _, _ => False
  | n + 1, i, x, j, y => (l.count ≤ i ∧ j = l.count ∧ y = x)
    ∨ (i < l.count ∧ ∃ q x1, walksFrom (nums u [(l.a1 + 16 * i, 16)]) x [q] x1 ∧ q / 2 ^ 40 % 2 ^ 40 < l.dim
      ∧ ((q % 2 ^ 40 = p ∧ j = i ∧ y = x1) ∨ (q % 2 ^ 40 ≠ p ∧ childIs u l p n (i + 1) x1 j y)))

/-- The fibre of parent position p: its first position, and END (R244). -/
def fibreIs (u : Walker) (l : Lvl) (p : Nat) (x : WSt) (pos fin : Nat) (y : WSt) : Prop :=
  let per := if l.kind = 4 then 2 ^ 16 else if l.kind = 5 then 2 ^ l.blk else 1
  match l.kind with
  | 0 => pos = p * l.dim ∧ fin = (p + 1) * l.dim ∧ y = x
  | 2 => fin = 64 * ((l.dim + 63) / 64) * p + l.dim
    ∧ ∃ n, bitIs u l fin n (64 * ((l.dim + 63) / 64) * p) x pos y
  | 3 => fin = p ∧ ∃ n, childIs u l p n 0 x pos y
  | _ => ∃ a b, walksFrom (nums u [(l.a0 + p * l.pw, l.pw), (l.a0 + (p + 1) * l.pw, l.pw)]) x [a, b] y ∧ a ≤ b
    ∧ (l.kind = 4 → b ≤ 2 ^ 24) ∧ pos = a * per ∧ fin = b * per

/-- The cursor after the entry at POS (R244). -/
def stepIs (u : Walker) (l : Lvl) (c : Cur) (x : WSt) (d : Cur) (y : WSt) : Prop :=
  match l.kind with
  | 2 => ∃ n j, bitIs u l c.fin n (c.pos + 1) x j y ∧ d = movedTo c c.fin j
  | 3 => ∃ n j, childIs u l c.fin n (c.pos + 1) x j y ∧ d = movedTo c l.count j
  | 4 => ∃ st n, runIs u l (c.pos / 2 ^ 16) true x st n y
    ∧ d = movedTo c c.fin (if c.pos % 2 ^ 16 + 1 = n then (c.pos / 2 ^ 16 + 1) * 2 ^ 16 else c.pos + 1)
  | _ => y = x ∧ d = movedTo c c.fin (c.pos + 1)

/-- The entries that lanes are given, in turn, from a cursor (R249): coordinate and entry position, or none for a
cursor that is done. -/
def deliveredTo (u : Walker) (l : Lvl) (addr : Bool) :
    List Nat → Cur → WSt → List (Option (Nat × Nat)) → Cur → WSt → Prop
  | [], c, x, vs, d, y => vs = [] ∧ d = c ∧ y = x
  | _ :: t, c, x, vs, d, y =>
    (c.done = true ∧ ∃ rest, vs = none :: rest ∧ deliveredTo u l addr t c x rest d y)
    ∨ (c.done = false ∧ ∃ v e c1 x1 x2 x3 rest, coordIs u l c true x v x1 ∧ placeIs u l c addr x1 e x2
      ∧ stepIs u l c x2 c1 x3 ∧ vs = some (v, e) :: rest ∧ deliveredTo u l addr t c1 x3 rest d y)

/-- Past an entry whose coordinate v is below t: within its run or block to t, or to the run, block or entry after
it. -/
def passIs (u : Walker) (l : Lvl) (c : Cur) (v t : Nat) (x : WSt) (d : Cur) (y : WSt) : Prop :=
  match l.kind with
  | 4 => ∃ st n, runIs u l (c.pos / 2 ^ 16) true x st n y
    ∧ d = movedTo c c.fin (if t < st + n then c.pos + (t - v) else (c.pos / 2 ^ 16 + 1) * 2 ^ 16)
  | 5 => y = x ∧ d = movedTo c c.fin (if c.pos % 2 ^ l.blk + (t - v) < 2 ^ l.blk then c.pos + (t - v)
      else (c.pos / 2 ^ l.blk + 1) * 2 ^ l.blk)
  | _ => stepIs u l c x d y

/-- The first entry of CMP, RLE, BLK or CCH from POS on whose coordinate is t or more: the cursor there, or at its
bound, and whether the coordinate is t. -/
def seekIs (u : Walker) (l : Lvl) (t : Nat) : Nat → Cur → WSt → Cur → Bool → WSt → Prop
  | 0, _, _, _, _, _ => False
  | n + 1, c, x, d, f, y => ∃ v x1, coordIs u l c true x v x1
    ∧ ((t ≤ v ∧ d = c ∧ f = decide (v = t) ∧ y = x1)
      ∨ (v < t ∧ ∃ c1 x2, passIs u l c v t x1 c1 x2
        ∧ ((c1.done = true ∧ d = c1 ∧ f = false ∧ y = x2)
          ∨ (c1.done = false ∧ seekIs u l t n c1 x2 d f y))))

/-- The bucket of a parent position and a coordinate (R245). -/
def bucketOf (hb p t : Nat) : Nat :=
  if hb = 0 then 0 else (p * 2 ^ 40 + t) % 2 ^ 64 * 0x9E3779B97F4A7C15 % 2 ^ 64 / 2 ^ (64 - hb)

/-- The chain of a bucket from index i holds the entry of (p, t) at the index that r gives, or none (R245); at
most n entries are read. -/
def chainIs (u : Walker) (l : Lvl) (p t : Nat) : Nat → Nat → WSt → Option Nat → WSt → Prop
  | 0, _, _, _, _ => False
  | n + 1, i, x, r, y => i < l.count ∧ ∃ q x1, walksFrom (nums u [(l.a1 + 16 * i, 16)]) x [q] x1
    ∧ q / 2 ^ 40 % 2 ^ 40 < l.dim
    ∧ ((q % 2 ^ 80 = p + t * 2 ^ 40 ∧ r = some i ∧ y = x1)
      ∨ (q % 2 ^ 80 ≠ p + t * 2 ^ 40 ∧ q / 2 ^ 80 % 2 ^ 40 = 2 ^ 40 - 1 ∧ r = none ∧ y = x1)
      ∨ (q % 2 ^ 80 ≠ p + t * 2 ^ 40 ∧ q / 2 ^ 80 % 2 ^ 40 ≠ 2 ^ 40 - 1
        ∧ chainIs u l p t n (q / 2 ^ 80 % 2 ^ 40) x1 r y))

/-- The Filigree instructions, with FN and the alignment of G[A] (R264). -/
def fgOps : List ((WOp → Instr) × Nat × Nat) :=
  [(.fgCfg, 0, 1), (.fgLoad, 1, 128), (.fgSeed, 2, 1), (.fgClamp, 3, 1), (.fgFree, 4, 1),
   (.fgSweep, 5, 1), (.fgRead, 6, 8), (.fgCnt, 7, 2)]

/-- The steps of the array that execute a command, with its FN. -/
def filOps : List ((Nat → Instr) × Nat) :=
  [(.filExecCfg, 0), (.filExecLoad, 1), (.filExecSeed, 2), (.filExecClamp, 3), (.filExecFree, 4),
   (.filSweepColour, 5), (.filExecRead, 6), (.filExecCnt, 7)]

/-- The command c stands at the head of a die's list, not executed, its gang not about to be pre-empted. -/
structure AtFil (s : State) (die fn : Nat) (c : FgCmd) (rest : List FgCmd) : Prop where
  head : (s.die die).fil.cmds = c :: rest
  fnIs : c.fn = fn
  open_ : c.status = none
  goes : s.fgStopping c = false
  on : s.fgOn die c = true

/-- The die's Filigree becomes f. -/
def filIs (s : State) (die : Nat) (f : Filigree) : State := s.setDie die { s.die die with fil := f }

/-- The array of f, with the head command completed. -/
def filDone (f : Filigree) (c : FgCmd) (rest : List FgCmd) (st detail : Nat) : Filigree :=
  { f with cmds := { c with status := some (st, detail) } :: rest }

end Sys2Proof.Claims
namespace Sys2Proof.Claims

open Sys2Proof Sys2Proof.Machine

/-! ### System registers, handlers, queues of the host -/

/-- The trap of a failed entry check of `SYSRD` or `SYSWR` (R317): ILLEGAL (2) or UNIMPL (1), DETAIL 8, naming
the operand field from bit lo. -/
def entryTrap (s : State) (k : Nat) (w : Wave) (unimpl : Bool) (lo : Nat) : State :=
  takeTrap s k w (trapRec w (if unimpl then 1 else 2) 8 0 s.insn.1 s.insn.2 0
    (BitVec.ofNat 64 (lo + (lo + 7) * 256)))

/-- The number of the base register that a `SYSRD` or `SYSWR` names. -/
def srnBase (o : WOp) : Nat := o.c.toNat + o.m.toNat % 16 * 256

/-- The wave as a return from the trap handler to t leaves it (R362). -/
def returned (w : Wave) (t : W64) : Wave :=
  let priv := w.sys.trec.getLsbD 25
  { w with
    pc := t
    exm := w.exm &&& w.live &&& (if priv then w.park else ~~~w.park)
    sys := { w.sys with sup := priv, inTrap := false, bpSupp := true } }

/-- The PC that the fault record of a parked lane holds (R31, R37). -/
def recPc (w : Wave) (l : Nat) : Nat := (w.sys.frec.getD l 0).toNat % 2 ^ 64

/-- start-next-replay (R37) takes w to w': of the lanes of RPL, those at the lowest recorded PC run there and
the others stay in RPL; with none left, the entry on top of the stack is popped, and its lanes that are
live and not parked go on at STOP. -/
structure nextReplay (w w' : Wave) : Prop where
  group : ∀ l0 < w.width, w.rpl.getLsbD l0 = true →
    (∀ l < w.width, w.rpl.getLsbD l = true → recPc w l0 ≤ recPc w l) →
    w' = { w with pc := BitVec.ofNat 64 (recPc w l0), rpl := w'.rpl, exm := w'.exm }
    ∧ ∀ l < w.width,
      (w'.rpl.getLsbD l = true ↔ w.rpl.getLsbD l = true ∧ recPc w l ≠ recPc w l0)
      ∧ (w'.exm.getLsbD l = true ↔ w.rpl.getLsbD l = true ∧ recPc w l = recPc w l0
        ∧ w.live.getLsbD l = true ∧ w.park.getLsbD l = false)
  rejoin : ∀ e t, (∀ l < w.width, w.rpl.getLsbD l = false) → w.stack = e :: t →
    w' = { w with stack := t, pc := w.stop, exm := e.mask &&& (w.live &&& ~~~w.park) &&& w.wmask }

/-- The wave that `RTT` in the lane handler hands to start-next-replay (R36). -/
def toReplay (w : Wave) : Wave :=
  let ended := w.park &&& ~~~(w.exm &&& w.park)
  { w with
    live := w.live &&& ~~~ended
    stack := w.stack.map (fun e => { e with mask := e.mask &&& ~~~ended })
    park := 0
    rpl := w.exm &&& w.park
    stop := w.hretPc
    sys := { w.sys with sup := false, inLane := false } }

/-- The wave as it enters the lane handler at h (R35). -/
def inHandler (w : Wave) (h : W64) : Wave :=
  { w with
    stack := ⟨w.exm ||| w.park, pcw w.pc, 2⟩ :: w.stack
    hretPc := w.pc
    hretExm := w.exm
    exm := w.park
    pc := h
    sys := { w.sys with sup := true, inLane := true, hdepth := w.stack.length + 1 } }

/-- A replay is in progress: an RJOIN entry is on the stack (R37). -/
def replaying (w : Wave) : Prop := ∃ e ∈ w.stack, e.kind = 2

/-- No TLB entry of the partition's dies, nor a last-page register of the context's waves there, translates an
address that was to be forgotten (R350). -/
structure forgotten (t : State) (dies : List Nat) (ctx : Nat) (va : Option Nat) : Prop where
  core : ∀ c, coreDie c ∈ dies → ∀ e : Nat × PageEnt, e ∈ (t.core c).tlb → e.2.hit ctx va = false
  die : ∀ d ∈ dies, ∀ e : Nat × PageEnt, e ∈ (t.die d).tlb → e.2.hit ctx va = false
  lastPage : ∀ p ∈ t.waves, coreDie (slotCore p.1) ∈ dies → t.ctxOf p.2 = ctx → p.2.sys.lastPage = []
  pointers : ∀ e ∈ t.walkc, pointerStays dies ctx e.1 = true

/-- Bytes p to p + n − 1 of HBM are zero, and no cache holds a copy of them. -/
structure zeroed (z : State) (p n : Nat) : Prop where
  mem : ∀ a, hbmAt p ≤ a → a < hbmAt p + n → memGet z.mem a = 0
  core : ∀ c q, p ≤ 16 * q → 16 * q < p + n → (z.core c).l1.find q = none ∧ (z.core c).wcb.find q = none
    ∧ (z.core c).ccache.find q = none
  words : ∀ c q, p ≤ 8 * q → 8 * q < p + n → (z.core c).icache.find q = none ∧ (z.core c).mcache.find q = none
  die : ∀ d q, p ≤ 16 * q → 16 * q < p + n → (z.die d).remote.find q = none ∧ (z.die d).ddr.find q = none
    ∧ (z.die d).victim.find q = none

/-- The leaf that a mapped POOL entry becomes (R355): V set, POOL, A and D clear, ADDR the page at p, and the
rest as it was. -/
def mappedLeaf (e p leaf : Nat) : Prop :=
  leaf < 2 ^ 64 ∧ ∀ j < 64, leaf.testBit j = if j = 0 then true
    else if 12 ≤ j ∧ j ≤ 14 then false else if 16 ≤ j ∧ j ≤ 51 then p.testBit j else e.testBit j

/-- A record of a kind that the front end of an I/O die reads next, from a host queue, with the islands that it
needs performing (R399). -/
structure NextRecord (s : State) (io kind : Nat) (c : Cand) (x : Queue) : Prop where
  chosen : s.feChoose io = some c
  kindIs : c.kind = kind
  host : c.child = false
  queue : s.queue? c.ctx c.q = some x
  on : s.feOn io c = true

/-- The state in which the front end has taken the record: HEAD has advanced, in the queue and in its
descriptor (R327). -/
def taken (s : State) (io : Nat) (c : Cand) (x : Queue) : State :=
  let s1 : State := { s with pkg := { s.pkg with feHost := s.pkg.feHost.put io c.key } }
  let s2 := (s1.physSeen x.recordAt 128).modQueue c.ctx c.q (fun y => { y with head := y.head + 1 })
  s2.physPut (dieMask (s2.devDies c.ctx c.dev)) (x.daddr + 20) 4 (x.head + 1).toNat

/-- A launch lies under a level: every launch under level 0, itself or a launch that it descends from (1), its
graph (2), its phase (3), its job (4) (R343). -/
def covered (e : Entry) (level target : Nat) : Prop :=
  level = 0 ∨ (level = 1 ∧ (e.id = target ∨ target ∈ e.parents)) ∨ (level = 2 ∧ e.graph = target)
    ∨ (level = 3 ∧ e.phase = target) ∨ (4 ≤ level ∧ e.job = target)

/-- A 64-byte aligned descriptor lies in HBM. -/
def descAt (s : State) (a : Nat) : Prop := a % 64 = 0 ∧ ∃ ds, s.paKind a = .hbm ds

/-- The queue of a context at its number. -/
def queueIs (s : State) (ctx q : Nat) (x : Queue) : Prop := s.queue? ctx q = some x

/-- The state with CTXSTAT.RESULT answering n (R320). -/
def answers (s : State) (n : Nat) : State := { s with pkg := { s.pkg with ctxResult := BitVec.ofNat 4 n } }

end Sys2Proof.Claims
namespace Sys2Proof.Claims

open Sys2Proof Sys2Proof.Machine

/-! ### Clasp, contexts, the host, power -/

/-- The entry of an order stands in Clasp's windows. -/
def hasEntry (s : State) (order : Nat) (e : Entry) : Prop :=
  s.entries.find? (fun x => x.order = order) = some e

/-- Level i of a context is a part of level t, directly or through the levels between: a launch of a graph, a
graph of a phase, a phase of a job (R331). -/
def childOf (c : Ctx) (i t : Nat) : Prop := t ≠ 0 ∧ ∃ l, c.levels.find i = some l ∧ l.parent = t
def belongsTo (c : Ctx) (i t : Nat) : Prop :=
  i = t ∨ childOf c i t ∨ (∃ j, childOf c i j ∧ childOf c j t)
    ∨ ∃ j n, childOf c i j ∧ childOf c j n ∧ childOf c n t

/-- A program of a context that ran under a hold, and runs. -/
def letGo (p : Prog) : Prog := { p with st := 1 }

/-- An event record's 128 bytes (R374): the fields that its kind has, and the payload with zeros after it. -/
structure eventRecord (e : Event) (bs : List Byte) : Prop where
  length : bs.length = 128
  kind : bs.getD 0 0 = BitVec.ofNat 8 e.kind
  token : e.kind = 1 → natOf ((bs.drop 4).take 4) = e.token % 2 ^ 32
  launch : e.kind = 1 ∨ e.kind = 2 ∨ e.kind = 3 → natOf ((bs.drop 8).take 8) = e.launch % 2 ^ 64
    ∧ natOf ((bs.drop 16).take 4) = e.gangId % 2 ^ 32 ∧ bs.getD 20 0 = BitVec.ofNat 8 e.gangWg
  slot : e.kind = 1 → bs.getD 21 0 = BitVec.ofNat 8 e.slot
  payload : ∀ i < 96, bs.getD (32 + i) 0 = e.payload.getD i 0

/-- A register record of n bits with its 64-bit word j written: the bits of its fields are those written, its
reserved bits zero (R6, R384-R386). -/
def wordWritten {n : Nat} (field : Nat → Prop) (old new : BitVec n) (j : Nat) (v : BitVec 64) : Prop :=
  ∀ b < n, new.getLsbD b = true ↔ field b ∧ (if b / 64 = j then v.getLsbD (b % 64) else old.getLsbD b) = true

/-- The fields of the records of R384-R386: outbound windows, inbound windows, ports, queue pairs. -/
def peerField (b : Nat) : Prop := b < 13 ∨ (32 ≤ b ∧ b < 173)
def inboundField (b : Nat) : Prop := b < 4 ∨ (32 ≤ b ∧ b < 192)
def portField (b : Nat) : Prop := b < 48 ∨ (64 ≤ b ∧ b < 192)
def qpField (b : Nat) : Prop := b < 7 ∨ (8 ≤ b ∧ b < 56) ∨ (64 ≤ b ∧ b < 144) ∨ (160 ≤ b ∧ b < 288)

/-- A heap record with the host's value in word j: the two HEADs are the device's (R357). -/
def heapWord (h : Heap) (j : Nat) (v : BitVec 64) : Heap :=
  if j = 0 then { h with ring4 := v } else if j = 1 then { h with ring32 := v }
  else if j = 2 then { h with log4 := v.setWidth 4, log32 := (v >>> 4).setWidth 4 }
  else if j = 3 then { h with tail4 := (v >>> 32).setWidth 32 }
  else if j = 4 then { h with tail32 := (v >>> 32).setWidth 32 } else h

/-- An access of BAR2 of n bytes may come: its function's link is up (R389), it lies within the size set by
Resizable BAR (R378, R381), and the islands on its way perform (R399). -/
structure bar2Comes (s : State) (o : Bar2) (n : Nat) : Prop where
  link : s.hostLink (o.fn % 2) = true
  some_ : n ≠ 0
  size : o.off + n ≤ 2 ^ s.pkg.bar2
  edge : s.islandOn (960 + 32 * (o.fn % 2)) = true
  on : s.hostOn (s.pkg.apBase.toNat + o.off) n = true

/-- A peer's request for n bytes may come: its queue pair connects, through a port of an I/O die that is there
(R384, R389), and the port's island and those on the way of its bytes perform (R399). -/
structure peerComes (s : State) (o : Rdma) (n : Nat) : Prop where
  link : s.qpLink o.qp.toNat = true
  port : s.islandOn (portIsland (s.qpPort o.qp.toNat)) = true
  on : s.hostOn o.pa n = true

/-- The bits of a context record that a CTXCMD names, at a PA. -/
def recordAt (s : State) (pa : Nat) : Nat := natOf (s.physRead 15 pa 64)

/-- A CTXCMD value for a record at a 64-byte aligned PA below 2⁵². -/
def isCmd (op pa : Nat) (val : BitVec 64) : Prop :=
  pa % 64 = 0 ∧ pa < 2 ^ 52 ∧ val.toNat % 4 = op ∧ val.toNat / 64 % 2 ^ 46 = pa / 64

/-- Byte a lies in HBM. -/
def inHBM (s : State) (a : Nat) : Prop := ∃ ds, s.paKind a = .hbm ds

/-- The state with one more answer to the host or a peer. -/
def answered (t s : State) (status : Nat) (data : List Byte) : Prop :=
  t.hostResp = s.hostResp ++ [⟨status, data⟩]

/-- The state with the mailbox's result. -/
def mailbox (s : State) (n : Nat) : State :=
  { s with pkg := { s.pkg with signet := { s.pkg.signet with result := BitVec.ofNat 4 n } } }

end Sys2Proof.Claims
namespace Sys2Proof.Claims

open Sys2Proof Sys2Proof.Machine

/-- A core's cycle counter after an issue slot's cycles have passed. -/
def slotStart (s : State) (x : Slot) : State :=
  s.modCore x.core (fun c => { c with cycle := (s.core x.core).cycle + x.dt })

/-- The issue slot `x` may issue: the islands of its quarter and of its core's base perform (R399), and no
earlier instruction holds it (R46). -/
def slotFree (s : State) (x : Slot) : Prop :=
  (slotStart s x).islandOn (240 * coreDie x.core + 6 * corePhys x.core + x.quarter) = true
  ∧ (slotStart s x).islandOn (240 * coreDie x.core + 6 * corePhys x.core + 5) = true
  ∧ ∀ h, (s.core x.core).slots.find (2 * x.quarter + (if x.vec then 1 else 0)) = some h →
      h.2.2 ≤ (s.core x.core).cycle + x.dt

/-- The wave as it stands when its instruction is fetched. -/
def atFetch (s : State) (x : Slot) (w : Wave) : Wave :=
  { w with ready := (s.core x.core).cycle + x.dt, sys := { w.sys with bpSupp := false } }

/-- The slot `x` takes the wave `w` of slot `k`, past its first issue and with no walker instruction to issue again
(R363), and no step of R41 before the fetch
ends the slot; `s2` and `ws` are what the fetch at PC answers. -/
structure Fetches (s : State) (x : Slot) (k : Nat) (w : Wave) (s2 : State) (ws : W64 × W64) : Prop where
  free : slotFree s x
  pick : (slotStart s x).pick x ((s.core x.core).cycle + x.dt) = some (k, w)
  fresh : w.fresh = false
  resume : w.sys.resume = none
  preempt : w.preempt = false
  cancel : w.cancel = false
  bp : (slotStart s x).breakpoint w = none
  step : w.sys.stepPend = false ∨ w.sys.sup = true
  words : ((slotStart s x).setWave k (atFetch s x w)).fetchAt k (atFetch s x w) = (s2, .ok ws)

/-- The slot's book-keeping of an issue (R46). -/
def slotHeld (s t : State) (x : Slot) (k : Nat) (i : Option Instr) (w : Wave) : State :=
  let c := (s.core x.core).cycle + x.dt
  let q := 2 * x.quarter + (if x.vec then 1 else 0)
  t.modCore x.core (fun y => { y with
    slots := y.slots.put q (k % 64, c, c + holdCycles x.vec w.width i) })

end Sys2Proof.Claims
section Statements

open Sys2Proof Sys2Proof.Machine Sys2Proof.Claims

/-! ## Computing instructions -/

/-- R151, R152, R153: `IADD`, `ISUB`, `INEG`, `IABS`, `IMUL`, `IMIN`, `IMAX` complete for every TYPE 0-7 and
every form. Each element of D is the exact result, clamped to the TYPE's range under SAT and taken modulo
2^w otherwise; `ISAT` is set exactly when some active element was clamped; nothing else changes. -/
def Obligations.IntegerArithmetic : Prop :=
  ∀ mk ∈ intOps, ∀ (o : WOp) (s : State) (k : Nat) (w : Wave), At s k w → o.ty ≤ 7 →
    o.m.getLsbD 5 = false →
    ∃ (w' : Wave), Retires (mk o) o s k w w' (ty64 o.ty) flISAT
      ∧ (∀ c ∈ w.cells o, ∀ e < tyCount o.ty,
          elem o.ty (w'.reg c (ty64 o.ty) o.d.toNat) e =
            ((if o.sat then clampTo o.ty (exactAt (mk o) o w c e) else exactAt (mk o) o w c e)
              % 2 ^ tyWidth o.ty).toNat)
      ∧ (w'.regs.flags.getLsbD 10 = true ↔ w.regs.flags.getLsbD 10 = true ∨ (o.sat = true ∧
          ∃ c ∈ w.cells o, ∃ e < tyCount o.ty,
            clampTo o.ty (exactAt (mk o) o w c e) ≠ exactAt (mk o) o w c e))
      ∧ (w.guardGrp o.guard = true → grpExtended o w')

/-- R154, R155: bit j of the result of `AND`, `OR`, `XOR`, `NOT`, `ANDN` and `BOOL3` is the function of the
bits j of the operands, at every width; no flag changes. -/
def Obligations.LogicBits : Prop :=
  ∀ mk ∈ logicOps, ∀ (o : WOp) (s : State) (k : Nat) (w : Wave), At s k w → o.ty ≤ 3 →
    ∃ (w' : Wave), Retires (mk o) o s k w w' (ty64 o.ty) 0
      ∧ ∀ c ∈ w.cells o, ∀ j < tyWidth o.ty,
          (w'.reg c (ty64 o.ty) o.d.toNat).testBit j = logicBit (mk o) ((w.opA o c).testBit j)
            ((w.opB o c).testBit j) ((w.opC o c).testBit j)

/-- R156-R159: each bit of the result of `SHL`, `SHR`, `SAR`, `SHF`, `BREV`, `BFE` and `BFI`; amounts from the
width on are not taken modulo it. -/
def Obligations.ShiftAndFieldBits : Prop :=
  ∀ mk ∈ shiftOps, ∀ (o : WOp) (s : State) (k : Nat) (w : Wave), At s k w → o.ty ≤ 3 →
    ∃ (w' : Wave), Retires (mk o) o s k w w' (ty64 o.ty) 0
      ∧ ∀ c ∈ w.cells o, ∀ j < tyWidth o.ty,
          (w'.reg c (ty64 o.ty) o.d.toNat).testBit j =
            shiftBit (mk o) (tyWidth o.ty) (w.opA o c) (w.opB o c) (w.opC o c) j

/-- R159, R160, R161: `POPC` counts the one bits, `CLZ` the zero bits above the highest one bit, `MOV` and
`MOVI` copy, and `SEL` copies A or B by its predicate. -/
def Obligations.CountsAndMoves : Prop :=
  ∀ (o : WOp) (s : State) (k : Nat) (w : Wave), At s k w →
    (o.ty ≤ 3 → ∃ (w' : Wave), Retires (.popc o) o s k w w' (ty64 o.ty) 0 ∧ ∀ c ∈ w.cells o,
      w'.reg c (ty64 o.ty) o.d.toNat
        = ((List.range (tyWidth o.ty)).filter (fun j => (w.opA o c).testBit j)).length)
    ∧ (o.ty ≤ 3 → ∃ (w' : Wave), Retires (.clz o) o s k w w' (ty64 o.ty) 0 ∧ ∀ c ∈ w.cells o,
      let n := w'.reg c (ty64 o.ty) o.d.toNat
      n ≤ tyWidth o.ty ∧ w.opA o c < 2 ^ (tyWidth o.ty - n)
        ∧ (n < tyWidth o.ty → (w.opA o c).testBit (tyWidth o.ty - 1 - n) = true))
    ∧ (∃ (w' : Wave), Retires (.mov o) o s k w w' (ty64 o.ty) 0 ∧ ∀ c ∈ w.cells o,
      w'.reg c (ty64 o.ty) o.d.toNat = w.opB o c)
    ∧ (o.ty ≤ 3 ∨ o.ext.isSome = true → ∃ (w' : Wave), Retires (.movi o) o s k w w' (ty64 o.ty) 0 ∧
      ∀ c ∈ w.cells o, w'.reg c (ty64 o.ty) o.d.toNat = match o.ext with
        | some x => x.toNat % 2 ^ (if ty64 o.ty then 64 else 32)
        | none => (o.c.toInt % 2 ^ tyWidth o.ty).toNat)
    ∧ (∃ (w' : Wave), Retires (.sel o) o s k w w' (ty64 o.ty) 0 ∧ ∀ c ∈ w.cells o,
      w'.reg c (ty64 o.ty) o.d.toNat = if w.srcPC c o.c then w.opA o c else w.opB o c)

/-- R152, R165: the high half of `IMUL`, `IMAD` and its wide form, and the dot products `IDP4` and `IDP2`,
from the exact value. -/
def Obligations.Products : Prop :=
  ∀ (o : WOp) (s : State) (k : Nat) (w : Wave), At s k w →
    (o.ty ≤ 3 → o.m.getLsbD 5 = true → ∃ (w' : Wave), Retires (.imul o) o s k w w' (ty64 o.ty) 0 ∧
      ∀ c ∈ w.cells o, w'.reg c (ty64 o.ty) o.d.toNat =
        ((elemInt o.ty (w.opA o c) 0 * elemInt o.ty (w.opB o c) 0 / 2 ^ tyWidth o.ty)
          % 2 ^ tyWidth o.ty).toNat)
    ∧ (o.ty ≤ 3 → o.m.getLsbD 6 = false → ∃ (w' : Wave), Retires (.imad o) o s k w w' (ty64 o.ty) flISAT ∧
      ∀ c ∈ w.cells o,
        let x := elemInt o.ty (w.opA o c) 0 * elemInt o.ty (w.opB o c) 0 + elemInt o.ty (w.opC o c) 0
        w'.reg c (ty64 o.ty) o.d.toNat =
          ((if o.sat then clampTo o.ty x else x) % 2 ^ tyWidth o.ty).toNat)
    ∧ (o.ty ≤ 1 → o.m.getLsbD 6 = true → ∃ (w' : Wave), Retires (.imad o) o s k w w' true 0 ∧
      ∀ c ∈ w.cells o, w'.reg c true o.d.toNat =
        ((elemInt o.ty (w.opA o c) 0 * elemInt o.ty (w.opB o c) 0 + (w.reg c true o.c.toNat : Int))
          % 2 ^ 64).toNat)
    ∧ (∀ i ∈ [Instr.idp4 o, Instr.idp2 o], 4 ≤ o.ty → o.ty ≤ 7 →
      ∃ (w' : Wave), Retires i o s k w w' false flISAT ∧ ∀ c ∈ w.cells o,
        let x := sgnN (w.opC o c) 32 + dotExact o w c
        w'.reg c false o.d.toNat = ((if o.sat then clampTo 0 x else x) % 2 ^ 32).toNat)

/-- R162, R163, R164: `ICMP`, `FCMP` and `PBOOL` write the predicate that their condition, combination or
table gives, in the active lanes of P[D] or in the group predicate. `FCMP` sets `IV` alone, for a signalling
NaN and, under a condition that orders, for a quiet one; with `IEIV` set it then takes the
arithmetic-exception trap (cause 4) and writes no predicate (R61). -/
def Obligations.Predicates : Prop :=
  ∀ (o : WOp) (s : State) (k : Nat) (w : Wave), At s k w → predDst o →
    (∃ (w' : Wave), RetiresPred (.icmp o) o s k w w' 0 ∧ (o.fn.toNat % 16 ≤ 5 →
      ∀ c ∈ w.cells o, ∀ t : Bool,
      (t = true ↔ intRel (o.fn.toNat % 16) (elemInt o.ty (w.opA o c) 0) (elemInt o.ty (w.opB o c) 0)) →
      w'.srcP c o.d.toNat = (if o.fn.getLsbD 4 then t || w.srcPC c o.c else t && w.srcPC c o.c)))
    ∧ (w.regs.mode.getLsbD 8 = false → ∃ (w' : Wave), RetiresPred (.fcmp o) o s k w w' flIV
      ∧ (o.fn.toNat % 16 ≤ 13 →
        (∀ c ∈ w.cells o, ∀ t : Bool, (t = true ↔
            floatRel (o.fn.toNat % 16) (flOpnd o w (w.opA o c) 0) (flOpnd o w (w.opB o c) 0)) →
          w'.srcP c o.d.toNat = (if o.fn.getLsbD 4 then t || w.srcPC c o.c else t && w.srcPC c o.c))
        ∧ (w'.regs.flags.getLsbD 0 = true ↔ w.regs.flags.getLsbD 0 = true ∨ ∃ c ∈ w.cells o,
            fcmpIv (o.fn.toNat % 16) (flOpnd o w (w.opA o c) 0) (flOpnd o w (w.opB o c) 0))))
    ∧ (w.regs.mode.getLsbD 8 = true → o.fn.toNat % 16 ≤ 13 → (∃ c ∈ w.cells o,
        fcmpIv (o.fn.toNat % 16) (flOpnd o w (w.opA o c) 0) (flOpnd o w (w.opB o c) 0)) →
      ∃ detail lanes, exec (.fcmp o) s = .next (takeTrap s k w
        (trapRec w 4 detail 0 s.insn.1 s.insn.2 lanes 0)) ∧ detail.testBit 0 = true)
    ∧ (∃ (w' : Wave), RetiresPred (.pbool o) o s k w w' 0 ∧ ∀ c ∈ w.cells o,
      w'.srcP c o.d.toNat = o.table.getLsbD ((w.srcP c o.a.toNat).toNat
          + 2 * (w.srcP c o.b.toNat).toNat + 4 * (w.srcP c o.c.toNat).toNat))

/-- R57-R63, R166-R172: with no exception enabled every float instruction and `CVT` complete, writing D and
setting flags of conditions only. Where the exact sum, difference, product, fused sum, quotient, reciprocal or
square root of finite operands is a value of the format other than zero, D holds that value's code, in every
rounding mode (a subnormal one unless `FTZ` is set).
R59: a float instruction with a NaN among its operands gives the canonical quiet NaN of its format,
whatever the NaN's payload; `FMIN` and `FMAX` return the other operand, and the canonical NaN of two NaNs, or
of either under `LEGMM` (R60). -/
def Obligations.FloatResults : Prop :=
  (∀ (o : WOp) (s : State) (k : Nat) (w : Wave), At s k w → noneEnabled w →
     (∀ mk ∈ floatOps, ∃ (w' : Wave), Retires (mk o) o s k w w' (ty64 o.ty) 0x1F1F
       ∧ ((mk o) ∈ [Instr.fadd o, .fsub o, .fmul o, .ffma o, .fdiv o, .frcp o] → 8 ≤ o.ty → o.ty ≤ 11 →
         modeLegFma w.regs.mode = false → ∀ c ∈ w.cells o, ∀ e < tyCount o.ty, ∀ x < 2 ^ tyWidth o.ty,
         let a := flOpnd o w (w.opA o c) e
         let b := flOpnd o w (w.opB o c) e
         let cc := flOpnd o w (w.opC o c) e
         floatFinite (mk o) a b cc → isFin (decFl (tyFmt o.ty) x) → flQ (decFl (tyFmt o.ty) x) ≠ 0 →
         flQ (decFl (tyFmt o.ty) x) = floatExact (mk o) (flQ a) (flQ b) (flQ cc) →
         (modeFtz w.regs.mode = false ∨ isSubnormal (tyFmt o.ty) x = false) →
           elem o.ty (w'.reg c (ty64 o.ty) o.d.toNat) e = x)
       ∧ ((mk o) = Instr.fsqrt o → 8 ≤ o.ty → o.ty ≤ 9 →
         ∀ c ∈ w.cells o, ∀ x < 2 ^ tyWidth o.ty,
         let a := flOpnd o w (w.opA o c) 0
         isFin a → isFin (decFl (tyFmt o.ty) x) → 0 < flQ (decFl (tyFmt o.ty) x) →
         flQ (decFl (tyFmt o.ty) x) * flQ (decFl (tyFmt o.ty) x) = flQ a →
         (modeFtz w.regs.mode = false ∨ isSubnormal (tyFmt o.ty) x = false) →
           elem o.ty (w'.reg c (ty64 o.ty) o.d.toNat) 0 = x))
       ∧ ∃ (w' : Wave), Retires (.cvt o) o s k w w' (decide (fmtW (cvtDst o) = 64)) 0x1F1F)
  ∧ (∀ (o : WOp) (s : State) (k : Nat) (w : Wave), At s k w → noneEnabled w → 8 ≤ o.ty → o.ty ≤ 11 →
       (∀ mk ∈ ([.fadd, .fsub, .fmul, .fdiv] : List (WOp → Instr)), ∃ (w' : Wave),
         exec (mk o) s = .next (s.retire k w' o.len) ∧ ∀ c ∈ w.cells o, ∀ e < tyCount o.ty,
           nanAt o (w.opA o c) e ∨ nanAt o (w.opB o c) e →
             elem o.ty (w'.reg c (ty64 o.ty) o.d.toNat) e = (tyFmt o.ty).nan)
       ∧ (∃ (w' : Wave), exec (.ffma o) s = .next (s.retire k w' o.len) ∧ ∀ c ∈ w.cells o, ∀ e < tyCount o.ty,
           nanAt o (w.opA o c) e ∨ nanAt o (w.opB o c) e ∨ nanAt o (w.opC o c) e →
             elem o.ty (w'.reg c (ty64 o.ty) o.d.toNat) e = (tyFmt o.ty).nan)
       ∧ (∀ mk ∈ ([.frcp, .frsq, .fsqrt, .fexp2, .flog2] : List (WOp → Instr)), ∃ (w' : Wave),
         exec (mk o) s = .next (s.retire k w' o.len) ∧ ∀ c ∈ w.cells o, ∀ e < tyCount o.ty,
           nanAt o (w.opA o c) e → elem o.ty (w'.reg c (ty64 o.ty) o.d.toNat) e = (tyFmt o.ty).nan)
       ∧ (∀ mk ∈ ([.fmin, .fmax] : List (WOp → Instr)), modeLegMm w.regs.mode = false → ∃ (w' : Wave),
         exec (mk o) s = .next (s.retire k w' o.len) ∧ ∀ c ∈ w.cells o, ∀ e < tyCount o.ty,
           (nanAt o (w.opA o c) e → ¬ nanAt o (w.opB o c) e →
             elem o.ty (w'.reg c (ty64 o.ty) o.d.toNat) e =
               dazCode (tyFmt o.ty) (flushes o.ty (modeDaz w.regs.mode)) (elem o.ty (w.opB o c) e))
           ∧ (¬ nanAt o (w.opA o c) e → nanAt o (w.opB o c) e →
             elem o.ty (w'.reg c (ty64 o.ty) o.d.toNat) e =
               dazCode (tyFmt o.ty) (flushes o.ty (modeDaz w.regs.mode)) (elem o.ty (w.opA o c) e))
           ∧ (nanAt o (w.opA o c) e → nanAt o (w.opB o c) e →
             elem o.ty (w'.reg c (ty64 o.ty) o.d.toNat) e = (tyFmt o.ty).nan))
       ∧ (∀ mk ∈ ([.fmin, .fmax] : List (WOp → Instr)), modeLegMm w.regs.mode = true → ∃ (w' : Wave),
         exec (mk o) s = .next (s.retire k w' o.len) ∧ ∀ c ∈ w.cells o, ∀ e < tyCount o.ty,
           nanAt o (w.opA o c) e ∨ nanAt o (w.opB o c) e →
             elem o.ty (w'.reg c (ty64 o.ty) o.d.toNat) e = (tyFmt o.ty).nan))

/-- R169: `FNEG` inverts the sign bit and keeps every other bit, of a NaN too; `FABS` clears it, and of a NaN
gives the canonical NaN. No flag changes.
R61: `FDIV` of a finite value other than zero by zero in some active lane, with the divide-by-zero
exception enabled, takes the arithmetic-exception trap (cause 4), and neither D nor `FLAGS` changes. -/
def Obligations.FloatSignAndDivision : Prop :=
  (∀ (o : WOp) (s : State) (k : Nat) (w : Wave), At s k w → 8 ≤ o.ty → o.ty ≤ 11 →
     (∃ (w' : Wave), Retires (.fneg o) o s k w w' (ty64 o.ty) 0 ∧ ∀ c ∈ w.cells o, ∀ e < tyCount o.ty,
       ∀ j < tyWidth o.ty, (elem o.ty (w'.reg c (ty64 o.ty) o.d.toNat) e).testBit j =
         ((elem o.ty (w.opA o c) e).testBit j ^^ decide (j = tyWidth o.ty - 1)))
     ∧ (∃ (w' : Wave), Retires (.fabs o) o s k w w' (ty64 o.ty) 0 ∧ ∀ c ∈ w.cells o, ∀ e < tyCount o.ty,
       (nanAt o (w.opA o c) e → elem o.ty (w'.reg c (ty64 o.ty) o.d.toNat) e = (tyFmt o.ty).nan)
         ∧ (¬ nanAt o (w.opA o c) e → ∀ j < tyWidth o.ty,
           (elem o.ty (w'.reg c (ty64 o.ty) o.d.toNat) e).testBit j =
             ((elem o.ty (w.opA o c) e).testBit j && decide (j < tyWidth o.ty - 1)))))
  ∧ (∀ (o : WOp) (s : State) (k : Nat) (w : Wave) (c : Machine.Cell) (e : Nat), At s k w →
       8 ≤ o.ty → o.ty ≤ 11 → c ∈ w.cells o → e < tyCount o.ty → w.regs.mode.getLsbD 9 = true →
       (∃ n m x, m ≠ 0 ∧ flElem o.ty (modeDaz w.regs.mode) (w.opA o c) e = .fin n m x) →
       (flElem o.ty (modeDaz w.regs.mode) (w.opB o c) e).isZero = true →
       ∃ detail lanes, exec (.fdiv o) s = .next (takeTrap s k w
           (trapRec w 4 detail 0 s.insn.1 s.insn.2 lanes 0)) ∧ detail.testBit 1 = true)
/-! ## Control, lanes and the registers of a wave -/

/-- R8, R124: a group-wide instruction whose guard does not hold does nothing, and the wave goes on at the
next instruction. -/
def Obligations.GuardSkips : Prop :=
  ∀ mk ∈ groupOps, ∀ (o : WOp) (s : State) (k : Nat) (w : Wave), At s k w → w.guardGrp o.guard = false →
    exec (mk o) s = .next (s.retire k w o.len)

/-- R30, R173, R176: `BRA` to its relative target, and to an aligned indirect target. -/
def Obligations.Branches : Prop :=
  ∀ (o : WOp) (s : State) (k : Nat) (w : Wave), At s k w →
    BranchesTo (.bra o) o s k w (w.pc + o.off24 * 8)
    ∧ ((w.greg o.a.toNat).toNat % 8 = 0 → BranchesTo (.braIndirect o) o s k w (w.greg o.a.toNat))
    ∧ (wholeGuard o → w.guardGrp o.guard = true → (w.greg o.a.toNat).toNat % 8 ≠ 0 →
        exec (.braIndirect o) s = .next (takeTrap s k w
          (trapRec w 2 8 0 s.insn.1 s.insn.2 0 (BitVec.ofNat 64 (32 + 39 * 256)))))

/-- R177: `CALL` saves PC + 8 in G[D] and goes to its target, read before G[D] is written; `RET` goes to
G[A]. Neither changes EXM or the convergence stack.
R28, R179: `EXM.GET` reads the mask; `EXM.SET` writes it from G[A] or word 1, among the permitted lanes
of the wave. -/
def Obligations.CallsAndMasks : Prop :=
  (∀ (o : WOp) (s : State) (k : Nat) (w : Wave), At s k w → w.guardGrp o.guard = true →
     exec (.call o) s = .next (s.retireAt k (w.setG o.d.toNat (w.pc + 8)) (w.pc + o.off24 * 8))
     ∧ ((w.greg o.a.toNat).toNat % 8 = 0 →
         exec (.callIndirect o) s
           = .next (s.retireAt k (w.setG o.d.toNat (w.pc + 8)) (w.greg o.a.toNat))
         ∧ exec (.ret o) s = .next (s.retireAt k w (w.greg o.a.toNat))))
  ∧ (∀ (o : WOp) (s : State) (k : Nat) (w : Wave), At s k w → w.guardGrp o.guard = true →
       exec (.exmGet o) s = .next (s.retire k (w.setG o.d.toNat w.exm) o.len)
       ∧ (o.ext = none → exec (.exmSet o) s = .next (s.retire k
           { w with exm := w.greg o.a.toNat &&& w.permitted &&& w.wmask } o.len))
       ∧ (∀ x, o.ext = some x → exec (.exmSet o) s = .next (s.retire k
           { w with exm := x &&& w.permitted &&& w.wmask } o.len)))

/-- R31, R32, R178: `CVG.PUSH` pushes a JOIN entry for its join point; `CVG.JOIN` pops a PATH entry, going to
its address, or a JOIN entry, going on, and EXM becomes the entry's mask among the permitted lanes; an
empty stack takes CVG.UNDER (6), an RJOIN entry CVG.STRAY (7), a full stack CVG.OVF (5). -/
def Obligations.Convergence : Prop :=
  ∀ (o : WOp) (s : State) (k : Nat) (w : Wave), At s k w → w.guardGrp o.guard = true →
    (w.stack.length < 32 → exec (.cvgPush o) s = .next (s.retireAt k
      { w with stack := ⟨w.exm, pcw (w.pc + o.off24 * 8), 0⟩ :: w.stack } (after w o)))
    ∧ (32 ≤ w.stack.length → exec (.cvgPush o) s = .next (takeTrap s k w
        (trapRec w 5 w.stack.length 0 s.insn.1 s.insn.2 0 0)))
    ∧ (∀ e t, w.stack = e :: t → e.kind = 1 → exec (.cvgJoin o) s = .next (s.retireAt k
        { w with stack := t, exm := e.mask &&& w.permitted &&& w.wmask } e.pc))
    ∧ (∀ e t, w.stack = e :: t → e.kind = 0 → exec (.cvgJoin o) s = .next (s.retireAt k
        { w with stack := t, exm := e.mask &&& w.permitted &&& w.wmask } (after w o)))
    ∧ (w.stack = [] → exec (.cvgJoin o) s = .next (takeTrap s k w
        (trapRec w 6 0 0 s.insn.1 s.insn.2 0 0)))
    ∧ (∀ e t, w.stack = e :: t → e.kind ≠ 0 → e.kind ≠ 1 → exec (.cvgJoin o) s = .next (takeTrap s k w
        (trapRec w 7 w.stack.length 0 s.insn.1 s.insn.2 0 0)))

/-- R38, R181: `END` takes its active lanes from LIVE, from EXM and from every stack entry; with lanes of EXM
left the wave goes on; with none left and an entry on the stack it pops as `CVG.JOIN` does; else the wave
ends and leaves its slot, once its earlier accesses are performed and the pool unit has answered for its
lanes (log 140). -/
def Obligations.Ends : Prop :=
  ∀ (o : WOp) (s : State) (k : Nat) (w : Wave), At s k w → w.guardGrp o.guard = true →
    let e := maskOf (w.active o.guard)
    let w1 := { w with live := w.live &&& ~~~e, exm := w.exm &&& ~~~e,
                       stack := w.stack.map (fun x => { x with mask := x.mask &&& ~~~e }) }
    (w1.live ≠ 0 → w1.exm ≠ 0 → exec (.end_ o) s = .next (s.retire k w1 o.len))
    ∧ (∀ x t, w1.live ≠ 0 → w1.exm = 0 → w1.stack = x :: t → x.kind = 1 →
        exec (.end_ o) s = .next (s.retireAt k
          { w1 with stack := t, exm := x.mask &&& w1.permitted &&& w1.wmask } x.pc))
    ∧ (∀ x t, w1.live ≠ 0 → w1.exm = 0 → w1.stack = x :: t → x.kind = 0 →
        exec (.end_ o) s = .next (s.retireAt k
          { w1 with stack := t, exm := x.mask &&& w1.permitted &&& w1.wmask } (after w o)))
    ∧ (w1.live = 0 ∨ (w1.exm = 0 ∧ w.stack = []) →
      (s.relBusy k = false → (∀ q ∈ s.poolReqs, q.wave ≠ k) →
        ∃ (t : State), exec (.end_ o) s = .next t ∧ t.waves.find k = none)
      ∧ (s.relBusy k = true ∨ (∃ q ∈ s.poolReqs, q.wave = k) → exec (.end_ o) s = .next s))

/-- R182, R359, R360: `TRAP n` out of the trap handler enters the context's trap handler in supervisor mode.
The trap record holds cause 3, n, the privilege, the PC, the words and EXM; nothing else of the wave
changes but a wait, which it has none of.
R42, R374: a trap in the trap handler, or in a context that has none, makes the context fail: the wave
stops where it is, and the context is marked failed. -/
def Obligations.Traps : Prop :=
  (∀ (o : WOp) (s : State) (k : Nat) (w : Wave) (g : Gang) (c : Ctx), At s k w →
     w.guardGrp o.guard = true → w.wait = none → w.sys.inTrap = false →
     s.gangs.find w.gang = some g → s.ctxs.find g.ctx = some c → c.tlen ≠ 0 →
     ∃ r : BitVec 512, exec (.trap o) s = .next (s.setWave k { w with
         pc := c.tcode, pointed := false, sys := { w.sys with sup := true, inTrap := true, trec := r } })
       ∧ r.extractLsb' 0 16 = 3#16 ∧ r.extractLsb' 16 8 = o.c ∧ r.getLsbD 24 = w.w64
       ∧ r.getLsbD 25 = w.sys.sup ∧ r.extractLsb' 64 64 = w.pc ∧ r.extractLsb' 128 64 = s.insn.1
       ∧ r.extractLsb' 192 64 = s.insn.2 ∧ r.extractLsb' 256 64 = w.exm
       ∧ r.extractLsb' 320 32 = w.regs.mode ∧ r.extractLsb' 352 32 = w.regs.flags)
  ∧ (∀ (o : WOp) (s : State) (k : Nat) (w : Wave) (g : Gang) (c : Ctx), At s k w →
       w.guardGrp o.guard = true → s.gangs.find w.gang = some g → s.ctxs.find g.ctx = some c →
       w.sys.inTrap = true ∨ c.tlen = 0 →
       ∃ (t : State), exec (.trap o) s = .next t ∧ t.waves.find k = some { w with stopped := true }
         ∧ (∃ c', t.ctxs.find g.ctx = some c' ∧ c'.failed = true)
         ∧ t.cancels.length = s.cancels.length + 1)

/-- R185-R191: the moves between lanes and to the group-wide registers. Sources are read as they stood
before the instruction, whatever the execution mask says of a named lane. -/
def Obligations.LaneMoves : Prop :=
  ∀ (o : WOp) (s : State) (k : Nat) (w : Wave), At s k w →
    (w.guardGrp o.guard = true →
      (∀ l t, w.active o.guard = l :: t → exec (.rdfirst o) s = .next (s.retire k
          (w.setG o.d.toNat (BitVec.ofNat 64 (w.laneA o l))) o.len))
      ∧ (w.active o.guard = [] → exec (.rdfirst o) s = .next (s.retire k (w.setG o.d.toNat 0) o.len))
      ∧ exec (.rdlane o) s = .next (s.retire k
          (w.setG o.d.toNat (BitVec.ofNat 64 (w.laneA o (w.laneOp o)))) o.len)
      ∧ exec (.wrlane o) s = .next (s.retire k
          (w.setVgrp (lregs o) o.d.toNat (w.laneOp o) (w.greg o.a.toNat).toNat) o.len))
    ∧ (∃ (w' : Wave), WritesLanes (.bcast o) o s k w w' (lregs o) (fun _ => w.laneA o (w.laneOp o)))
    ∧ (∃ (w' : Wave), WritesLanes (.lperm o) o s k w w' (lregs o) (fun l =>
        let n := match o.ext with
          | some x => x.toNat % 2 ^ 32
          | none => if o.sB then (w.greg o.b.toNat).toNat % 2 ^ 32 else (w.vreg o.b.toNat l).toNat
        match permSource o.fn.toNat w.width l n with
        | some x => if x ∈ w.active o.guard then w.laneA o x else w.laneA o l
        | none => w.laneA o l))

/-- R189, R191: polls and the equality of lanes.
R190: `LRED` over integers gives in G[D] the exact sum over the active lanes, clamped under SAT; the
least or greatest; or the bitwise combination, with the neutral value when no lane is active. With no
exception enabled it completes on floats too, changing G[D] and `FLAGS` alone. -/
def Obligations.PollsAndReductions : Prop :=
  (∀ (o : WOp) (s : State) (k : Nat) (w : Wave), At s k w →
     let act := w.active o.guard
     (w.guardGrp o.guard = true →
       (∀ b : Bool, o.fn = 0 → (b = true ↔ ∀ l ∈ act, w.predAt o.a.toNat l = true) →
         exec (.poll o) s = .next (s.retire k (w.setGP (o.d.toNat - 64) b) o.len))
       ∧ (∀ b : Bool, o.fn = 1 → (b = true ↔ ∃ l ∈ act, w.predAt o.a.toNat l = true) →
         exec (.poll o) s = .next (s.retire k (w.setGP (o.d.toNat - 64) b) o.len))
       ∧ (∀ m : W64, o.fn = 2 → (∀ l < 64, m.getLsbD l = (decide (l ∈ act) && w.predAt o.a.toNat l)) →
         exec (.poll o) s = .next (s.retire k (w.setG o.d.toNat m) o.len))
       ∧ (∀ b : Bool, o.fn = 3 → (b = true ↔ ∀ l ∈ act, ∀ l' ∈ act,
             w.predAt o.a.toNat l = w.predAt o.a.toNat l') →
         exec (.poll o) s = .next (s.retire k (w.setGP (o.d.toNat - 64) b) o.len))
       ∧ (∀ b : Bool, (b = true ↔ ∀ l ∈ act, ∀ l' ∈ act, w.laneA o l = w.laneA o l') →
         exec (.sameAll o) s = .next (s.retire k (w.setGP (o.d.toNat - 64) b) o.len)))
     ∧ ∃ (w' : Wave), WritesLanes (.sameMask o) o s k w w' 2 (fun l =>
         (maskOf (act.filter (fun m => w.laneA o m = w.laneA o l))).toNat))
  ∧ (∀ (o : WOp) (s : State) (k : Nat) (w : Wave), At s k w → w.guardGrp o.guard = true →
       (o.ty ≤ 3 → ∃ (w' : Wave), exec (.lred o) s = .next (s.retire k w' o.len)
         ∧ OnlyRegs w w' never2 (fun r => r = o.d.toNat) never2 never1 flISAT
         ∧ (let xs := (w.active o.guard).map (fun l => elemInt o.ty (w.laneA o l) 0)
            let res := elemInt o.ty (w'.reg .grp (ty64 o.ty) o.d.toNat) 0
            (o.fn = 4 → o.sat = true → res = clampTo o.ty xs.sum)
            ∧ (o.fn = 4 → o.sat = false → (res - xs.sum) % 2 ^ tyWidth o.ty = 0)
            ∧ (o.fn = 5 → (∀ x ∈ xs, res ≤ x) ∧ (res ∈ xs ∨ res = (tyRange o.ty).2))
            ∧ (o.fn = 6 → (∀ x ∈ xs, x ≤ res) ∧ (res ∈ xs ∨ res = (tyRange o.ty).1)))
         ∧ (let xs := (w.active o.guard).map (w.laneA o)
            ∀ j < tyWidth o.ty,
             let bit := (w'.reg .grp (ty64 o.ty) o.d.toNat).testBit j
             (o.fn = 7 → (bit = true ↔ ∀ x ∈ xs, x.testBit j = true))
             ∧ (o.fn = 8 → (bit = true ↔ ∃ x ∈ xs, x.testBit j = true))
             ∧ (o.fn = 9 → bit = xs.foldl (fun b x => b ^^ x.testBit j) false)))
       ∧ (noneEnabled w → ∃ (w' : Wave), exec (.lred o) s = .next (s.retire k w' o.len)
         ∧ OnlyRegs w w' never2 (fun r => r = o.d.toNat) never2 never1 0x1F1F))

/-- R139, R140, R55, R56: `MODE` and `FLAGS` read and written, `FLAGS` once the wave's matrix instructions
have executed; only the fields of the registers are kept.
R20-R25: `GETID` and `GETCAP` write their selector's value to every active lane of D, or to G[D]. -/
def Obligations.ModeFlagsIdentity : Prop :=
  (∀ (o : WOp) (s : State) (k : Nat) (w : Wave) (v : W32), At s k w → w.guardGrp o.guard = true →
     (match o.ext with
       | some x => v = x.setWidth 32
       | none => v = (w.greg o.a.toNat).setWidth 32) →
     exec (.getmode o) s = .next (s.retire k (w.setG o.d.toNat (w.regs.mode.setWidth 64)) o.len)
     ∧ exec (.setmode o) s
         = .next (s.retire k { w with regs := { w.regs with mode := v &&& 0x00001F3F } } o.len)
     ∧ (s.matBusy k = false →
       exec (.getflags o) s = .next (s.retire k (w.setG o.d.toNat (w.regs.flags.setWidth 64)) o.len)
       ∧ exec (.setflags o) s
         = .next (s.retire k { w with regs := { w.regs with flags := v &&& 0x00001F1F } } o.len)
       ∧ exec (.clrflags o) s
         = .next (s.retire k { w with regs := { w.regs with flags := w.regs.flags &&& ~~~v } } o.len))
     ∧ (s.matBusy k = true → exec (.getflags o) s = .next s ∧ exec (.setflags o) s = .next s
         ∧ exec (.clrflags o) s = .next s))
  ∧ (∀ (o : WOp) (s : State) (k : Nat) (w : Wave) (g : Gang), At s k w →
       s.gangs.find w.gang = some g →
       (∃ (w' : Wave), Retires (.getid o) o s k w w' (idSel64 o.c.toNat) 0 ∧
         (∀ l, Machine.Cell.lane l ∈ w.cells o →
           let x := w'.vgrp (if idSel64 o.c.toNat then 2 else 1) o.d.toNat l
           (o.c = 0 → x = l) ∧ (o.c = 1 → x = w.width) ∧ (o.c = 2 → x = w.wid % 2 ^ 32)
           ∧ (o.c = 3 → x = g.waves % 2 ^ 32) ∧ (o.c = 4 → x = w.wg % 2 ^ 32)
           ∧ (o.c = 5 → x = g.cores.length % 2 ^ 32) ∧ (o.c = 6 → x = g.gangId % 2 ^ 32)
           ∧ (o.c = 12 → x = g.dev % 2 ^ 32) ∧ (o.c = 13 → x = g.launch % 2 ^ 64)
           ∧ (o.c = 17 → x = g.ctx % 2 ^ 32) ∧ (o.c = 19 → x = k % 2 ^ 32)
           ∧ x = s.idVal k w o.c.toNat l % 2 ^ (if idSel64 o.c.toNat then 64 else 32))
         ∧ (Machine.Cell.grp ∈ w.cells o →
           w'.greg o.d.toNat = BitVec.ofNat 64 (s.idVal k w o.c.toNat 0)))
       ∧ (∃ (w' : Wave), Retires (.getcap o) o s k w w' false 0 ∧
         (∀ c ∈ w.cells o, ∀ x, x = w'.reg c false o.d.toNat →
           (o.c = 0 → x = 0x00040002) ∧ (o.c = 2 → x = (s.devDies g.ctx g.dev).length % 2 ^ 32)
           ∧ (o.c = 3 → x = (s.logicalCores (s.devDies g.ctx g.dev)).length % 2 ^ 32)
           ∧ (o.c = 8 → x = 64) ∧ (o.c = 13 → x = 32))))
/-! ## Memory -/

/-- R33, R75, R194-R196, R199-R202: a vector memory instruction that nothing keeps waiting runs its active
lanes in ascending order and retires; in user mode the lanes whose checks failed park and the wave goes
on; in the lane handler a failed check changes nothing and takes LANE.DOUBLE (cause 10). -/
def Obligations.LaneAccesses : Prop :=
  ∀ x ∈ laneOps, ∀ (o : WOp) (s : State) (k : Nat) (w : Wave), At s k w →
    noWaits o s k w (x.sync o) x.wr x.sp →
    (x.con o = .redgRedir o → s.matBusy k = false ∧ s.redirHeld w o = none) →
    let r := lanesRun (x.lanef o) o s k w x.sp
    (r.faults = [] → exec (x.con o) s = .next ((lanesEnd o s k w r.s).retire k r.w o.len))
    ∧ (w.sys.sup = false →
        exec (x.con o) s = .next ((lanesEnd o s k w r.s).retire k (r.w.parkAll r.faults) o.len))
    ∧ (∀ l f t, w.sys.sup = true → r.faults = (l, f) :: t →
        exec (x.con o) s = .next (takeTrap s k w (trapRec w 10 f.kind f.cause s.insn.1 s.insn.2
          (BitVec.ofNat 64 f.addr) (maskOf (r.faults.map (·.1))))))

/-- R196: `LDS` in bounds gives each active lane the bytes at its address, extended by SX, and stores
nothing; `STS` in bounds stores each active lane's bytes at its address, the highest lane's where several
write one byte, and leaves every other byte of scratch as it was.
R198, R199: `ATS` of one active lane, with an operation on integers, returns the old value in D and
leaves the operation's new value at the location and every other byte of scratch as it was. -/
def Obligations.Scratch : Prop :=
  (∀ (o : WOp) (s : State) (k : Nat) (w : Wave) (g : Gang), At s k w → inGang s w g →
     (∀ l ∈ w.active o.guard, inScratch g w o (o.ord != 0) l) →
     (noWaits o s k w (o.ord != 0) false true → ∃ (t : State) (w' : Wave), exec (.lds o) s = .next (t.retire k w' o.len)
       ∧ (∀ l ∈ w.active o.guard, w'.vgrp (vregsOf o.sz) o.d.toNat l =
           loadExt o.sz o.sx 32 (g.scrRead (w.laneAddr o l) o.sz) % 2 ^ (32 * vregsOf o.sz))
       ∧ OnlyRegs w w' (fun r l => l ∈ w.active o.guard ∧ o.d.toNat ≤ r
           ∧ r < o.d.toNat + vregsOf o.sz) never1 never2 never1 0
       ∧ t.gangs.find w.gang = some g ∧ t.waves = s.waves)
     ∧ (noWaits o s k w (o.ord != 0) true true → ∃ (t : State) (g' : Gang), exec (.sts o) s = .next (t.retire k w o.len)
       ∧ t.gangs.find w.gang = some g' ∧ t.waves = s.waves
       ∧ (∀ l ∈ w.active o.guard, ∀ a, hits w o l a → (∀ m ∈ w.active o.guard, l < m → ¬ hits w o m a) →
           g'.scratch.getD a 0 = nth (w.storeBytes o l) (a - w.laneAddr o l) 0)
       ∧ (∀ a, (∀ l ∈ w.active o.guard, ¬ hits w o l a) → g'.scratch.getD a 0 = g.scratch.getD a 0)))
  ∧ (∀ (o : WOp) (s : State) (k : Nat) (w : Wave) (g : Gang) (l : Nat), At s k w → inGang s w g →
       w.active o.guard = [l] → inScratch g w o true l → noWaits o s k w true true true → o.fn.toNat ≤ 9 →
       o.ord = 0 →
       let a := w.laneAddr o l
       let old := g.scrNat a o.sz
       let v := (w.atomOps o l).1 % 2 ^ (8 * o.sz)
       let cmp := (w.atomOps o l).2
       (w.atomOps o l).1 < 2 ^ (8 * o.sz) →
       ∃ (t : State) (w' : Wave) (g' : Gang), exec (.ats o) s = .next (t.retire k w' o.len)
         ∧ w'.vgrp (vregsOf o.sz) o.d.toNat l = old % 2 ^ (32 * vregsOf o.sz)
         ∧ t.gangs.find w.gang = some g' ∧ g'.scrNat a o.sz = atomSpec o.fn.toNat o.sz old v cmp
         ∧ (∀ b, ¬ hits w o l b → g'.scratch.getD b 0 = g.scratch.getD b 0))

/-- R82, R84, R100: bytes that a wave writes through its core within one sector, it reads back: whatever
the L1, the write-combining buffer, the die's L2 and memory held, and whichever home the address has. A
sector of HBM of which neither core nor die holds a copy reads as memory has it. -/
def Obligations.WriteThenRead : Prop :=
  (∀ (s : State) (ob : Obs) (lf : Leaf) (na : Bool) (c pa : Nat) (bs : List Byte),
    pa % 16 + bs.length ≤ 16 →
    ((s.pwrite ob lf (.core na c) pa bs).pread ob lf (.core na c) pa bs.length).2 = bs)
  ∧ ∀ (s : State) (ob : Obs) (lf : Leaf) (na : Bool) (c pa n : Nat) (ds : List Nat),
    pa % 16 + n ≤ 16 → s.paKind (pa / 16 * 16) = .hbm ds → uncached s ob c (pa / 16) →
    seen s ob lf (.core na c) pa n
      = (List.range n).map (fun i => memGet s.mem (hbmAt (pa / 16 * 16) + pa % 16 + i))

/-- R193, R196, R198-R201: what a single active lane whose checks pass moves. `LDG` gives D the bytes that
its core reads at the place, extended by SX; after `STG` the core reads the stored bytes there, and where
the page goes through the core no byte of memory has changed; `ATG` gives the old value in D and leaves the
operation's new value, for the operations on integers; `REDG` notes the update of its operand. -/
def Obligations.GlobalValues : Prop :=
  ∀ (o : WOp) (s s1 : State) (k l : Nat) (w : Wave) (page : Option PageEnt) (p : Piece), At s k w →
    let ob := s1.waveObs k w
    let c := slotCore k
    (o.ord = 0 → noWaits o s k w false false false → OneLane s k w o l .read 0 false noHost 0 s1 page p →
      ∃ (t : State) (w' : Wave), exec (.ldg o) s = .next (t.retire k w' o.len)
        ∧ w'.vgrp (vregsOf o.sz) o.d.toNat l =
          loadExt o.sz o.sx 32 (seen s1 ob p.leaf (.core o.na c) p.pa o.sz) % 2 ^ (32 * vregsOf o.sz)
        ∧ w' = { w with regs := w'.regs, sys := w'.sys } ∧ t.gangs = s1.gangs)
    ∧ (o.ord = 0 → noWaits o s k w false true false → OneLane s k w o l .write 1 false noHost 0 s1 page p →
      ∃ (t : State), exec (.stg o) s = .next (t.retire k (w.fillPage l page) o.len)
        ∧ seen t ob p.leaf (.core false c) p.pa o.sz = w.storeBytes o l
        ∧ (s1.direct ob p.leaf (p.pa / 16 * 16) = false → (s1.core c).wcb.length < 32 → t.mem = s1.mem)
        ∧ t.gangs = s1.gangs)
    ∧ (o.ord = 0 → noWaits o s k w true true false → o.fn.toNat ≤ 9 → (w.atomOps o l).1 < 2 ^ (8 * o.sz) →
      OneLane s k w o l .atomic 2 true (s.hostRefuses o.fn.toNat o.sz false) o.fn.toNat s1 page p →
      ∃ (t : State) (w' : Wave), exec (.atg o) s = .next (t.retire k w' o.len)
        ∧ (let old := natOf (seen s1 ob p.leaf .place p.pa o.sz)
           w'.vgrp (vregsOf o.sz) o.d.toNat l = old % 2 ^ (32 * vregsOf o.sz)
           ∧ natOf (seen t ob p.leaf .place p.pa o.sz)
             = atomSpec o.fn.toNat o.sz old (w.atomOps o l).1 (w.atomOps o l).2))
    ∧ (o.ord = 0 → noWaits o s k w true true false →
      OneLane s k w o l .atomic 3 true (s.hostRefuses (o.fn.toNat % 16) o.sz true) o.fn.toNat s1 page p →
      ∃ (t : State) (r : Redg), exec (.redg o) s = .next (t.retire k (w.fillPage l page) o.len)
        ∧ t.redgs = s1.redgs ++ [r] ∧ r.wave = k ∧ r.pa = p.pa ∧ r.sz = o.sz ∧ r.fn = o.fn.toNat % 16
        ∧ r.redir = none ∧ r.val = BitVec.ofNat 64 (w.vgrp (vregsOf o.sz) o.d.toNat l) ∧ t.mem = s1.mem)

/-- R76, R81, R196, R197: `LDC` completes for every address, giving the argument block's bytes below 4,096,
to each active lane or to G[D],
once no earlier update of the wave holds the bytes of the constant section that it reads and the islands on their
way perform (R100, R399); `PREF` completes and changes no register of any wave, whatever its addresses. -/
def Obligations.ConstantsAndPrefetch : Prop :=
  ∀ (o : WOp) (s : State) (k : Nat) (w : Wave), At s k w →
    (∀ (g : Gang) (e : Entry), inGang s w g → s.entry? g.ctx g.launch = some e →
      (s.accBusy k w (w.constSpans o e) = true → exec (.ldc o) s = .next s)
      ∧ (s.accBusy k w (w.constSpans o e) = false →
      ∃ (t : State) (w' : Wave), exec (.ldc o) s = .next (t.retire k w' o.len) ∧ t.waves = s.waves
        ∧ (∀ l, Machine.Cell.lane l ∈ w.cells o → w.laneAddr o l + o.sz ≤ 4096 →
          w'.vgrp (vregsOf o.sz) o.d.toNat l = loadExt o.sz o.sx 32 ((List.range o.sz).map (fun i =>
            nth e.args (w.laneAddr o l + i) 0)) % 2 ^ (32 * vregsOf o.sz))
        ∧ OnlyRegs w w' (fun r l => o.grp = false ∧ l ∈ w.active o.guard ∧ o.d.toNat ≤ r
            ∧ r < o.d.toNat + vregsOf o.sz)
          (fun r => o.grp = true ∧ (r = o.d.toNat ∨ (o.sz = 16 ∧ r = o.d.toNat + 1))) never2 never1 0
        ∧ (.grp ∈ w.cells o → w.constAt o .grp + o.sz ≤ 4096 →
          let v := loadExt o.sz o.sx 64 ((List.range o.sz).map (fun i => nth e.args (w.constAt o .grp + i) 0))
          w'.greg o.d.toNat = BitVec.ofNat 64 v
            ∧ (o.sz = 16 → w'.greg (o.d.toNat + 1) = BitVec.ofNat 64 (v / 2 ^ 64)))))
    ∧ ∃ (t : State), exec (.pref o) s = .next (t.retire k w o.len) ∧ t.waves = s.waves ∧ t.gangs = s.gangs

/-- R83, R85, R104, R204, with log 142 for `FENCE.ACQ` and `ICINV`: a release point leaves the core's write-combining buffer empty and the die
with no dirty remote sector of a page wider than DIE; an acquire point leaves the core's L1 empty, unless
its cluster is fused, and no remote sector wider than DIE on the die; `ICINV` empties the instruction and
metadata caches (R118). `REDG` updates and matrix instructions of the wave delay a release, and its `REDG`
updates an acquire and `ICINV`. At a point that is
either, the dirty bytes of the die's lines of such a page, homed in HBM, stand in memory, when the core's
write-combining buffer was empty and no second copy of them lay dirty on the die.
R82, R86, R108, R202: what the caches and the atomic places do by themselves. A write-combining entry that
has been held for 1,024 cycles (the point at which the model lets it drain: log 23) drains, once its core's island
and those on its way perform (R399), and the die's L2 then gives its bytes; a victim line is written back, once
those on its way perform, its bytes then stand in memory; the oldest update of a
wave is performed at its place, which then holds the operation's new value over the old one, leaving the
pending updates; of a redirect the old value then stands in scratch, and the barrier has one arrival more. -/
def Obligations.FencesAndCaches : Prop :=
  (∀ (o : WOp) (s : State) (k : Nat) (w : Wave), At s k w → w.guardGrp o.guard = true →
     let c := slotCore k
     let d := coreDie c
     (s.relBusy k = false → ∃ (t : State), exec (.fenceRel o) s = .next (t.retire k w o.len) ∧ t.waves = s.waves
       ∧ (t.core c).wcb = [] ∧ (∀ p : Nat × Sector, p ∈ (t.die d).remote → 1 < p.2.share → p.2.mask = 0))
     ∧ (s.relBusy k = true → exec (.fenceRel o) s = .next s ∧ exec (.fenceAr o) s = .next s)
     ∧ (s.redgBusy k = true → exec (.fenceAcq o) s = .next s ∧ exec (.icinv o) s = .next s)
     ∧ (s.redgBusy k = false → ∃ (t : State), exec (.fenceAcq o) s = .next (t.retire k w o.len) ∧ t.waves = s.waves
       ∧ ((s.core c).fused = none → (t.core c).l1 = []) ∧ (∀ p : Nat × Sector, p ∈ (t.die d).remote → p.2.share ≤ 1))
     ∧ (s.relBusy k = false → ∃ (t : State), exec (.fenceAr o) s = .next (t.retire k w o.len) ∧ t.waves = s.waves
       ∧ (t.core c).wcb = [] ∧ ((s.core c).fused = none → (t.core c).l1 = [])
       ∧ (∀ p : Nat × Sector, p ∈ (t.die d).remote → p.2.share ≤ 1))
     ∧ (∀ mk ∈ ([.fenceRel, .fenceAcq, .fenceAr] : List (WOp → Instr)), s.relBusy k = false →
       (s.core c).wcb = [] → rising (s.die d).remote →
       ∃ (t : State), exec (mk o) s = .next (t.retire k w o.len) ∧
         ∀ (sec : Nat) (x : Sector) (ds : List Nat), (s.die d).remote.find sec = some x → 1 < x.share →
           s.paKind (sec * 16) = .hbm ds → soleIn (s.die d).remote sec → notIn (s.die d).victim sec →
           notIn (s.die d).ddr sec → inMemory t sec x)
     ∧ (s.redgBusy k = false → exec (.icinv o) s = .next ((s.setCore c { s.core c with icache := [], mcache := [] }).retire k w o.len)))
  ∧ ((∀ (s : State) (c sec : Nat) (x : Sector), (s.core c).wcb.find sec = some x →
       x.since + 1024 ≤ (s.core c).cycle → s.islandOn (240 * coreDie c + 6 * corePhys c + 5) = true →
       s.paOn ⟨0, x.dev, coreDie c, some c, none⟩ (sec * 16) = true →
       ∃ (t : State), exec (.wcbEntryTimeout c sec) s = .next t ∧ (t.core c).wcb.find sec = none
         ∧ (∀ i < 16, x.mask.getLsbD i = true → secByte (t.dieSec ⟨0, x.dev, coreDie c, none, none⟩
             ⟨x.share, 1, false, false⟩ sec).2 i = secByte x.data i)
         ∧ t.waves = s.waves ∧ t.gangs = s.gangs)
     ∧ (∀ (s : State) (d line : Nat), (∃ p : Nat × Sector, p ∈ (s.die d).victim ∧ p.1 / 8 = line) →
       (∀ p : Nat × Sector, p ∈ (s.die d).victim → p.1 / 8 = line →
         s.paOn ⟨0, p.2.dev, d, none, none⟩ (line * 128) = true) →
       ∃ (t : State), exec (.l2VictimWriteback d line) s = .next t ∧ (∀ p : Nat × Sector, p ∈ (t.die d).victim → p.1 / 8 ≠ line)
         ∧ (∀ (sec : Nat) (x : Sector), sec / 8 = line → rising (s.die d).victim →
             (s.die d).victim.find sec = some x → soleIn (s.die d).victim sec → inMemory t sec x)
         ∧ t.waves = s.waves ∧ t.gangs = s.gangs)
     ∧ (∀ (s : State) (idx : Nat) (r : Redg), s.redgs[idx]? = some r →
       (∀ x ∈ s.redgs.take idx, x.wave ≠ r.wave) → s.paOn (redgObs r) r.pa = true →
       ∃ (t : State), exec (.redgUpdate idx) s = .next t ∧ t.redgs = s.redgs.eraseIdx idx
         ∧ (r.fn ≤ 9 → r.val.toNat < 2 ^ (8 * r.sz) → r.pa % 16 + r.sz ≤ 16 → (s.paKind r.pa).isMem = true →
           let old := natOf (seen { s with redgs := s.redgs.eraseIdx idx } (redgObs r) (redgLeaf r) .place r.pa r.sz)
           (r.redir = none → natOf (seen t (redgObs r) (redgLeaf r) .place r.pa r.sz)
             = atomSpec r.fn r.sz old r.val.toNat 0)
           ∧ (∀ dst bar g, r.redir = some (dst, bar) → s.gangs.find r.gang = some g →
             (dst + r.sz ≤ bar ∨ bar + 16 ≤ dst) → g.barOk bar = true → 1 < (g.bar bar).pend →
             ∃ (g' : Gang), t.gangs.find r.gang = some g' ∧ g'.scrNat dst r.sz = old
               ∧ (g'.bar bar).pend = (g.bar bar).pend - 1 ∧ (g'.bar bar).gen = (g.bar bar).gen))))

/-! ## Queues and barriers -/

/-- R208-R212, R237: the queue instructions: binding and initialising, or ILLEGAL with DETAIL 8, naming the field
of the offset for a header or entries that R206 refuses and B for the operand (R137); sending and receiving when the queue has
room or entries and no older request waits, asking, and waiting. A vector form with no active lane moves nothing
and does not wait; `QPUSH` is a release point even then (R210), `QPOP` and `QTRY` no acquire point (log 21). Over
bytes that a matrix instruction or a redirected old value of the wave has yet to read or write, they wait
(R108).
R210: a queue is first in, first out: entries sent to an empty queue, no more than it holds, come out
in the order sent, each at the entry size; sending takes allowance and keeps the head. -/
def Obligations.Queues : Prop :=
  (∀ (o : WOp) (s : State) (k : Nat) (w : Wave) (g : Gang), At s k w → inGang s w g →
     (w.guardGrp o.guard = true →
       (w.off32 o.a.toNat % 32 = 0 → g.inBounds (w.off32 o.a.toNat) 32 = true →
         exec (.qbind o) s = .next (s.retire k (w.setQ o.d.toNat (w.off32 o.a.toNat)) o.len)
         ∧ (∀ cap esz allow, bindOperand (w.greg o.b.toNat).toNat = some (cap, esz, allow) →
             g.inBounds (w.off32 o.a.toNat) (32 + cap * (if esz = 0 then 8 else 16)) = true →
             s.redgBusy k = false → s.queBusy k g (w.off32 o.a.toNat) = false →
             exec (.qbindInit o) s = .next (((s.setGang w.gang (g.setQue (w.off32 o.a.toNat)
               { g.que (w.off32 o.a.toNat) with
                 head := 0, tail := 0, cap := cap, esz := esz, rsv0 := 0, allow := allow, rsv1 := 0 })).retire k
                 (w.setQ o.d.toNat (w.off32 o.a.toNat)) o.len).qretry w.gang (w.off32 o.a.toNat)))
         ∧ (bindOperand (w.greg o.b.toNat).toNat = none → exec (.qbindInit o) s = .next (illegalAt s k w 40))
         ∧ (∀ cap esz allow, bindOperand (w.greg o.b.toNat).toNat = some (cap, esz, allow) →
             g.inBounds (w.off32 o.a.toNat) (32 + cap * (if esz = 0 then 8 else 16)) = false →
             exec (.qbindInit o) s = .next (illegalAt s k w 32)))
       ∧ ((w.off32 o.a.toNat % 32 ≠ 0 ∨ g.inBounds (w.off32 o.a.toNat) 32 = false) →
         exec (.qbind o) s = .next (illegalAt s k w 32) ∧ exec (.qbindInit o) s = .next (illegalAt s k w 32)))
     ∧ (s.queueBusy k w g o.b.toNat = true → (o.grp = true → w.guardGrp o.guard = true) →
         exec (.qpush o) s = .next s ∧ exec (.qpop o) s = .next s ∧ exec (.qtry o) s = .next s
           ∧ exec (.qstat o) s = .next s)
     ∧ (∀ off, boundTo w g o.b.toNat (some (o.m.toNat % 2)) off → (o.grp = true → w.guardGrp o.guard = true) →
         s.queueBusy k w g o.b.toNat = false →
         let q := g.que off
         let n := w.qcount o
         (o.grp = false → w.active o.guard = [] →
           (s.relBusy k = false → exec (.qpush o) s = .next ((s.releasePoint k w false).retire k w o.len))
           ∧ (s.redgBusy k = false → exec (.qpop o) s = .next (s.retire k w o.len)
             ∧ exec (.qtry o) s = .next (s.retire k w o.len)))
         ∧ (w.qsources o ≠ [] → s.relBusy k = false → (w.qsources o).length ≤ q.allow →
           s.qblocked w.gang off true = [] →
           exec (.qpush o) s = .next ((((s.releasePoint k w false).setGang w.gang
             (g.pushEntries off (w.qsources o))).retire k w o.len).qretry w.gang off))
         ∧ (n ≠ 0 → s.redgBusy k = false → n ≤ q.count → s.qblocked w.gang off false = [] →
           exec (.qpop o) s = .next ((((s.setGang w.gang (g.dropEntries off n)).acquirePoint k w).retire k
               (w.qdeliver o (g.peekEntries off n)) o.len).qretry w.gang off)
           ∧ exec (.qtry o) s = .next ((((s.setGang w.gang (g.dropEntries off n)).acquirePoint k w).retire k
               ((w.qdeliver o (g.peekEntries off n)).qtryPred o true) o.len).qretry w.gang off))
         ∧ (n ≠ 0 → s.redgBusy k = false → q.count < n → n ≤ q.allow + q.count →
           exec (.qtry o) s = .next (s.retire k (w.qtryPred o false) o.len)
           ∧ exec (.qpop o) s = .next ((s.setGang w.gang (g.markWait off false w.qbit true)).waitOn k w .pop
               off 0 (.qpop o))))
     ∧ (∀ off, boundTo w g o.b.toNat none off → (o.grp = true → w.guardGrp o.guard = true) →
         s.queueBusy k w g o.b.toNat = false → s.redgBusy k = false →
         exec (.qstat o) s = .next (s.retire k (w.setG o.d.toNat (BitVec.ofNat 64
           ((g.que off).count + (g.que off).allow * 2 ^ 32 + (g.que off).esz * 2 ^ 48
             + Nat.log2 (g.que off).cap * 2 ^ 56))) o.len)))
  ∧ (∀ (g : Gang) (off : Nat) (es : List Nat), (g.que off).count = 0 → es.length ≤ (g.que off).cap →
       es.length ≤ (g.que off).allow →
       (g.pushEntries off es).peekEntries off es.length
           = es.map (fun x => x % 2 ^ (8 * (g.que off).ebytes))
       ∧ ((g.pushEntries off es).que off).allow = (g.que off).allow - es.length
       ∧ ((g.pushEntries off es).que off).head = (g.que off).head
       ∧ ((g.pushEntries off es).que off).tail = ((g.que off).tail + es.length) % 2 ^ 32)

/-- R44, R215-R219, R237: the barrier instructions. They wait while an earlier access of the wave has yet to
reach the object's bytes; `BAR.EXP` adds to the field that M names, or sets OVER (ERR bit 5) and leaves
the field; `BAR.ARR` takes its arrivals from PEND, or sets UNDER (bit 4) and leaves zero.
R44: the arrival that takes the last of PEND, with IN and OUT zero, completes the generation: GEN moves
on modulo 16 and PEND starts again at EXPECT. -/
def Obligations.Barriers : Prop :=
  (∀ (o : WOp) (s : State) (k : Nat) (w : Wave) (g : Gang), At s k w → inGang s w g →
     w.guardGrp o.guard = true →
     let off := w.off32 o.a.toNat
     let b := g.bar off
     let v := w.barVal o
     (g.barOk off = true → s.redgBusy k || s.scrBusy k off 16 = true →
       exec (.barWait o) s = .next s ∧ exec (.yield o) s = .next s ∧ exec (.barExp o) s = .next s
         ∧ (0 < v → v < 2 ^ 16 → exec (.barInit o) s = .next s))
     ∧ (g.barOk off = true → s.relBusy k = true → exec (.barArr o) s = .next s)
     ∧ (g.barOk off = true → 0 < v → v < 2 ^ 16 → s.redgBusy k = false → s.scrBusy k off 16 = false →
       exec (.barInit o) s = .next (((s.setGang w.gang { g.setBar off ⟨0, v, v, 0, 0, 0, 0, 0⟩ with
         bars := nubNat (off :: g.bars) }).retire k w o.len).wakeOn w.gang off (fun _ => true) 0x40))
     ∧ (∀ c, g.barFull off = true → c = (if o.m = 1 then (w.greg o.b.toNat).toNat % 2 ^ 16 else 1) → c ≠ 0 →
       s.relBusy k = false →
       exec (.barArr o) s = .next (((s.releasePoint k w false).retire k
         (w.setG o.d.toNat (BitVec.ofNat 64 b.gen)) o.len).putBar w.gang off (b.arrive c) true))
     ∧ (g.waitable off = true → s.redgBusy k = false → s.scrBusy k off 16 = false →
       let t := if o.m = 1 then b.gen else (w.greg o.b.toNat).toNat % 16
       (b.err ≠ 0 → exec (.barWait o) s = .next ((s.acquirePoint k w).retire k
         (w.setG o.d.toNat (BitVec.ofNat 64 b.err)) o.len))
       ∧ (b.err = 0 → b.gen ≠ t →
         exec (.barWait o) s = .next ((s.acquirePoint k w).retire k (w.setG o.d.toNat 0) o.len))
       ∧ (b.err = 0 → b.gen = t → exec (.barWait o) s = .next (s.waitOn k w .barrier off t (.barWait o)))
       ∧ (b.err ≠ 0 → exec (.yield o) s = .next ((s.acquirePoint k w).retireAt k
         (w.setG o.d.toNat (BitVec.ofNat 64 b.err)) (w.pc + o.off24 * 8)))
       ∧ (b.err = 0 → exec (.yield o) s = .next (s.waitOn k w .yield off b.gen (.yield o))))
     ∧ (g.barFull off = true → v < (if o.m = 2 then 2 ^ 16 else 2 ^ 24) → s.redgBusy k = false →
       s.scrBusy k off 16 = false →
       exec (.barExp o) s
         = .next ((s.retire k w o.len).putBar w.gang off (b.expect' o.m.toNat v) false)
       ∧ (o.m.toNat ≤ 2 → let lim := if o.m = 2 then 2 ^ 16 else 2 ^ 24
          let f := fun (x : Bar) => if o.m = 0 then x.inn else if o.m = 1 then x.out else x.pend
          let b' := b.expect' o.m.toNat v
          (f b + v < lim → f b' = f b + v ∧ b'.err = b.err)
          ∧ (lim ≤ f b + v → f b' = f b ∧ b'.err = b.err ||| 2 ^ 5)
          ∧ b'.gen = b.gen ∧ b'.expect = b.expect ∧ (o.m ≠ 0 → b'.inn = b.inn)
          ∧ (o.m ≠ 1 → b'.out = b.out) ∧ (o.m = 0 ∨ o.m = 1 → b'.pend = b.pend)))
     ∧ (∀ c, (c ≤ b.pend → (b.arrive c).pend = b.pend - c ∧ (b.arrive c).err = b.err)
         ∧ (b.pend < c → (b.arrive c).pend = 0 ∧ (b.arrive c).err = b.err ||| 2 ^ 4)
         ∧ (b.arrive c).gen = b.gen ∧ (b.arrive c).expect = b.expect ∧ (b.arrive c).inn = b.inn
         ∧ (b.arrive c).out = b.out))
  ∧ (∀ (s : State) (gn off : Nat) (g : Gang), s.gangs.find gn = some g →
       let b := g.bar off
       0 < b.pend → b.inn = 0 → b.out = 0 →
       ∃ (g' : Gang), ((s.putBar gn off (b.arrive b.pend) true).gangs.find gn) = some g'
         ∧ (g'.bar off).gen = (b.gen + 1) % 16 ∧ (g'.bar off).pend = b.expect
         ∧ (g'.bar off).err = b.err ∧ (g'.bar off).expect = b.expect
         ∧ ∀ a, ¬ (off ≤ a ∧ a < off + 16) → g'.scratch.getD a 0 = g.scratch.getD a 0)
/-! ## Copy engines -/

/-- R220, R221, R272: `CE.START` with legal operands, nothing of the wave outstanding, and a free program
slot and footprint entry starts the program: at G[A], E0-E3 from G[A+1]-G[A+4], the other registers zero,
the default barrier from G[A+5], running unless `DBG.HOLD` holds it; and D holds its handle. A failed check
is ILLEGAL (cause 2) with DETAIL 8. The lowest free slot is log 99. It waits for the wave's earlier accesses,
and for a job whose footprint holds the footprint block (R110).
R222: `CE.WAIT` of a legal handle writes D at once when the program has halted (0), faulted (1 and the
cause), been cancelled (2) or is not there (3); otherwise the wave waits. With `REDG` updates of the wave
outstanding it stands still (log 142). -/
def Obligations.Engines : Prop :=
  (∀ (o : WOp) (s : State) (k : Nat) (w : Wave) (g : Gang), At s k w → inGang s w g →
     w.guardGrp o.guard = true →
     let a := o.a.toNat
     let c := slotCore k
     let fp := (w.greg (a + 6)).toNat
     (s.relBusy k = true → exec (.ceStart o) s = .next s)
     ∧ (∀ j, s.relBusy k = false → s.blockHeld w fp = some j →
       exec (.ceStart o) s = .next (s.waitOn k w .footprint j 0 (.ceStart o)))
     ∧ (∀ ranges slot, startCheck w g a = .ok ranges → s.relBusy k = false → s.blockHeld w fp = none →
       (s.engine c).freeSlot = some slot → s.fpRoom c ranges = true →
       ∃ (t : State) (p : Prog), exec (.ceStart o) s = .next (t.retire k (w.setG o.d.toNat
           (BitVec.ofNat 64 (slot + w.wg * 2 ^ 8 + (s.engine c).starts * 2 ^ 16))) o.len)
         ∧ t.waves = s.waves ∧ t.prog? c slot = some p
         ∧ p.cpc = w.greg a ∧ (∀ i < 4, p.getE i = w.greg (a + 1 + i)) ∧ (∀ i, 4 ≤ i → p.getE i = 0)
         ∧ p.d = [] ∧ p.l = [] ∧ p.frec = 0 ∧ p.dbar = (w.greg (a + 5)).setWidth 32
         ∧ p.st = (if s.holds g.ctx (·.holdCe) then 6 else 1)
         ∧ (t.engine c).starts = ((s.engine c).starts + 1) % 2 ^ 32)
     ∧ (∀ r, startCheck w g a = .error r → s.relBusy k = false → s.blockHeld w fp = none → exec (.ceStart o) s = .next (takeTrap s k w
         (trapRec w 2 8 0 s.insn.1 s.insn.2 0 (BitVec.ofNat 64 (32 + 39 * 256))))))
  ∧ (∀ (o : WOp) (s : State) (k : Nat) (w : Wave) (g : Gang) (slot wg seq : Nat), At s k w →
       inGang s w g → w.guardGrp o.guard = true → slot ≤ 7 → wg < g.cores.length → wg < 4 → seq < 2 ^ 32 →
       (w.greg o.a.toNat).toNat = slot + wg * 2 ^ 8 + seq * 2 ^ 16 →
       (s.redgBusy k = true → exec (.ceWait o) s = .next s) ∧ (s.redgBusy k = false →
       let ends := fun (v : Nat) => exec (.ceWait o) s = .next ((s.acquirePoint k w).retire k
         (w.setG o.d.toNat (BitVec.ofNat 64 v)) o.len)
       let e := nth g.cores wg 0
       (s.prog? e slot = none → ends 3)
       ∧ (∀ p, s.prog? e slot = some p →
         (p.seq ≠ seq → ends 3)
         ∧ (p.seq = seq → p.st = 4 → ends 0)
         ∧ (p.seq = seq → p.st = 3 → ends (1 + (p.frec.extractLsb' 0 16).toNat * 2 ^ 16))
         ∧ (p.seq = seq → p.st = 7 → ends 2)
         ∧ (p.seq = seq → p.st ∈ [1, 2, 5, 6, 8] → exec (.ceWait o) s
             = .next (s.waitOn k w .copy (w.greg o.a.toNat).toNat 0 (.ceWait o))))))

/-- R276, R277: every integer command, in each form, sets E[d] to its exact result modulo 2⁶⁴ and changes
nothing else of the program or the package but CPC; so do `LI`, `LIH` and `GETL`. -/
def Obligations.CommandArithmetic : Prop :=
  ∀ (s : State) (e slot : Nat) (p : Prog), AtProg s e slot p →
    (∀ x ∈ ceOps,
      (∀ o : Ce3, exec (x.reg o) s = .next (setsE s e slot p o.d.toNat 4
        (x.val (p.getE o.a.toNat) (p.getE o.b.toNat))))
      ∧ (∀ o : CeI, exec (x.imm o) s = .next (setsE s e slot p o.d.toNat 4
        (x.val (p.getE o.a.toNat) (BitVec.ofInt 64 o.i.toInt))))
      ∧ (∀ o : CeX, exec (x.ext o) s = .next (setsE s e slot p o.d.toNat 8
        (x.val (p.getE o.a.toNat) (BitVec.ofInt 64 o.x.toInt)))))
    ∧ (∀ d i, exec (.li d i) s = .next (setsE s e slot p d.toNat 4 i.toInt))
    ∧ (∀ d x, exec (.liExt d x) s = .next (setsE s e slot p d.toNat 8 x.toInt))
    ∧ (∀ d x, exec (.lih d x) s = .next (setsE s e slot p d.toNat 8
        ((p.getE d.toNat).toNat % 2 ^ 32 + x.toNat * 2 ^ 32)))
    ∧ (∀ d k, exec (.getl d k) s = .next (setsE s e slot p d.toNat 4
        ((p.l.getD k.toNat 0).toNat % 2 ^ 32 : Nat)))
    ∧ (∀ d v, (p.setE d v).getE d = v ∧ ∀ r, r ≠ d → (p.setE d v).getE r = p.getE r)

/-- R278, R279: branches and jumps go to CPC + 4 × offset exactly when their condition holds; `LOOP` sets
L[k] and enters its body or goes past its `ENDL`; `ENDL` counts and goes back while INDEX is below
COUNT; an IMM9 of 0 faults with CE.ILLEGAL and changes no register. -/
def Obligations.CommandBranches : Prop :=
  ∀ (s : State) (e slot : Nat) (p : Prog), AtProg s e slot p →
    (∀ x ∈ brOps,
      (∀ o : CeBr, exec (x.reg o) s = .next (branches s e slot p
        (x.cond (p.getE o.a.toNat) (p.getE o.b.toNat)) o.off.toInt 4))
      ∧ (∀ o : CeBr, exec (x.imm o) s = .next (branches s e slot p
        (x.cond (p.getE o.a.toNat) (BitVec.ofInt 64 o.b.toInt)) o.off.toInt 4))
      ∧ (∀ o : CeBrX, exec (x.ext o) s = .next (branches s e slot p
        (x.cond (p.getE o.a.toNat) (if o.imm then BitVec.ofInt 64 o.b.toInt else p.getE o.b.toNat))
          o.x.toInt 8)))
    ∧ (∀ off, exec (.jmp off) s = .next (branches s e slot p true off.toInt 4))
    ∧ (∀ x, exec (.jmpExt x) s = .next (branches s e slot p true x.toInt 8))
    ∧ (∀ k a i, i ≠ 0 → exec (.loop k a i) s =
        let n := (p.getE a.toNat).toNat % 2 ^ 32
        .next (branches s e slot { p with l := p.l.set k.toNat 0 (BitVec.ofNat 64 (n * 2 ^ 32)) }
          (decide (n = 0)) (i.toNat + 1) 4))
    ∧ (∀ k x i, i ≠ 0 → exec (.loopImm k x i) s =
        .next (branches s e slot { p with l := p.l.set k.toNat 0 (BitVec.ofNat 64 (x.toNat * 2 ^ 32)) }
          (decide (x = 0)) (i.toNat + 1) 8))
    ∧ (∀ k i, i ≠ 0 → exec (.endl k i) s =
        let v := (p.l.getD k.toNat 0).toNat
        let n := (v + 1) % 2 ^ 32
        .next (branches s e slot { p with
            l := p.l.set k.toNat 0 (BitVec.ofNat 64 (n + v / 2 ^ 32 * 2 ^ 32)) }
          (decide (n < v / 2 ^ 32)) (-i.toNat) 4))
    ∧ (∀ k a x, ∀ i ∈ [Instr.loop k a 0, .loopImm k x 0, .endl k 0],
        ∃ (t : State), exec i s = .next t ∧ Stopped t e slot p .illegal 0)

/-- R280, R281, R291, R294: while a transfer in flight holds its bytes a scalar access stands still. A load whose checks pass puts the bytes read, extended, in E[d]; a store whose checks
pass writes the low bytes of E[d]; `DLD` puts 64 bytes in D[k]. A failed check faults with its cause and
address, and no register of the program changes. In scratch the checks are the bounds and the alignment. -/
def Obligations.CommandMemory : Prop :=
  ∀ (s : State) (e slot : Nat) (p : Prog), AtProg s e slot p →
    (∀ (o : CeMem) (a n : Nat), n = 2 ^ o.z.toNat → (a : Int) = formsAddr p o.a o.b o.x n →
      (∀ i ∈ [Instr.ld o, .ldBase o, .ldDisp o], ¬ xferFree s e p false o.sp a n → exec i s = .next s)
      ∧ (∀ i ∈ [Instr.st o, .stBase o, .stDisp o], ¬ xferFree s e p true o.sp a n → exec i s = .next s)
      ∧ (∀ i ∈ [Instr.ld o, .ldBase o, .ldDisp o], xferFree s e p false o.sp a n →
        (∀ s1 bs, s.progRead e p o.sp a n n = (s1, .ok bs) → bs.length = n →
          exec i s = .next (setsE s1 e slot p o.d.toNat (cmdLen o.x) (loaded n o.sx bs)))
        ∧ (∀ s1 c fa, s.progRead e p o.sp a n n = (s1, .error (c, fa)) →
          ∃ (t : State), exec i s = .next t ∧ Stopped t e slot p c fa))
      ∧ (∀ i ∈ [Instr.st o, .stBase o, .stDisp o], xferFree s e p true o.sp a n →
        (∀ s1, s.progWrite e p o.sp false a n (bytesOf n (p.getE o.d.toNat).toNat) = (s1, none) →
          exec i s = .next (goesTo s1 e slot p (cmdLen o.x)))
        ∧ (∀ s1 c fa, s.progWrite e p o.sp false a n (bytesOf n (p.getE o.d.toNat).toNat)
            = (s1, some (c, fa)) →
          ∃ (t : State), exec i s = .next t ∧ Stopped t e slot p c fa)))
    ∧ (∀ (o : CeDld) (a : Nat) (s1 : State) bs, (a : Int) = formsAddr p o.a o.b o.x 64 →
      xferFree s e p false o.sp a 64 → s.progRead e p o.sp a 64 16 = (s1, .ok bs) →
      ∀ i ∈ [Instr.dld o, .dldBase o, .dldDisp o],
        exec i s = .next (goesTo s1 e slot
          { p with d := p.d.set o.k.toNat 0 (BitVec.ofNat 512 (natOf bs)) } (cmdLen o.x)))
    ∧ (∀ (g : Gang) (a n al : Nat), s.progGang p = some g → a < 2 ^ 32 →
      s.progRead e p true a n al = (s, if g.inBounds a n = false then .error (.bound, a)
        else if a % al ≠ 0 then .error (.align, a)
        else .ok ((List.range n).map (fun i => g.scratch.getD (a + i) 0))))

/-- R87, R281, R282: `DSET` replaces the field of D[k] that its code names and leaves every other bit; codes
17-31 fault with CE.UNIMPL. `ADDR` of a valid descriptor with no indirect dimension gives BASE plus the
element number times the element's size, and all ones when `.chk` finds a coordinate outside. -/
def Obligations.CommandDescriptors : Prop :=
  ∀ (s : State) (e slot : Nat) (p : Prog), AtProg s e slot p →
    (∀ (k : BitVec 3) (f a : BitVec 5) (x : BitVec 32) (v : W64) (i : Instr),
      ((i = .dset k f a ∧ v = p.getE a.toNat) ∨ (i = .dsetExt k f x ∧ v = BitVec.ofInt 64 x.toInt)) →
      (∀ lo n, (f.toNat, lo, n) ∈ [(0, 0, 64), (1, 64, 64), (2, 128, 32), (3, 160, 32), (4, 192, 32),
          (5, 224, 32), (6, 256, 32), (7, 288, 32), (8, 320, 36), (9, 356, 36), (10, 392, 36),
          (11, 428, 36), (12, 464, 36), (13, 500, 4), (14, 504, 3), (15, 507, 3), (16, 510, 2)] →
        ∃ (y : BitVec 512), exec i s = .next (goesTo s e slot { p with d := p.d.set k.toNat 0 y }
            (if i = .dset k f a then 4 else 8))
          ∧ ∀ j < 512, y.getLsbD j =
            if lo ≤ j ∧ j < lo + n then v.getLsbD (j - lo) else (p.d.getD k.toNat 0).getLsbD j)
      ∧ (17 ≤ f.toNat →
        ∃ (t : State), exec i s = .next t ∧ Stopped t e slot p .unimpl 0))
    ∧ (∀ (d a : BitVec 5) (k : BitVec 3) (chk : Bool),
      let t := TDesc.ofNat (p.d.getD k.toNat 0).toNat
      let cs := (List.range t.rank).map (fun i => (p.getE (a.toNat + i)).toNat)
      t.valid = true → a.toNat + t.rank ≤ 32 →
      (chk = true → (∃ i < t.rank, t.extent i ≤ nth cs i 0) →
        exec (.addr d a k chk) s = .next (setsE s e slot p d.toNat 4 (-1)))
      ∧ (t.ind = 0 → t.fmt ≠ 0 → (chk = true → ∀ i < t.rank, nth cs i 0 < t.extent i) →
        exec (.addr d a k chk) s = .next (setsE s e slot p d.toNat 4
          (t.base + ((List.range t.rank).map (fun i => (nth cs i 0 : Int) * t.stride i)).sum
            * (t.bits / 8)))))

/-- R289, R291, R292, R217, R218, R101, R119: the synchronising commands of a program with nothing in flight;
`ARRIVE`, `SIG`, `FENCE`, `GSUB` and `HALT` stand still until its transfers are done. `SIG` stores its eight
bytes at the word's serialisation point after a release, a host-visible one when a page is of scope PART or
wider, once the islands on its way perform. `WAITX` answers the status of a barrier with an error (its ERR bit
7 is reserved and reads as zero: log 27) or 0 when the generation has moved on, and otherwise the program waits
on the object and the generation; it stands still while a transfer in flight writes its object. A program of a
COPY record has no scratch: `WAITX`, `ARRIVE` and `GSUB` stop it with CE.SPACE (their FADDR is log 33's), and its
launch then completes with STATUS 8 and that cause (R298, R333). CE_ILLEGAL stops a program with its cause. -/
def Obligations.CommandSync : Prop :=
  ∀ (s : State) (e slot : Nat) (p : Prog), AtProg s e slot p →
    exec .nop s = .next (goesTo s e slot p 4)
    ∧ (p.inFlight = false → exec .ceFence s = .next (goesTo
        ((s.release (s.progObs e p) false).acquire (s.progObs e p)) e slot p 4))
    ∧ (p.inFlight = true → exec .ceFence s = .next s ∧ exec .halt s = .next s
        ∧ (∀ a b, exec (.sig a b) s = .next s) ∧ (∀ d a, exec (.arrive d a) s = .next s)
        ∧ (∀ o, exec (.arriveN o) s = .next s) ∧ (∀ a x, exec (.gsub a x) s = .next s))
    ∧ (∀ gn g, p.inFlight = false → p.owner.gang = some gn → s.gangs.find gn = some g →
        ∃ (t : State) (q : Prog), exec .halt s = .next t ∧ t.prog? e slot = some q ∧ q = { p with st := 4 }
          ∧ ∀ c, ∀ f ∈ (t.core c).fps, f.job ≠ p.job)
    ∧ (∀ a b, s.slicesOn (s.progObs e p) [((p.getE a.toNat).toNat, 8)] = false → exec (.sig a b) s = .next s)
    ∧ (∀ a b s1, p.inFlight = false → s.slicesOn (s.progObs e p) [((p.getE a.toNat).toNat, 8)] = true →
        (∀ ps, s.engCheck (s.progObs e p) (s.progGang p) false .write true (p.getE a.toNat).toNat 8 8
          = (s1, .ok (.glb ps)) →
        exec (.sig a b) s = .next (goesTo ((s1.release (s.progObs e p)
          (ps.any (fun x => decide (3 ≤ x.leaf.share)))).writePieces (s.progObs e p) .place ps
            (bytesOf 8 (p.getE b.toNat).toNat)) e slot p 4))
        ∧ (∀ c fa, s.engCheck (s.progObs e p) (s.progGang p) false .write true (p.getE a.toNat).toNat 8 8
          = (s1, .error (c, fa)) →
          ∃ (t : State), exec (.sig a b) s = .next t ∧ Stopped t e slot p c fa))
    ∧ (∀ (o : Ce3) gn g off, p.owner.gang = some gn → s.gangs.find gn = some g →
        off = (if (p.getE o.a.toNat).toNat % 2 ^ 32 = 0xFFFFFFFF then p.dbar.toNat
               else (p.getE o.a.toNat).toNat % 2 ^ 32) →
        off ≠ 0xFFFFFFFF → g.barOk off = true →
        let b := g.bar off
        let st := b.err % 128
        let done := fun (v : Nat) => setsE (s.acquire (s.progObs e p)) e slot p o.d.toNat 4 v
        let waits := fun (gen : Nat) => Host.Outcome.next { s.setProg e slot { p with
          st := 2, waitObj := off, waitGen := gen, waitReg := o.d.toNat, ord := s.nextOrder } with
            nextOrder := s.nextOrder + 1 }
        (s.xferHolds e p false (granules true off 16) = true →
          exec (.waitx o) s = .next s ∧ exec (.waitxCur o.d o.a) s = .next s)
        ∧ (s.xferHolds e p false (granules true off 16) = false →
          (st ≠ 0 → exec (.waitx o) s = .next (done st) ∧ exec (.waitxCur o.d o.a) s = .next (done st))
          ∧ (st = 0 → b.gen ≠ (p.getE o.b.toNat).toNat % 16 → exec (.waitx o) s = .next (done 0))
          ∧ (st = 0 → b.gen = (p.getE o.b.toNat).toNat % 16 → exec (.waitx o) s = waits b.gen)
          ∧ (st = 0 → exec (.waitxCur o.d o.a) s = waits b.gen))
        ∧ (p.inFlight = false →
          exec (.arrive o.d o.a) s = .next ((setsE (s.release (s.progObs e p) false) e slot p
            o.d.toNat 4 b.gen).modBar gn off true (fun y => y.arrive 1))
          ∧ ((p.getE o.b.toNat).toNat % 2 ^ 16 ≠ 0 →
            exec (.arriveN o) s = .next ((setsE (s.release (s.progObs e p) false) e slot p
              o.d.toNat 4 b.gen).modBar gn off true
              (fun y => y.arrive ((p.getE o.b.toNat).toNat % 2 ^ 16))))))
    ∧ (p.owner.gang = none → ∀ (o : Ce3) (sctr : Bool),
        (∀ i ∈ [Instr.waitx o, .waitxCur o.d o.a], ∃ (t : State), exec i s = .next t
          ∧ Stopped t e slot p .space 0)
        ∧ (p.inFlight = false → ∀ i fa, (i, fa) ∈ [(Instr.waitx o, 0), (.waitxCur o.d o.a, 0),
            (.arrive o.d o.a, 0), (.arriveN o, 0), (.gsub o.a sctr, (p.getE o.a.toNat).toNat)] →
          ∃ (s1 t : State), exec i s = .next t ∧ Stopped t e slot p .space fa
            ∧ t = s1.launchDone p.owner.ctx p.owner.launch 8 (CeCause.code .space).1
            ∧ ∀ x ∈ t.entries, ¬ (x.ctx = p.owner.ctx ∧ x.id = p.owner.launch)))
    ∧ (∀ c w0 w1 a, ∃ (t : State), exec (.ceIllegal c w0 w1 a) s = .next t
        ∧ Stopped t e slot p c a)

/-- R283-R288, R291: `XFER` whose block can be read and passes the checks starts the transfer, unless it has no
sector to write, and the program goes on; with four transfers in flight, or one that holds what it reads,
it stands still; a block that a check refuses faults with that check's cause (FADDR of CE.BAR is the offset
that failed: log 33). A sector of a transfer that nothing holds is performed: it leaves the transfer, and
the barrier has one count-down more. Of a plain transfer within scratch, each element of the sector then
holds the bytes of its source element, those of the nearest edge for EDGE = 2, of BG for EDGE = 1 and
zeros else, and no other byte of scratch has changed but the barrier's. -/
def Obligations.Transfers : Prop :=
  ∀ (s : State) (e slot : Nat) (p : Prog),
    (AtProg s e slot p → ∀ (a : BitVec 5) (sp : Bool),
      let at_ := spAddr sp (p.getE a.toNat).toNat
      (s.xferBusy e p sp at_ = true → exec (.xfer a sp) s = .next s)
      ∧ (4 ≤ (p.xfers.filter (fun x => !x.faulted)).length → s.xferBusy e p sp at_ = true)
      ∧ (∀ (s1 : State) c fa, s.xferBusy e p sp at_ = false →
        s.progRead e p sp at_ 128 16 = (s1, .error (c, fa)) →
        ∃ (t : State), exec (.xfer a sp) s = .next t ∧ Stopped t e slot p c fa)
      ∧ ∀ (s1 : State) bs, s.xferBusy e p sp at_ = false →
      s.progRead e p sp at_ 128 16 = (s1, .ok bs) →
      let b := natOf bs
      let sd := TDesc.ofNat (p.d.getD (b % 8) 0).toNat
      let dd := TDesc.ofNat (p.d.getD (b / 2 ^ 4 % 8) 0).toNat
      let chk := xCheck b sd dd (s1.progGang p) p.dbar
      (chk = none → b.testBit 15 = true → exec (.xfer a sp) s =
        .next (goesTo s1 e slot (starting s p b (xSpanSectors b dd (xCount b sd.rank))) 4))
      ∧ (∀ s2 todo, chk = none → b.testBit 15 = false → s1.xSectors e p b dd = (s2, .ok todo) →
        exec (.xfer a sp) s = .next (goesTo s2 e slot (starting s p b todo) 4))
      ∧ (∀ s2 c fa, chk = none → b.testBit 15 = false → s1.xSectors e p b dd = (s2, .error (c, fa)) →
        ∃ (t : State), exec (.xfer a sp) s = .next t ∧ Stopped t e slot p c fa)
      ∧ (∀ c fa, chk = some (c, fa) →
        ∃ (t : State), exec (.xfer a sp) s = .next t ∧ Stopped t e slot p c fa))
    ∧ (∀ (i n : Nat) (x : Xfer) (q : XSector), s.prog? e slot = some p → i < 4 →
      p.xfers[i]? = some x → x.todo[n]? = some q → x.faulted = false → p.isFree = false →
      s.xHeld e p i x q = false → s.xOff e p x q = false →
      (∀ s1 pk, s.xSector e p x q = (s1, .ok pk) →
        exec (.xferSector e slot (4 * n + i)) s = .next (sectorDone s1 e slot i n p x q pk))
      ∧ (∀ (t d : TDesc) (gn : Nat) (g : Gang), PlainXfer x t d → p.owner.gang = some gn →
        s.gangs.find gn = some g → q.elems.Nodup → p.st ≠ 3 → p.st ≠ 8 →
        let eb := d.bits / 8
        (∀ j ∈ q.elems, j < xBox x.block.toNat 0 ∧ plainDst x d j + eb ≤ 2 ^ 32 ∧ g.inBounds (plainDst x d j) eb = true
          ∧ (∀ bar, x.bar = some bar → bar + 16 ≤ plainDst x d j ∨ plainDst x d j + eb ≤ bar)
          ∧ ∀ f, plainFrom x t j = some f → f + eb ≤ 2 ^ 32 ∧ g.inBounds f eb = true
            ∧ ∀ j' ∈ q.elems, f + eb ≤ plainDst x d j' ∨ plainDst x d j' + eb ≤ f) →
        ∃ (u : State) (g' : Gang), exec (.xferSector e slot (4 * n + i)) s = .next u
          ∧ u.gangs.find gn = some g'
          ∧ (∀ j ∈ q.elems, ∀ m < eb, g'.scratch.getD (plainDst x d j + m) 0 = match plainFrom x t j with
            | some f => g.scratch.getD (f + m) 0
            | none => if xEDGE x.block.toNat = 1 then
                BitVec.ofNat 8 (xBG x.block.toNat / 2 ^ (8 * m)) else 0)
          ∧ (∀ a, (∀ j ∈ q.elems, ¬ (plainDst x d j ≤ a ∧ a < plainDst x d j + eb)) →
            (∀ bar, x.bar = some bar → ¬ (bar ≤ a ∧ a < bar + 16)) →
            g'.scratch.getD a 0 = g.scratch.getD a 0)))
    ∧ (∀ (b : Bar) (out : Bool),
      let f := fun (y : Bar) => if out then y.out else y.inn
      (f b ≠ 0 → f (b.count out) = f b - 1 ∧ (b.count out).err = b.err)
      ∧ (f b = 0 → f (b.count out) = 0 ∧ (b.count out).err = b.err ||| 2 ^ 4)
      ∧ (b.count out).pend = b.pend ∧ (b.count out).gen = b.gen ∧ (b.count out).expect = b.expect)

/-- R223-R227, R290, R110: `GTHR`, `SCTR` and `GSUB` with a legal block, nothing outstanding and room start the
job and go on, and its sectors are charged to IN, or OUT, of its barrier, which takes OVER (ERR bit 5) and no
job where the charge would overflow. A wave waits for its earlier accesses, for a footprint that holds the
block, for a unit or for a footprint entry; a `GSUB` without room waits, and the unit accepts its job, and charges
it, once there is room, its program then going on. A gather's sector writes 16 bytes of the row that the position's
index names, zeros for a null index, each row read once in a run of 4,096 positions; a scatter's folds 16
bytes of data into the row, and passes over a null index; each counts down. A failed access ends the job with
GTF (ERR bit 1). The order of a job's sectors is log 40. -/
def Obligations.GatherJobs : Prop :=
  (∀ (o : WOp) (s : State) (k : Nat) (w : Wave) (g : Gang) (u : Nat), At s k w → inGang s w g →
    w.guardGrp o.guard = true → w.wait = none →
    let off := w.off32 o.a.toNat
    let b := g.scrNat off 64
    let bar := gBar b
    ∀ x ∈ [(Instr.gthr o, false), (.sctr o, true)],
      let f := fun (y : Bar) => if x.2 then y.out else y.inn
      (s.relBusy k = true → exec x.1 s = .next s)
      ∧ (∀ n, s.relBusy k = false → s.blockHeld w off = some n →
        exec x.1 s = .next (s.waitOn k w .footprint n 0 x.1))
      ∧ (s.relBusy k = false → s.blockHeld w off = none → off % 16 = 0 → g.inBounds off 64 = true →
        gBlockOk g b x.2 = true →
        (jobRoom s (slotCore k) u b x.2 → ∃ (t : State) (w' : Wave), exec x.1 s = .next t
          ∧ t.waves.find k = some w' ∧ w'.pc = after w o ∧ w'.regs = w.regs
          ∧ (bar = 0xFFFFFFFF ∨ f (g.bar bar) + gTotal b < 2 ^ 24 →
            ∃ j, t.gjobs = s.gjobs ++ [j] ∧ j.block = BitVec.ofNat 512 b
            ∧ j.sctr = x.2 ∧ j.accepted = true ∧ j.unit = u ∧ j.next = 0 ∧ j.core = slotCore k)
          ∧ (bar ≠ 0xFFFFFFFF → f (g.bar bar) + gTotal b < 2 ^ 24 → ∃ (g' : Gang),
            t.gangs.find w.gang = some g' ∧ f (g'.bar bar) = f (g.bar bar) + gTotal b)
          ∧ (bar ≠ 0xFFFFFFFF → 2 ^ 24 ≤ f (g.bar bar) + gTotal b → t.gjobs = s.gjobs ∧ ∃ (g' : Gang),
            t.gangs.find w.gang = some g' ∧ (g'.bar bar).err = (g.bar bar).err ||| 2 ^ 5))
        ∧ (s.freeUnit (coreDie (slotCore k)) = none →
          exec x.1 s = .next (s.waitOn k w .footprint (coreDie (slotCore k)) 3 x.1))
        ∧ (s.freeUnit (coreDie (slotCore k)) = some u → s.fpRoom (slotCore k) (gRanges b x.2) = false →
          exec x.1 s = .next (s.waitOn k w .footprint (slotCore k) 2 x.1))))
  ∧ (∀ (s : State) (e slot : Nat) (p : Prog) (gn u : Nat) (g : Gang) (a : BitVec 5) (sctr : Bool),
    AtProg s e slot p → p.owner.gang = some gn → s.gangs.find gn = some g → p.inFlight = false →
    let off := (p.getE a.toNat).toNat % 2 ^ 32
    let b := g.scrNat off 64
    let bar := gBar b
    let f := fun (y : Bar) => if sctr then y.out else y.inn
    off % 16 = 0 → g.inBounds off 64 = true → gBlockOk g b sctr = true →
    (s.freeUnit (engineDie e) = some u → s.fpRoom e (gRanges b sctr) = true → ∃ (t : State),
      exec (.gsub a sctr) s = .next t
      ∧ (bar = 0xFFFFFFFF ∨ p.st ≠ 2 → t.prog? e slot = some { p with cpc := p.cpc + 4 })
      ∧ (bar = 0xFFFFFFFF ∨ f (g.bar bar) + gTotal b < 2 ^ 24 → ∃ (j : GJob), t.gjobs = s.gjobs ++ [j]
        ∧ j.block = BitVec.ofNat 512 b ∧ j.sctr = sctr ∧ j.accepted = true ∧ j.unit = u)
      ∧ (bar ≠ 0xFFFFFFFF → f (g.bar bar) + gTotal b < 2 ^ 24 → ∃ (g' : Gang),
        t.gangs.find gn = some g' ∧ f (g'.bar bar) = f (g.bar bar) + gTotal b)
      ∧ (bar ≠ 0xFFFFFFFF → 2 ^ 24 ≤ f (g.bar bar) + gTotal b → t.gjobs = s.gjobs ∧ ∃ (g' : Gang),
        t.gangs.find gn = some g' ∧ (g'.bar bar).err = (g.bar bar).err ||| 2 ^ 5))
    ∧ (s.freeUnit (engineDie e) = none → ∃ (t : State) (j : GJob), exec (.gsub a sctr) s = .next t
        ∧ t.gjobs = s.gjobs ++ [j] ∧ j.accepted = false ∧ j.prog = some (e, slot)
        ∧ t.prog? e slot = some { p with st := 5 }))
  ∧ (∀ (s : State) (idx u gn : Nat) (g : Gang) (j : GJob), s.gjobs[idx]? = some j → j.accepted = false →
    s.freeUnit (coreDie j.core) = some u → s.fpRoom j.core (gRanges j.block.toNat j.sctr) = true →
    j.owner.gang = some gn → s.gangs.find gn = some g →
    let b := j.block.toNat
    let bar := gBar b
    let f := fun (y : Bar) => if j.sctr then y.out else y.inn
    bar = 0xFFFFFFFF ∨ g.barOk bar = true → ∃ (t : State), exec (.gatherUnitAccept idx) s = .next t
      ∧ (bar = 0xFFFFFFFF ∨ f (g.bar bar) + gTotal b < 2 ^ 24 → ∃ x, t.gjobs = s.gjobs.eraseIdx idx ++ [x]
        ∧ x.job = j.job ∧ x.accepted = true ∧ x.unit = u)
      ∧ (bar ≠ 0xFFFFFFFF → f (g.bar bar) + gTotal b < 2 ^ 24 → ∃ (g' : Gang),
        t.gangs.find gn = some g' ∧ f (g'.bar bar) = f (g.bar bar) + gTotal b)
      ∧ (bar ≠ 0xFFFFFFFF → 2 ^ 24 ≤ f (g.bar bar) + gTotal b → t.gjobs = s.gjobs.eraseIdx idx
        ∧ ∃ (g' : Gang), t.gangs.find gn = some g' ∧ (g'.bar bar).err = (g.bar bar).err ||| 2 ^ 5)
      ∧ ∀ e slot p, j.prog = some (e, slot) → s.prog? e slot = some p → bar = 0xFFFFFFFF ∨ p.st ≠ 2 →
          t.prog? e slot = some { p with st := 1, cpc := p.cpc + 4 })
  ∧ (∀ (s s1 : State) (idx i gn : Nat) (j : GJob), AtJob s idx j → j.owner.gang = some gn →
    let b := j.block.toNat
    let o := s.jobObs j.owner (coreDie j.core)
    let data := gData b + jobPos j * gStep b + 16 * jobSec j
    let row := (gTable b + i * gRow b) % 2 ^ 64
    rowIs s j s1 i →
    (j.sctr = false →
      ∀ (s2 : State) (r : List Byte),
        (if gNull b i then s2 = s1 ∧ r = rep (gRow b) 0
         else match (jobRows j).find i with
          | some y => s2 = s1 ∧ r = y
          | none => s1.readG o .engine false row (gRow b) = (s2, .ok r)) →
        let j1 : GJob := { j with
          next := j.next + 1, index := i,
          rows := if gNull b i then jobRows j else (jobRows j).put i r }
        (∀ g, gDsp b = true → s2.gangs.find gn = some g →
          (gBar b = 0xFFFFFFFF ∨ data + 16 ≤ gBar b ∨ gBar b + 16 ≤ data) →
          ∃ (t : State) (g' : Gang), exec (.gatherSector idx) s = .next t ∧ t.gangs.find gn = some g'
            ∧ jobAfter t s2 idx j { j1 with busy := [] } ∧ jobCounts s2 t j
            ∧ ∀ m < 16, 16 * jobSec j + m < r.length →
              g'.scratch.getD (data + m) 0 = nth r (16 * jobSec j + m) 0)
        ∧ (∀ s3, gDsp b = false →
          s2.writeG o .engine false (data % 2 ^ 64) ((r.drop (16 * jobSec j)).take 16) = (s3, none) →
          ∃ (t : State) (busy : List (Nat × Nat)), exec (.gatherSector idx) s = .next t
            ∧ jobAfter t s3 idx j { j1 with busy := busy } ∧ jobCounts s3 t j
            ∧ (gBar b = 0xFFFFFFFF → t.mem = s3.mem ∧ t.dies = s3.dies)))
    ∧ (j.sctr = true → gNull b i = true → ∃ (t : State), exec (.scatterSector idx) s = .next t
      ∧ jobAfter t s1 idx j { j with next := j.next + 1, index := i }
      ∧ jobCounts s1 t j ∧ (gBar b = 0xFFFFFFFF → t.mem = s1.mem ∧ t.dies = s1.dies))
    ∧ (j.sctr = true → gNull b i = false → ∀ (s2 s3 s4 : State) (v old : List Byte),
      (if gDsp b then s2 = s1 ∧ v = (((s1.gangs.find gn).map (fun g => g.scrRead data 16)).getD (rep 16 0))
       else s1.readG o .engine false (data % 2 ^ 64) 16 = (s2, .ok v)) →
      (if gOpc b = 3 then s3 = s2 ∧ old = v
       else s2.readG o .engine false ((gTable b + i * gRow b + 16 * jobSec j) % 2 ^ 64) 16 = (s3, .ok old)) →
      s3.writeG o .engine false ((gTable b + i * gRow b + 16 * jobSec j) % 2 ^ 64)
        (gFoldSec (gOpc b) (gEf b) old v) = (s4, none) →
      ∃ (t : State) (busy : List (Nat × Nat)), exec (.scatterSector idx) s = .next t
        ∧ jobAfter t s4 idx j { j with next := j.next + 1, index := i, busy := busy }
        ∧ jobCounts s4 t j ∧ (gBar b = 0xFFFFFFFF → t.mem = s4.mem ∧ t.dies = s4.dies)))
  ∧ (∀ (s s1 : State) (idx gn : Nat) (g : Gang) (er : XErr) (j : GJob), AtJob s idx j → jobSec j = 0 →
    j.owner.gang = some gn → s1.gangs.find gn = some g →
    s1 = (s.readG (s.jobObs j.owner (coreDie j.core)) .engine false
      ((gIndex j.block.toNat + jobPos j * gWidth j.block.toNat) % 2 ^ 64) (gWidth j.block.toNat)).1 →
    (s.readG (s.jobObs j.owner (coreDie j.core)) .engine false
      ((gIndex j.block.toNat + jobPos j * gWidth j.block.toNat) % 2 ^ 64) (gWidth j.block.toNat)).2
        = .error er →
    ∃ (t : State), exec (if j.sctr then .scatterSector idx else .gatherSector idx) s = .next t
      ∧ t.gjobs = s1.gjobs.eraseIdx idx
      ∧ (gBar j.block.toNat ≠ 0xFFFFFFFF → g.barOk (gBar j.block.toNat) = true → ∃ (g' : Gang),
        t.gangs.find gn = some g'
          ∧ (g'.bar (gBar j.block.toNat)).err = (g.bar (gBar j.block.toNat)).err ||| 2 ^ 1))
  ∧ (∀ (opc : Nat) (old v : List Byte), opc ≤ 3 → old.length = 16 → v.length = 16 →
    (opc = 3 → gFoldSec opc 4 old v = v)
    ∧ ∀ m < 4,
      let word := fun (l : List Byte) => natOf ((l.drop (4 * m)).take 4)
      let x := word old
      let y := word v
      let z := word (gFoldSec opc 4 old v)
      (opc = 0 → z = (x + y) % 2 ^ 32)
      ∧ (opc = 1 → sgnN z 32 = max (sgnN x 32) (sgnN y 32))
      ∧ (opc = 2 → sgnN z 32 = min (sgnN x 32) (sgnN y 32)))
/-! ## The matrix array -/

/-- R110, R206, R229, R231, R236, R237: a matrix instruction that nothing keeps waiting and whose operands pass
their checks, with the array free or claimed by its wave, claims it (at its issue, log 19) and joins the
array's order with the operands it read; with `.pair` it claims the leader's array and the follower's, and
where `.pair` is not allowed it is ILLEGAL; that the record of that trap names M (FLO 56, FHI 63) is the model's
choice (log 17). With the array claimed by another wave it waits for the claim. With its format block in flight it
stands still, with a footprint over the block it waits for that, both before its checks (log 130); so with its
ranges, after them. A failed check is ILLEGAL and names the field of the first operand that failed (the order of
`matCheck`, the model's choice, log 90).
R229, R232-R237: the array executes the oldest instruction of its core once its islands are on, its Facets
awake and its cluster may start it: it leaves the queue; memory does not change, nor any wave but for the
flags of the issuer unless a claim is freed. With `.free` the claim is free again when no wave waits for
one; so is that of a wave that was discarded, after its last instruction. `MZ` zeroes its tile, with `.pair` the follower's too, and keeps the other. -/
def Obligations.MatrixIssueAndArray : Prop :=
  (∀ mk ∈ matOps, ∀ (o : WOp) (s : State) (k : Nat) (w : Wave) (g : Gang), At s k w → inGang s w g →
     w.guardGrp o.guard = true →
     let c := slotCore k
     let at_ := matBlockAt (mk o) w o
     let pairs := (g.cores.length = 2 ∨ g.cores.length = 4) ∧ c % 2 = 0
     (o.m.getLsbD 0 = true → ¬ pairs → exec (mk o) s = .next (illegalAt s k w 56))
     ∧ ((o.m.getLsbD 0 = true → pairs) →
       (at_.any (fun off => s.scrBusy k off 32) = true → exec (mk o) s = .next s)
       ∧ (∀ x, at_.any (fun off => s.scrBusy k off 32) = false → s.fmtHeld w at_ = some x →
         exec (mk o) s = .next (s.waitOn k w .footprint x 0 (mk o)))
       ∧ (at_.any (fun off => s.scrBusy k off 32) = false → s.fmtHeld w at_ = none →
         (∀ lo, matCheck (mk o) o w g = .error lo → exec (mk o) s = .next (illegalAt s k w lo))
         ∧ (∀ blk, matCheck (mk o) o w g = .ok blk →
           let j := matJob (mk o) o k w blk
           (s.matStalls k j = true → exec (mk o) s = .next s)
           ∧ (∀ x, s.matStalls k j = false → s.matHeld w j = some x →
             exec (mk o) s = .next (s.waitOn k w .footprint x 0 (mk o)))
           ∧ (s.matStalls k j = false → s.matHeld w j = none →
             ((∀ d ∈ matPlaces o k, (s.core d).claim = none ∨ s.holdsClaim k d = true) →
               exec (mk o) s = .next (((claimAll s k (matPlaces o k)).modCore c (fun y => { y with
                 matq := y.matq ++ [j] })).retire k w o.len))
             ∧ (∀ q, (s.core c).claim = some q → q ≠ k →
               exec (mk o) s = .next (s.waitOn k w .claim c 0 (mk o))))))))
  ∧ (∀ mk ∈ matOps, ∀ (o : WOp) (s : State) (c : Nat) (j : MatJob) (rest : List MatJob),
       (s.core c).matq = j :: rest → j.op = mk o → s.chainOk c = true →
       s.islandOn (arrayIsland c) = true → (s.core c).fgated = false →
       (o.m.getLsbD 0 = true → s.islandOn (arrayIsland (c + 1)) = true ∧ (s.core (c + 1)).fgated = false) →
       ∃ (t : State), exec (.matrixArrayExecute c) s = .next t ∧ (t.core c).matq = rest ∧ t.mem = s.mem
         ∧ ((o.m.getLsbD 1 = false ∧ ∃ w, s.waves.find j.wave = some w ∧ w.gang = j.gang)
               ∨ (∀ p ∈ s.waves, ∀ x, p.2.wait = some x → x.kind ≠ .claim) →
             ∀ q w, s.waves.find q = some w →
             (q ≠ j.wave ∨ w.gang ≠ j.gang → t.waves.find q = some w)
             ∧ (q = j.wave → ∃ f, t.waves.find q = some (w.orFlags f)))
         ∧ (o.m.getLsbD 1 = true → (s.core c).claim = some j.wave →
             (∃ w, s.waves.find j.wave = some w ∧ w.gang = j.gang) →
             (∀ p ∈ s.waves, ∀ x, p.2.wait = some x → x.kind ≠ .claim) → (t.core c).claim = none)
         ∧ ((s.core c).claim = some (lateClaim j.wave) → (∀ w, s.waves.find j.wave = some w → w.gang ≠ j.gang) →
             (∀ x ∈ rest, x.wave ≠ j.wave) →
             (∀ p ∈ s.waves, ∀ x, p.2.wait = some x → x.kind ≠ .claim) → (t.core c).claim = none)
         ∧ (mk o = .mz o → slotCore j.wave = c → ∀ d, d = c ∨ (o.m.getLsbD 0 = true ∧ d = c + 1) →
             ∀ tile i n, tile < 2 → i < 64 → n < 512 →
             (t.core d).z.getD (tile * 32768 + i * 512 + n) 0 =
               if tile = o.d.toNat % 2 then 0 else (s.core d).z.getD (tile * 32768 + i * 512 + n) 0))

/-- R70, R71, R233: `MMA` of integer formats in blocks of 128, without scales, adds to each element of its
tile the dot product of its row of A with its column of B, clamped to 32 bits. -/
def Obligations.MatrixMultiply : Prop :=
  ∀ (o : WOp) (s : State) (c : Nat) (j : MatJob) (rest : List MatJob),
    AtArray s c j rest o (.mma o) → o.m.getLsbD 0 = false →
    let blk := j.blk.toNat
    let p := (s.core c).panel
    fld blk 0 4 ≤ 2 → fld blk 4 2 = 2 → fld blk 64 64 = 0 → p.fmt ≤ 2 → p.len = 2 → p.scaled = false →
    rising p.cols → (∀ q : Nat × PanelCol, q ∈ p.cols → q.1 < 512) → rising (s.core c).z →
    fld j.gc.toNat 32 7 ≤ 64 →
    ∃ (t : State), exec (.matrixArrayExecute c) s = .next t ∧
      ∀ i < fld j.gc.toNat 32 7, ∀ n col, p.cols.find n = some col →
        (t.core c).z.getD (zAt o i n) 0 = BitVec.ofInt 32 (clampTo 0 (((s.core c).z.getD (zAt o i n) 0).toInt
          + ((List.range 128).map (fun kk => aElem s j.gang o j i kk * bElem col kk)).sum))

/-- R66, R71, R72, R232-R234: what the array loads, accumulates in FP32 and stores, on one core. `MLDB` of an
integer format gives each column of the panel its elements and its scale exponents. `MMA` of formats of one
limb in blocks of 128, accumulating in FP32, adds to an element of Z the block's sum at its exponent, where
the exact total is an FP32 value other than zero; a sum of zero leaves the element, and a special block
gives the canonical NaN. `MST` with a tile scale of 1 stores an integer element clamped to its format, and
an FP32 element as it is, at G[A] + i × stride + n × size, and changes no other byte of scratch.
R68: a block of 128 elements of a one-limb floating format whose values are integers of at most 8 bits
times one power of two, the largest of them normal and of all 8 bits, aligns without loss: its exponent is
that of the largest, and its limbs are those integers; a NaN or an infinity marks the block special. -/
def Obligations.MatrixValues : Prop :=
  (∀ (o : WOp) (s : State) (c : Nat) (j : MatJob) (rest : List MatJob), o.m.getLsbD 0 = false →
     let blk := j.blk.toNat
     let gc := j.gc.toNat
     let stride := fld gc 0 32
     let a := j.ga.toNat % 2 ^ 32
     (AtArray s c j rest o (.mldb o) → fld blk 8 4 ≤ 2 → fld blk 12 2 ≤ 2 → fld gc 32 11 ≤ 512 →
       ∃ (t : State), exec (.matrixArrayExecute c) s = .next t
         ∧ (t.core c).panel.fmt = fld blk 8 4 ∧ (t.core c).panel.len = fld blk 12 2
         ∧ (t.core c).panel.scaled = decide (fld blk 128 64 ≠ 0) ∧ (t.core c).panel.n = fld gc 32 11
         ∧ ∀ n < fld gc 32 11, ∃ col, (t.core c).panel.cols.find n = some col
           ∧ (∀ kk < 128, bElem col kk = (intVal (fld blk 8 4)
               (codeAt s j.gang (a + n * stride) (fld blk 8 4) kk)).1)
           ∧ (fld blk 128 64 ≠ 0 → ∀ b < 4 / 2 ^ fld blk 12 2, nth col.scales b 0
               = scaleAt s j.gang (fld blk 128 64 + n * (4 / 2 ^ fld blk 12 2) + b)))
     ∧ (AtArray s c j rest o (.mma o) →
       let p := (s.core c).panel
       let fa := fld blk 0 4
       fa ∈ [0, 1, 2, 6, 7, 8] → p.fmt ∈ [0, 1, 2, 6, 7, 8] → fld blk 4 2 = 2 → p.len = 2 →
       (2 < fa ∨ 2 < p.fmt ∨ fld blk 64 64 ≠ 0 ∨ p.scaled = true) →
       rising p.cols → (∀ q : Nat × PanelCol, q ∈ p.cols → q.1 < 512) → rising (s.core c).z →
       fld gc 32 7 ≤ 64 →
       ∃ (t : State), exec (.matrixArrayExecute c) s = .next t ∧
         ∀ i < fld gc 32 7, ∀ n col, p.cols.find n = some col →
           let row := (alignVec fa 2 (s.rowCodes j.gang o fa (a + i * stride) i)
             (s.scalesOf j.gang (fld blk 64 64) 2 i)).1
           let sum := ((List.range 128).map (fun kk => bElem row kk * bElem col kk)).sum
           let z := (s.core c).z.getD (zAt o i n) 0
           let z' := (t.core c).z.getD (zAt o i n) 0
           (nth row.special 0 false = true ∨ nth col.special 0 false = true → z' = 0x7FC00000#32)
           ∧ (nth row.special 0 false = false → nth col.special 0 false = false →
             (sum = 0 → z' = z)
             ∧ (∀ x : W32, isFin (decFl (fmtOf 10) z.toNat) → isFin (decFl (fmtOf 10) x.toNat) →
               flQ (decFl (fmtOf 10) x.toNat) ≠ 0 →
               flQ (decFl (fmtOf 10) x.toNat) = flQ (decFl (fmtOf 10) z.toNat) + sum *
                 (2 : ℚ) ^ (limbAt fa row + limbAt p.fmt col + nth row.scales 0 0 + nth col.scales 0 0) →
               z' = x)))
     ∧ (AtArray s c j rest o (.mst o) → ∀ g, s.gangs.find j.gang = some g →
       let fmt := fld j.gb.toNat 32 4
       let rows := fld gc 32 7
       let cols := fld gc 40 11
       fmt ≤ 11 → cols ≤ 512 → fmtBytes fmt cols ≤ stride →
       ∃ (t : State), exec (.matrixArrayExecute c) s = .next t ∧ (t.core c).z = (s.core c).z
         ∧ (∀ i < rows, ∀ n < cols, fld j.gb.toNat 0 32 = 0x3F800000 →
           let z := (s.core c).z.getD (zAt o i n) 0
           (o.m.getLsbD 3 = true → 1 ≤ fmt → fmt ≤ 5 → (codeAt t j.gang (a + i * stride) fmt n : Int)
             = max (intRange fmt).1 (min (intRange fmt).2 z.toInt) % 2 ^ intBits fmt)
           ∧ (o.m.getLsbD 3 = false → fmt = 10 → isFin (decFl (fmtOf 10) z.toNat) →
             codeAt t j.gang (a + i * stride) fmt n = z.toNat))
         ∧ (∀ x, (∀ i < rows, x < a + i * stride ∨ a + i * stride + fmtBytes fmt cols ≤ x) →
           t.scr j.gang x 1 = s.scr j.gang x 1)))
  ∧ (∀ fmt ∈ [6, 7, 8], ∀ (codes : List Nat) (scales : List Byte), codes.length = 128 →
       (∀ x ∈ codes, x < 2 ^ fmtW fmt) →
       let col := (alignVec fmt 2 codes scales).1
       ((∃ x ∈ codes, ¬ isFin (decFl (fmtOf fmt) x)) → col.special = [true])
       ∧ (∀ (e : Int) (n : Nat → Int), (∀ kk < 128, |n kk| ≤ 255
           ∧ isFin (decFl (fmtOf fmt) (nth codes kk 0))
           ∧ flQ (decFl (fmtOf fmt) (nth codes kk 0)) = n kk * (2 : ℚ) ^ (e - 7)) →
         (∃ kk < 128, 128 ≤ |n kk| ∧ isSubnormal (fmtOf fmt) (nth codes kk 0) = false) →
         col.special = [false] ∧ col.exps = [e] ∧ ∀ kk < 128, bElem col kk = n kk))

/-! ## Cursors, append cursors, volumes -/

/-- R240: every cursor instruction treats a null cursor as a done cursor on an empty fibre, in both forms:
`CUR.NEXT` delivers nothing, `CUR.TEST` gives 1, `CUR.SEEK` 0, `CUR.GET` all ones, `CUR.COIT` takes it as
exhausted: with a null side in each of its pairs, the other side's metadata readable, `.isect` delivers nothing,
and `.union` delivers the other side's entry, with all ones for the position of the null side; `CUR.DESC` writes
a null child; `APP.PUT` and `APP.CLOSE` are ILLEGAL with DETAIL 8. -/
def Obligations.NullCursors : Prop :=
  ∀ (o : WOp) (s : State) (k : Nat) (w : Wave), At s k w →
    (nullCur w o o.b.toNat 40 (o.m.getLsbD 0) false → (o.grp = true → 64 ≤ o.a.toNat ∧ o.a.toNat < 80) →
      ∃ (w' : Wave), exec (.curNext o) s = .next (s.retire k w' o.len)
        ∧ OnlyRegs w w' never2 never1 (fun r l => r = o.c.toNat ∧ actsOn w o l)
            (fun r => actsGrp w o ∧ r = o.a.toNat - 64) 0
        ∧ (∀ l, actsOn w o l → lane (w'.preg o.c.toNat) l = false)
        ∧ (actsGrp w o → w'.gpred (o.a.toNat - 64) = true))
    ∧ (predDst o → nullCur w o o.a.toNat 32 false false →
      ∃ (w' : Wave), RetiresPred (.curSeek o) o s k w w' 0 ∧ ∀ c ∈ w.cells o, w'.srcP c o.d.toNat = false)
    ∧ (predDst o → (∀ c ∈ w.cells o, daddr w c o.a.toNat = 0) →
      ∃ (w' : Wave), RetiresPred (.curTest o) o s k w w' 0 ∧ ∀ c ∈ w.cells o, w'.srcP c o.d.toNat = true)
    ∧ (nullCur w o o.a.toNat 32 (o.m.getLsbD 0) false → o.m.getLsbD 1 = false →
      ∃ (w' : Wave), exec (.curGet o) s = .next (s.retire k w' o.len)
        ∧ OnlyRegs w w' (fun r l => o.grp = false ∧ l ∈ w.active o.guard ∧ o.d.toNat ≤ r ∧ r < o.d.toNat + 4)
            (fun r => actsGrp w o ∧ (r = o.d.toNat ∨ r = o.d.toNat + 1)) never2 never1 0
        ∧ (∀ l, Machine.Cell.lane l ∈ w.cells o → w'.vgrp 4 o.d.toNat l = 2 ^ 128 - 1)
        ∧ (actsGrp w o → w'.greg o.d.toNat = BitVec.allOnes 64 ∧ w'.greg (o.d.toNat + 1) = BitVec.allOnes 64))
    ∧ (nullCur w o o.a.toNat 32 false false →
      ∃ (w' : Wave), exec (.curDesc o) s = .next (s.retire k w' o.len)
        ∧ ∀ c ∈ w.cells o, w'.curAt c o.d.toNat = 0)
    ∧ (nullCur w o o.a.toNat 32 false (o.m.getLsbD 0) → nullCur w o o.b.toNat 40 false (o.m.getLsbD 0) →
      ∃ (w' : Wave), exec (.curCoit o) s = .next (s.retire k w' o.len)
        ∧ OnlyRegs w w' never2 never1 (fun r l => r = o.c.toNat ∧ actsOn w o l)
            (fun r => actsGrp w o ∧ r = (o.m.extractLsb' 4 4).toNat) 0
        ∧ (∀ l, actsOn w o l → lane (w'.preg o.c.toNat) l = false)
        ∧ (actsGrp w o → w'.gpred (o.m.extractLsb' 4 4).toNat = true))
    ∧ (o.m.getLsbD 0 = false → (∀ c ∈ w.cells o, daddr w c o.a.toNat = 0 ∨ daddr w c o.b.toNat = 0) →
      w.curCheck (w.cells o) [(o.a.toNat, 32), (o.b.toNat, 40)] false false false = none →
      let nothing := fun (w' : Wave) => (∀ l, actsOn w o l → lane (w'.preg o.c.toNat) l = false)
        ∧ (actsGrp w o → w'.gpred (o.m.extractLsb' 4 4).toNat = true)
      (∀ a b x1 x2, actsGrp w o →
        walksFrom ((walkerOf k w .grp).side (w.curAt .grp o.a.toNat) o.a.toNat) ⟨s, [], []⟩ a x1 →
        walksFrom ((walkerOf k w .grp).side (w.curAt .grp o.b.toNat) o.b.toNat) x1 b x2 →
        ∃ (w' : Wave), exec (.curCoit o) s = .next (x2.s.retire k w' o.len) ∧ nothing w'
          ∧ ∀ r l, w'.vreg r l = w.vreg r l)
      ∧ (∀ w' x, o.grp = false → walksFrom (coitEach k w o (w.active o.guard) w) ⟨s, [], []⟩ w' x →
        exec (.curCoit o) s = .next (x.s.retire k w' o.len) ∧ nothing w'
          ∧ ∀ r l, l < 64 → ¬ (o.a.toNat ≤ r ∧ r < o.a.toNat + 4) → ¬ (o.b.toNat ≤ r ∧ r < o.b.toNat + 4) →
            w'.vreg r l = w.vreg r l))
    ∧ (o.m.getLsbD 0 = true → ∀ n cell r q, w.active o.guard = [n] → (o.grp = true → w.guardGrp o.guard = true) →
      cell = (if o.grp then Machine.Cell.grp else .lane n) →
      w.curCheck [cell] [(o.a.toNat, 32), (o.b.toNat, 40)] false false true = none →
      (r, q) ∈ [(o.a.toNat, o.b.toNat), (o.b.toNat, o.a.toNat)] → daddr w cell q = 0 → daddr w cell r ≠ 0 →
      let u := walkerOf k w cell
      let c := Cur.ofNat (w.curAt cell r)
      ∀ l c' v p x1 x2 x3 x4, walksFrom (u.levelOf c r) ⟨s, [], []⟩ l x1 → c.done = false →
        walksFrom (u.coord l c true) x1 v x2 → walksFrom (u.entryPos l c false) x2 p x3 → p < 2 ^ 64 →
        walksFrom (u.advance l c) x3 c' x4 →
        let e := if daddr w cell o.a.toNat = 0 then result8 v (2 ^ 64 - 1) p 2 else result8 v p (2 ^ 64 - 1) 1
        let w1 := ((w.setVgrp 8 o.d.toNat n e).setPL o.c.toNat n true).setCur cell r c'.toNat
        exec (.curCoit o) s = .next (x4.s.retire k
          (if o.grp then w1.setGP (o.m.extractLsb' 4 4).toNat c'.done else w1) o.len))
    ∧ ((∃ c ∈ w.cells o, daddr w c o.d.toNat = 0) →
      exec (.appPut o) s = .next (illegalAt s k w 24) ∧ exec (.appClose o) s = .next (illegalAt s k w 24))

/-- R90, R239, R244, R248-R250: the wave forms on a DENSE level whose descriptor can be read. `CUR.OPEN` and
`CUR.DESC` give POS = p × DIM and END = (p + 1) × DIM; `CUR.NEXT` gives the active lanes, in ascending
order, consecutive entries until END, and steps POS past them; `CUR.SEEK` moves POS forward to the
coordinate; `CUR.GET` reads. A walker fault stops the wave with its cause and leaves it as it was.
R244-R251: the wave forms on a level of any kind, as what the walker reads of it says. `CUR.OPEN`, and
`CUR.DESC` with an entry of the parent, give the fibre of their parent position; `CUR.GET` the coordinate and the
entry position at POS; `CUR.NEXT` gives the active lanes, in ascending order, the entries from POS on, each above
the one before it, and steps past them; `CUR.SEEK` finds in BMP the first set bit, in HSH the entry of the bucket's
chain, in CMP, RLE, BLK and CCH the first coordinate, at or above its target, never moving back. It leaves a done
cursor, and a target of DIM or more moves all but HSH to the bound. (A wave cursor's fibre begins where its open
found it: log 42.)
R252, R253: `CUR.COIT` in its wave form, when its metadata can be read, gives the results of its method
to the active lanes and steps both cursors; on two done cursors it delivers nothing. Two DENSE levels under
`.isect` merge: the lanes take, in ascending order, the coordinates that both fibres hold, from the larger
of the two current ones up, with both entry positions; under `.union` those that either holds, from the
smaller one up, with all ones for the position of a side that lacks it. A cursor of CMP, CCH, RLE, BLK or
BMP drives against a DENSE level: its coordinate is delivered when it lies below the other's DIM, and it
alone steps. -/
def Obligations.Cursors : Prop :=
  (∀ (o : WOp) (s : State) (k : Nat) (w : Wave), At s k w → o.grp = true → w.guardGrp o.guard = true →
     let u := walkerOf k w .grp
     (∀ l x1 p, p = (w.greg o.b.toNat).toNat →
       walksFrom (u.openLevel (w.greg o.a.toNat).toNat false) ⟨s, [], []⟩ l x1 →
       l.kind = 0 → (p + 1) * l.dim < 2 ^ 40 →
       exec (.curOpen o) s = .next (x1.s.retire k (opened w o.d.toNat l
         (curBits 0 (decide (l.dim = 0)) l.addr (p * l.dim) ((p + 1) * l.dim)) (p * l.dim)) o.len))
     ∧ (∀ f sn, (u.openLevel (w.greg o.a.toNat).toNat false).run ⟨s, [], []⟩ = .error (.fault f [] sn) →
       w.sys.sup = false → exec (.curOpen o) s = .next (takeTrap s k w (trapRec w f.cause f.kind 0
         s.insn.1 s.insn.2 (BitVec.ofNat 64 f.addr) (BitVec.ofNat 64 f.v0))))
     ∧ (∀ r f, (r, f) ∈ [(o.a.toNat, 32), (o.b.toNat, 40)] →
       let c := Cur.ofNat (w.creg r).toNat
       c.kind = 0 → c.daddr ≠ 0 → c.app = false →
       ∀ l x1, walksFrom (u.levelOf c r) ⟨s, [], []⟩ l x1 → DenseSide l c →
       (r = o.b.toNat → o.m.getLsbD 0 = false → w.active o.guard ≠ [] →
         64 ≤ o.a.toNat → o.a.toNat < 80 →
         let n := (w.active o.guard).length
         ∃ (w' : Wave), exec (.curNext o) s = .next (x1.s.retire k w' o.len)
           ∧ (∀ i x, (w.active o.guard)[i]? = some x →
             (c.pos + i < c.fin → w'.vgrp 4 o.d.toNat x = denseAt l { c with pos := c.pos + i }
                 + (c.pos + i) * 2 ^ 64
               ∧ lane (w'.preg o.c.toNat) x = true)
             ∧ (c.fin ≤ c.pos + i → w'.vgrp 4 o.d.toNat x = w.vgrp 4 o.d.toNat x
               ∧ lane (w'.preg o.c.toNat) x = false))
           ∧ w'.creg r = curBits 0 (decide (c.fin ≤ c.pos + n)) c.desc (min (c.pos + n) c.fin) c.fin
           ∧ w'.gpred (o.a.toNat - 64) = decide (c.fin ≤ c.pos + n))
       ∧ (r = o.a.toNat → (w.greg o.b.toNat).toNat < l.dim →
         let n := densePos l c (w.greg o.b.toNat).toNat
         exec (.curSeek o) s = .next (x1.s.retire k ((w.setC r (curBits 0 false c.desc (max c.pos n) c.fin)).setGP
           (o.d.toNat - 64) (decide (c.pos ≤ n))) o.len))
       ∧ (r = o.a.toNat → o.m = 0 →
         exec (.curGet o) s = .next (x1.s.retire k ((w.setG o.d.toNat
           (BitVec.ofNat 64 (denseAt l c))).setG (o.d.toNat + 1) (BitVec.ofNat 64 c.pos)) o.len))
       ∧ (∀ e ch x2, r = o.a.toNat → e = (w.greg o.b.toNat).toNat → e < l.count →
         walksFrom (u.level (w.greg o.c.toNat).toNat false) x1 ch x2 → ch.kind = 0 →
         (e + 1) * ch.dim < 2 ^ 40 →
         exec (.curDesc o) s = .next (x2.s.retire k (opened w o.d.toNat ch
           (curBits 0 (decide (ch.dim = 0)) ch.addr (e * ch.dim) ((e + 1) * ch.dim)) (e * ch.dim)) o.len))))
  ∧ (∀ (o : WOp) (s : State) (k : Nat) (w : Wave), At s k w → o.grp = true → w.guardGrp o.guard = true →
       let u := walkerOf k w .grp
       let opens := fun (l : Lvl) (pos fin : Nat) => opened w o.d.toNat l
         (curBits l.kind (decide ((if l.kind = 3 then l.count else fin) ≤ pos)) l.addr pos fin) pos
       (∀ l pos fin x1 x2, walksFrom (u.openLevel (w.greg o.a.toNat).toNat false) ⟨s, [], []⟩ l x1 → l.kind ≤ 6 →
         fibreIs u l (w.greg o.b.toNat).toNat x1 pos fin x2 → pos < 2 ^ 40 → fin < 2 ^ 40 →
         exec (.curOpen o) s = .next (x2.s.retire k (opens l pos fin) o.len))
       ∧ (∀ c r, c = Cur.ofNat (w.creg r).toNat → c.daddr ≠ 0 → c.app = false →
         ∀ l x1, walksFrom (u.levelOf c r) ⟨s, [], []⟩ l x1 → l.kind ≤ 6 →
         (∀ ch pos fin x2 x3, r = o.a.toNat → (w.greg o.b.toNat).toNat < l.count →
           walksFrom (u.level (w.greg o.c.toNat).toNat false) x1 ch x2 → ch.kind ≤ 6 →
           fibreIs u ch (w.greg o.b.toNat).toNat x2 pos fin x3 → pos < 2 ^ 40 → fin < 2 ^ 40 →
           exec (.curDesc o) s = .next (x3.s.retire k (opens ch pos fin) o.len))
         ∧ (∀ v e x2 x3, r = o.a.toNat → c.done = false → o.m.getLsbD 1 = false →
           (o.m.getLsbD 0 = true → c.kind = 6) → coordIs u l c false x1 v x2 →
           placeIs u l c (o.m.getLsbD 0) x2 e x3 →
           exec (.curGet o) s = .next (x3.s.retire k
             ((w.setG o.d.toNat (BitVec.ofNat 64 v)).setG (o.d.toNat + 1) (BitVec.ofNat 64 e)) o.len))
         ∧ (∀ (vs : List (Option (Nat × Nat))) d x2, r = o.b.toNat → c.done = false → (o.m.getLsbD 0 = true → c.kind = 6) →
           64 ≤ o.a.toNat → o.a.toNat < 80 → w.active o.guard ≠ [] →
           deliveredTo u l (o.m.getLsbD 0) (w.active o.guard) c x1 vs d x2 →
           ∃ (w' : Wave), exec (.curNext o) s = .next (x2.s.retire k w' o.len)
             ∧ (∀ (i n : Nat), (w.active o.guard)[i]? = some n →
               (∀ (v e : Nat), vs[i]? = some (some (v, e)) → lane (w'.preg o.c.toNat) n = true
                 ∧ w'.vgrp 4 o.d.toNat n = v + e % 2 ^ 64 * 2 ^ 64)
               ∧ (vs[i]? = some none → lane (w'.preg o.c.toNat) n = false
                 ∧ w'.vgrp 4 o.d.toNat n = w.vgrp 4 o.d.toNat n))
             ∧ w'.creg r = BitVec.ofNat 128 d.toNat ∧ w'.gpred (o.a.toNat - 64) = d.done)
         ∧ (r = o.a.toNat →
           let t := (w.greg o.b.toNat).toNat
           let gives := fun (x : WSt) (d : Cur) (f : Bool) => exec (.curSeek o) s = .next (x.s.retire k
             ((w.setC r (BitVec.ofNat 128 d.toNat)).setGP (o.d.toNat - 64) f) o.len)
           (c.done = true → gives x1 c false)
           ∧ (c.done = false → l.dim ≤ t →
             gives x1 (if l.kind = 3 then c else { c with pos := c.fin, done := true }) false)
           ∧ (c.done = false → t < l.dim →
             (∀ n j x2, l.kind = 2 → l.dim ≤ c.fin → bitIs u l c.fin n (max c.pos (densePos l c t)) x1 j x2 →
               gives x2 (movedTo c c.fin j) (decide (j = densePos l c t)))
             ∧ (∀ i x2, l.kind = 3 → walksFrom (nums u [(l.a0 + bucketOf l.hb c.fin t * l.pw, l.pw)]) x1 [i] x2 →
               (i = 2 ^ (8 * l.pw) - 1 → gives x2 c false)
               ∧ (∀ n q x3, i ≠ 2 ^ (8 * l.pw) - 1 → n ≤ l.count → chainIs u l c.fin t n i x2 q x3 →
                 (q = none → gives x3 c false)
                 ∧ (∀ j, q = some j → (c.pos ≤ j → gives x3 { c with pos := j } true)
                   ∧ (j < c.pos → gives x3 c false))))
             ∧ (∀ d f x2, l.kind ∈ [1, 4, 5, 6] → seekIs u l t (c.fin - c.pos + 1) c x1 d f x2 → gives x2 d f)))))
  ∧ (∀ (o : WOp) (s : State) (k : Nat) (w : Wave), At s k w → o.grp = true → w.guardGrp o.guard = true →
       let u := walkerOf k w .grp
       let isUnion := o.m.getLsbD 0
       let ls := w.active o.guard
       ∀ a b x1 x2, w.curCheck [Machine.Cell.grp] [(o.a.toNat, 32), (o.b.toNat, 40)] false false isUnion = none →
         walksFrom (u.side (w.curAt .grp o.a.toNat) o.a.toNat) ⟨s, [], []⟩ a x1 →
         walksFrom (u.side (w.curAt .grp o.b.toNat) o.b.toNat) x1 b x2 →
         (∀ r x3, walksFrom (u.coitLanes o ls a b w) x2 r x3 →
           exec (.curCoit o) s = .next (x3.s.retire k (((r.2.2.setSide .grp o.a.toNat r.1).setSide .grp
             o.b.toNat r.2.1).setGP (o.m.extractLsb' 4 4).toNat (coitDone isUnion r.1 r.2.1)) o.len))
         ∧ (∀ la ca lb cb, a = some (la, ca) → b = some (lb, cb) → ca.done = true → cb.done = true →
           ∃ (w' : Wave), exec (.curCoit o) s = .next (x2.s.retire k w' o.len)
             ∧ (∀ l ∈ ls, lane (w'.preg o.c.toNat) l = false)
             ∧ ∀ r l, w'.vreg r l = w.vreg r l)
         ∧ (∀ la ca lb cb, a = some (la, ca) → b = some (lb, cb) → DenseSide la ca → DenseSide lb cb →
           ls ≠ [] → o.a ≠ o.b →
           let xa := denseAt la ca
           let xb := denseAt lb cb
           (isUnion = false → ∃ (w' : Wave), exec (.curCoit o) s = .next (x2.s.retire k w' o.len)
             ∧ (∀ i l, ls[i]? = some l →
               let x := max xa xb + i
               (x < min la.dim lb.dim → lane (w'.preg o.c.toNat) l = true
                 ∧ w'.vgrp 8 o.d.toNat l = result8 x (densePos la ca x) (densePos lb cb x) 3)
               ∧ (min la.dim lb.dim ≤ x → lane (w'.preg o.c.toNat) l = false
                 ∧ w'.vgrp 8 o.d.toNat l = w.vgrp 8 o.d.toNat l))
             ∧ (let y := max xa xb + ls.length
               w'.gpred (o.m.extractLsb' 4 4).toNat = decide (min la.dim lb.dim ≤ y)
               ∧ (y ≤ min la.dim lb.dim →
                 w'.creg o.a.toNat = curBits 0 (decide (la.dim ≤ y)) ca.desc (densePos la ca y) ca.fin
                 ∧ w'.creg o.b.toNat = curBits 0 (decide (lb.dim ≤ y)) cb.desc (densePos lb cb y) cb.fin)))
           ∧ (isUnion = true → xb ≤ la.dim → xa ≤ lb.dim →
             ∃ (w' : Wave), exec (.curCoit o) s = .next (x2.s.retire k w' o.len)
             ∧ (∀ i l, ls[i]? = some l →
               let x := min xa xb + i
               let inA := xa ≤ x ∧ x < la.dim
               let inB := xb ≤ x ∧ x < lb.dim
               (inA ∨ inB → lane (w'.preg o.c.toNat) l = true
                 ∧ w'.vgrp 8 o.d.toNat l = result8 x (if inA then densePos la ca x else 2 ^ 64 - 1)
                     (if inB then densePos lb cb x else 2 ^ 64 - 1)
                     ((if inA then 1 else 0) + (if inB then 2 else 0)))
               ∧ (¬ inA → ¬ inB → lane (w'.preg o.c.toNat) l = false
                 ∧ w'.vgrp 8 o.d.toNat l = w.vgrp 8 o.d.toNat l))
             ∧ w'.gpred (o.m.extractLsb' 4 4).toNat = decide (max la.dim lb.dim ≤ min xa xb + ls.length)))
         ∧ (∀ la ca lb cb n x p ca' x3 x4 x5, isUnion = false → ls = [n] →
           a = some (la, ca) → b = some (lb, cb) → ca.done = false → la.kind ∈ [1, 2, 4, 5, 6] → lb.kind = 0 →
           lb.dim ≤ cb.fin → cb.fin < 2 ^ 40 → walksFrom (u.coord la ca true) x2 x x3 → x < lb.dim →
           walksFrom (u.entryPos la ca false) x3 p x4 → p < 2 ^ 64 → walksFrom (u.advance la ca) x4 ca' x5 →
           exec (.curCoit o) s = .next (x5.s.retire k (((((w.setVgrp 8 o.d.toNat n
             (result8 x p (densePos lb cb x) 3)).setPL o.c.toNat n true).setC o.a.toNat
               (BitVec.ofNat 128 ca'.toNat)).setC o.b.toNat (BitVec.ofNat 128 cb.toNat)).setGP
                 (o.m.extractLsb' 4 4).toNat ca'.done) o.len)))

/-- R254-R256: `APP.OPEN` on an appendable CCH level takes a block from its heap, writes its header, and
installs it as TAIL, first chunk and first position, when TAIL was zero; a TAIL already set is APP.BUSY;
`APP.PUT` appends the entries of the active lanes that the zero test does not drop: an entry goes, 16 bytes
of coordinate and value, to the slot after those in use, and the count in use and POS rise by one; in a full
chunk it goes to the first slot of a new block, which TAIL and the old chunk then name; a coordinate not
below DIM is WALK.COORD. `APP.CLOSE` writes COUNT and clears TAIL. -/
def Obligations.AppendCursors : Prop :=
  ∀ (o : WOp) (s : State) (k : Nat) (w : Wave), At s k w → o.grp = true → w.guardGrp o.guard = true →
    let u := walkerOf k w .grp
    (∀ l ch x1 x2 x3 old x4, walksFrom (u.openLevel (w.greg o.a.toNat).toNat true) ⟨s, [], []⟩ l x1 →
      l.kind = 6 → l.appok = true → walksFrom (u.draw l) x1 ch x2 →
      walksFrom (u.write ch (chunkHeader 0)) x2 () x3 →
      walksFrom (u.casTail (l.addr + 48) ch) x3 old x4 →
      (∀ x5 x6, old = 0 → walksFrom (u.write (l.addr + 24) (bytesOf 8 ch)) x4 () x5 →
        walksFrom (u.write l.a0 (bytesOf l.pw 0)) x5 () x6 →
        exec (.appOpen o) s = .next (x6.s.retire k (opened w o.d.toNat l
          (BitVec.ofNat 128 (6 + 16 + l.addr / 64 % 2 ^ 42 * 2 ^ 6)) 0) o.len))
      ∧ (old ≠ 0 → w.sys.sup = false → ∃ (t : State), exec (.appOpen o) s = .next (takeTrap t k w
          (trapRec w 0x040A 5 0 t.insn.1 t.insn.2 (BitVec.ofNat 64 l.addr) 0)) ∧ t.waves = s.waves))
    ∧ (let c := Cur.ofNat (w.creg o.d.toNat).toNat
      c.app = true → c.daddr ≠ 0 →
      (∀ l x1 tail x2 used x3, walksFrom (u.levelOf c o.d.toNat) ⟨s, [], []⟩ l x1 →
        walksFrom (u.num (l.addr + 48) 8) x1 tail x2 → tail ≠ 0 →
        walksFrom (u.num (tail + 16) 4) x2 used x3 → used ≤ 252 →
        let qs := (w.active o.guard).map (w.vgrp 4 o.b.toNat)
        (∀ p x4, walksFrom (u.putAll l (o.m.toNat % 8) qs ⟨tail, used, c.pos⟩) x3 p x4 →
          (o.m.getLsbD 3 = false → exec (.appPut o) s = .next (x4.s.retire k (w.setC o.d.toNat
            (BitVec.ofNat 128 (Cur.toNat { c with pos := p.pos }))) o.len))
          ∧ (∀ x5, o.m.getLsbD 3 = true →
            walksFrom (u.write (l.a0 + (c.fin + 1) * l.pw) (bytesOf l.pw p.pos)) x4 () x5 →
            exec (.appPut o) s = .next (x5.s.retire k (w.setC o.d.toNat
              (BitVec.ofNat 128 (Cur.toNat { c with pos := p.pos, fin := c.fin + 1 }))) o.len)))
        ∧ (∀ q, qs = [q] → o.m.getLsbD 3 = false →
          let x := q % 2 ^ 64
          let moved := fun (pos : Nat) => w.setC o.d.toNat (BitVec.ofNat 128 (Cur.toNat { c with pos := pos }))
          let drop := dropsZero (o.m.toNat % 8) (q / 2 ^ 64 % 2 ^ 64)
          (drop → exec (.appPut o) s = .next (x3.s.retire k (moved c.pos) o.len))
          ∧ (¬ drop → l.dim ≤ x → w.sys.sup = false → exec (.appPut o) s = .next (takeTrap s k w
            (trapRec w 0x0404 5 0 s.insn.1 s.insn.2 (BitVec.ofNat 64 l.addr) (BitVec.ofNat 64 c.pos))))
          ∧ (∀ x4 x5, ¬ drop → x < l.dim → used < 252 →
            walksFrom (u.write (tail + 64 + 16 * used) (bytesOf 16 q)) x3 () x4 →
            walksFrom (u.write (tail + 16) (bytesOf 4 (used + 1))) x4 () x5 →
            exec (.appPut o) s = .next (x5.s.retire k (moved (c.pos + 1)) o.len))
          ∧ (∀ b y1 y2 y3 y4 y5 y6, ¬ drop → x < l.dim → used = 252 → walksFrom (u.draw l) x3 b y1 →
            walksFrom (u.write b (bytesOf 8 0 ++ bytesOf 8 c.pos ++ bytesOf 48 0)) y1 () y2 →
            walksFrom (u.write tail (bytesOf 8 b)) y2 () y3 →
            walksFrom (u.write (l.addr + 48) (bytesOf 8 b)) y3 () y4 →
            walksFrom (u.write (b + 64) (bytesOf 16 q)) y4 () y5 →
            walksFrom (u.write (b + 16) (bytesOf 4 1)) y5 () y6 →
            exec (.appPut o) s = .next (y6.s.retire k (moved (c.pos + 1)) o.len))))
      ∧ (∀ l x1 x2 x3 x4, walksFrom (u.levelOf c o.d.toNat) ⟨s, [], []⟩ l x1 → walksFrom u.settle x1 () x2 →
        walksFrom (u.write (l.addr + 40) (bytesOf 8 c.pos)) x2 () x3 →
        walksFrom (u.write (l.addr + 48) (bytesOf 8 0)) x3 () x4 →
        exec (.appClose o) s = .next (x4.s.retire k (w.setC o.d.toNat
          (BitVec.ofNat 128 (Cur.toNat { c with done := true, app := false }))) o.len)))

/-- R91, R100, R101, R110, R258-R262: a volume instruction whose descriptor is valid and that nothing keeps
waiting, no footprint and no earlier update of the wave of its descriptor, the pointers that it walks and its
elements, runs its active lanes in order and retires; one that such an update of the descriptor or of a pointer
keeps waiting stands still; a lane whose brick is absent loads BG, or probes 0; a coordinate
above its limit faults its lane with VOL.RANGE; no lane active does nothing. `CLB.INV` empties the CLBs
of its die, or of its partition, of one volume or of all.
R92, R258, R259: a lane whose brick is present, of the brick's 512 elements, z first, then y, then x:
`VLD` gives it the element, of ESIZE bytes, with zeros above; `VST` stores the low ESIZE bytes of its
value; `VPROBE` gives 1. -/
def Obligations.Volumes : Prop :=
  (∀ (o : WOp) (s : State) (k : Nat) (w : Wave), At s k w →
     (∀ i op, (i, op) ∈ [(Instr.vld o, VolOp.load), (.vst o, .store), (.vprobe o, .probe)] →
       (w.active o.guard = [] → exec i s = .next (s.retire k w o.len))
       ∧ (w.active o.guard ≠ [] → (w.greg o.a.toNat).toNat % 64 = 0 →
         s.heldBy w.gang false false (w.greg o.a.toNat).toNat 64 = none →
         s.accBusy k w [((w.greg o.a.toNat).toNat, 64)] = true → exec i s = .next s)
       ∧ (∀ s1 bs v, w.active o.guard ≠ [] → (w.greg o.a.toNat).toNat % 64 = 0 →
         s.heldBy w.gang false false (w.greg o.a.toNat).toNat 64 = none →
         s.accBusy k w [((w.greg o.a.toNat).toNat, 64)] = false →
         s.readG (s.waveObs k w) (pathOf k false false) false (w.greg o.a.toNat).toNat 64 = (s1, .ok bs) →
         Vol.parse (w.greg o.a.toNat).toNat (natOf bs) = some v →
         (op = .probe ∨ v.esize ≤ 4 * 2 ^ (o.m.toNat % 4)) →
         let els := (w.active o.guard).filterMap (fun l =>
           (s1.volPeek k w v (w.vgrp 2 o.b.toNat l)).map (fun a => (a, v.esize)))
         (op = .probe ∨ (s.fpHold w els (decide (op = .store)) false = none ∧ s.accBusy k w els = false)) →
         let r := (w.active o.guard).foldl (fun (x : VRun) l => x.lane k w o v op l) ⟨s1, w, [], false, []⟩
         (∀ p ∈ r.seen, s.heldBy w.gang p.2.2 false p.1 p.2.1 = none) →
         let nodes := r.seen.map (fun p => (p.1, p.2.1))
         (s.accBusy k w nodes = true → exec i s = .next s)
         ∧ ((∃ p ∈ r.seen, p.2.2 = true) → s.redgBusy k = true → exec i s = .next s)
         ∧ (s.accBusy k w nodes = false → (s.redgBusy k = true → ∀ p ∈ r.seen, p.2.2 = false) → r.held = false →
           (r.faults = [] → exec i s = .next (r.s.retire k r.w o.len))
           ∧ (w.sys.sup = false → exec i s = .next (r.s.retire k (r.w.parkAll r.faults) o.len)))))
     ∧ (∀ (v : Vol) (r : VRun) (l : Nat),
       let c := w.vgrp 2 o.b.toNat l
       (v.limx < c % 2 ^ 19 ∨ v.limy < c / 2 ^ 19 % 2 ^ 19 ∨ v.limz < c / 2 ^ 38 % 2 ^ 19 →
         ∀ op, ∃ f, (r.lane k w o v op l).faults = r.faults ++ [(l, f)] ∧ f.cause = 0x0501
           ∧ (r.lane k w o v op l).w = r.w)
       ∧ (∀ s1, v.outside c = false → r.s.volBrick (r.s.waveObs k w) v .load (slotCore k) c = (s1, .absent) →
         (r.lane k w o v .load l).w = r.w.setVgrp (2 ^ (o.m.toNat % 4)) o.d.toNat l v.bg)
       ∧ (∀ s1, v.outside c = false → r.s.volBrick (r.s.waveObs k w) v .probe (slotCore k) c = (s1, .absent) →
         (r.lane k w o v .probe l).w = r.w.setPL o.d.toNat l false))
     ∧ (w.guardGrp o.guard = true → (w.greg o.a.toNat).toNat < 2 ^ 16 →
       ∃ (t : State), exec (.clbInv o) s = .next (t.retire k w o.len) ∧ t.waves = s.waves
         ∧ ∀ c, (coreDie c = coreDie (slotCore k) ∨ (o.m.getLsbD 0 = true ∧ coreDie c ∈ partDies s.pkg.cur
             (diePart s.pkg.cur (coreDie (slotCore k))))) →
           (o.m.getLsbD 1 = true → (t.core c).clb = [])
           ∧ ∀ e : Nat × Nat, e ∈ (t.core c).clb → e.1 / 2 ^ 48 ≠ (w.greg o.a.toNat).toNat))
  ∧ (∀ (o : WOp) (k : Nat) (w : Wave) (v : Vol) (r : VRun) (l brick : Nat) (s1 : State) (op : VolOp),
       let c := w.vgrp 2 o.b.toNat l
       let n := 2 ^ (o.m.toNat % 4)
       v.outside c = false → r.s.volBrick (r.s.waveObs k w) v op (slotCore k) c = (s1, Step4.found brick) →
       let va := (brick + (c / 2 ^ 38 % 8 * 64 + c / 2 ^ 19 % 8 * 8 + c % 8) * v.esize) % 2 ^ 64
       let obs := s1.waveObs k w
       (op = .probe → (r.lane k w o v op l).w = r.w.setPL o.d.toNat l true)
       ∧ (∀ s2 ps, op = .load → s1.check obs none .read false va v.esize = (s2, .ok ps) →
         (r.lane k w o v op l).w = r.w.setVgrp n o.d.toNat l
           (natOf (s2.readPieces obs (.core false (slotCore k)) ps).2)
         ∧ (r.lane k w o v op l).faults = r.faults)
       ∧ (∀ s2 ps, op = .store → s1.check obs none .write false va v.esize = (s2, .ok ps) →
         (r.lane k w o v op l).s = s2.writePieces obs (.core false (slotCore k)) ps
           (bytesOf v.esize (w.vgrp n o.d.toNat l))
         ∧ (r.lane k w o v op l).w = r.w))

/-! ## Filigree -/

/-- R43, R104, R264: an FG instruction of the context that owns its die's Filigree, with a bound queue of
8-byte entries, an aligned operand, nothing outstanding and room in the list appends its command; with the
list full it waits, its release made; with an access outstanding it stands still, before it looks at the queue's
header; of another context it is ILLEGAL with DETAIL 8 (the field is [7:0], log 17). SEQ counts as log 101
says; the array's list of the gangs that use it is log 111's.
R98, R265: the completion of an executed command is pushed to its queue when the queue has allowance: the
entry holds FN, STATUS, DETAIL and SEQ, and the command leaves the list. -/
def Obligations.FiligreeAppend : Prop :=
  (∀ mk fn al, (mk, fn, al) ∈ fgOps → ∀ (o : WOp) (s : State) (k : Nat) (w : Wave) (g : Gang),
     At s k w → inGang s w g → w.guardGrp o.guard = true →
     let die := coreDie (slotCore k)
     let f := (s.die die).fil
     (s.fgOwns k w = true → s.relBusy k = true → exec (mk o) s = .next s)
     ∧ (s.fgOwns k w = false → exec (mk o) s = .next (takeTrap s k w
       (trapRec w 2 8 0 s.insn.1 s.insn.2 0 (BitVec.ofNat 64 (0 + 7 * 256)))))
     ∧ (∀ off, s.fgOwns k w = true → boundTo w g o.b.toNat (some 0) off → (w.greg o.a.toNat).toNat % al = 0 →
       (s.relBusy k = false → f.cmds.length < 16 → ∃ (t : State) (c : FgCmd),
         exec (mk o) s = .next (t.retire k { w with pointed := false } o.len)
         ∧ t.waves = s.waves ∧ (t.die die).fil = { f with
           cmds := f.cmds ++ [c], appended := f.appended + 1
           users := if w.gang ∈ f.users then f.users else f.users ++ [w.gang]
           kept := if f.users = [] then [] else f.kept }
         ∧ c.fn = fn ∧ c.ga = w.greg o.a.toNat ∧ c.gc = w.greg o.c.toNat ∧ c.queue = off
         ∧ c.clr = o.m.getLsbD 0 ∧ c.colour = 0 ∧ (fn = 5 → c.left = (w.greg o.a.toNat).toNat % 2 ^ 32)
         ∧ c.seq = f.appended % 2 ^ 32 ∧ c.status = none ∧ c.owner.gang = some w.gang)
       ∧ (s.relBusy k = false → 16 ≤ f.cmds.length → ∃ (t : State) (w' : Wave),
         exec (mk o) s = .next t ∧ t.waves.find k = some w' ∧ w'.pc = w.pc ∧ w'.regs = w.regs
         ∧ w'.pointed = true ∧ (∃ x, w'.wait = some x ∧ x.kind = .fgList ∧ x.obj = die ∧ x.insn = mk o)
         ∧ (t.die die).fil = f)))
  ∧ (∀ (s : State) (die gn : Nat) (g : Gang) (c : FgCmd) (rest : List FgCmd) (st detail : Nat),
       (s.die die).fil.cmds = c :: rest → c.status = some (st, detail) → c.owner.gang = some gn →
       s.gangs.find gn = some g → g.queOk c.queue (some 0) = true → 0 < (g.que c.queue).allow →
       s.islandOn (filIsland die) = true →
       ∃ (t : State), exec (.filCompletionPush die) s = .next t ∧ (t.die die).fil.cmds = rest
         ∧ ((∀ p ∈ s.waves, ∀ x, p.2.wait = some x → x.kind ≠ .pop ∧ x.kind ≠ .push) →
           t.gangs.find gn = some (g.pushEntries c.queue
             [c.fn + st * 2 ^ 8 + detail * 2 ^ 16 + c.seq * 2 ^ 32])))

/-- R265-R270: what the array does with the command at the head of its list. Without a configuration every
command but FG.CFG completes with STATUS 1. FG.CFG sets the configuration and clears the array; FG.SEED the
key and sweep number; FG.CLAMP clamps or frees a bit; FG.FREE ends the configuration; FG.LOAD loads a
well-formed table; FG.READ and FG.CNT store; each completes with STATUS 0.
R268, R269: a colour's update sets every unclamped bit of the colour, all at once, and changes no other
bit: in DET mode from the bit's random number and local field (the generator's constants are log 13's), in
ENTROPY mode from a sample below 2^16 that no rule fixes (log 12). The command goes to the next colour. After
the last colour of a sweep the counts of the bits that stand at 1 rise, up to 65,535, S rises, and the
command completes or begins its next sweep. -/
def Obligations.FiligreeCommands : Prop :=
  (∀ (s : State) (die fn : Nat) (c : FgCmd) (rest : List FgCmd), AtFil s die fn c rest →
     let f := (s.die die).fil
     let done := fun (x : Filigree) => Host.Outcome.next (filIs s die (filDone x c rest 0 0))
     (∀ mk, (mk, fn) ∈ filOps → fn ≠ 0 → f.nb = 0 →
       exec (mk die) s = .next (filIs s die (filDone f c rest 1 0)))
     ∧ (fn = 0 → ∀ nb nc, nb ≠ 0 → nb ≤ 65536 → nc < 16 → ∀ (det : Bool) (beta : BitVec 16),
       c.ga.toNat = nb + nc * 2 ^ 17 + (if det then 2 ^ 21 else 0) + beta.toNat * 2 ^ 32 →
       exec (.filExecCfg die) s = done { f with
         nb := nb, ncol := nc + 1, det := det, beta := beta, sweep := 0, bits := [] })
     ∧ (fn = 2 → f.nb ≠ 0 → exec (.filExecSeed die) s = done { f with key := c.ga, sweep := 0 })
     ∧ (fn = 3 → f.nb ≠ 0 → ∀ i (v set : Bool), i < f.nb → i < 65536 →
       c.ga.toNat = i + (if v then 2 ^ 16 else 0) + (if set then 2 ^ 17 else 0) →
       ∃ f', exec (.filExecClamp die) s = done f' ∧ f'.key = f.key ∧ f'.nb = f.nb ∧ f'.sweep = f.sweep
         ∧ ∀ j, f'.bit j = if j = i then (if set then { f.bit i with s := v, clamp := true }
           else { f.bit i with clamp := false }) else f.bit j)
     ∧ (fn = 4 → f.nb ≠ 0 → exec (.filExecFree die) s = done { f with
         nb := 0, ncol := 0, det := false, beta := 0, sweep := 0, bits := [] })
     ∧ (fn = 1 → f.nb ≠ 0 → ∀ s1 bs, s.readG (s.fgObs die c) .die false c.ga.toNat (128 * f.nb) = (s1, .ok bs) →
       (∀ bits, fgTable f.nb f.ncol (fgRecords f.nb bs) = .ok bits → ∃ f', exec (.filExecLoad die) s
         = .next (filIs s1 die (filDone f' c rest 0 0)) ∧ ∀ i b, bits[i]? = some b → f'.bit i = b)
       ∧ (∀ i, fgTable f.nb f.ncol (fgRecords f.nb bs) = .error i → exec (.filExecLoad die) s
         = .next (filIs s1 die (filDone f c rest 3 i))))
     ∧ (f.nb ≠ 0 → ∀ first n, n ≠ 0 → n ≤ 65536 → first < 65536 → first + n ≤ f.nb →
       c.gc.toNat = first + n * 2 ^ 16 →
       (fn = 6 → ∃ bs, bs.length = (n + 63) / 64 * 8
         ∧ (∀ j < 8 * bs.length, (nth bs (j / 8) 0).getLsbD (j % 8)
             = (decide (j < n) && (f.bit (first + j)).s))
         ∧ (∀ s1, s.writeG (s.fgObs die c) .engine false c.ga.toNat bs = (s1, none) →
           exec (.filExecRead die) s = .next (filIs s1 die (filDone f c rest 0 0))))
       ∧ (fn = 7 → ∀ s1, s.writeG (s.fgObs die c) .engine false c.ga.toNat
           ((List.range n).flatMap (fun j => bytesOf 2 (f.bit (first + j)).count)) = (s1, none) →
         ∃ f', exec (.filExecCnt die) s = .next (filIs s1 die (filDone f' c rest 0 0))
           ∧ ∀ j, f'.bit j = if c.clr = true ∧ first ≤ j ∧ j < first + n then { f.bit j with count := 0 }
             else f.bit j)))
  ∧ (∀ (s : State) (die : Nat) (c : FgCmd) (rest : List FgCmd), AtFil s die 5 c rest →
       let f := (s.die die).fil
       f.nb ≠ 0 → c.ga.toNat < 2 ^ 32 → c.ga.toNat ≠ 0 →
       let acts := fun i => (f.bit i).colour = c.colour ∧ (f.bit i).clamp = false
       let limit := fun i => fgThreshold (f.beta.toNat * f.field (f.bit i))
       let now := fun i => if acts i then
           { f.bit i with s := decide (fgRandom f.key.toNat f.sweep.toNat i c.colour < limit i) }
         else f.bit i
       (f.det = true → c.colour + 1 < f.ncol →
         ∃ (f' : Filigree), exec (.filSweepColour die) s = .next (filIs s die f')
           ∧ f'.cmds = { c with colour := c.colour + 1 } :: rest ∧ f'.sweep = f.sweep ∧ f'.key = f.key
           ∧ (∀ i < f.nb, f'.bit i = if (f.bit i).colour = c.colour ∧ (f.bit i).clamp = false then
               { f.bit i with s := decide (fgRandom f.key.toNat f.sweep.toNat i c.colour
                 < fgThreshold (f.beta.toNat * f.field (f.bit i))) }
             else f.bit i))
       ∧ (f.det = true → f.ncol = c.colour + 1 →
         ∃ (f' : Filigree), exec (.filSweepColour die) s = .next (filIs s die f')
           ∧ f'.sweep = f.sweep + 1 ∧ f'.key = f.key
           ∧ f'.cmds = (if c.left ≤ 1 then { c with left := c.left - 1, colour := 0, status := some (0, 0) } :: rest
               else { c with left := c.left - 1, colour := 0 } :: rest)
           ∧ ∀ i < f.nb, f'.bit i = if (now i).s = true then { now i with count := min ((now i).count + 1) 65535 }
               else now i)
       ∧ (f.det = false → c.colour + 1 < f.ncol →
         ∃ (f' : Filigree) (n : Nat), exec (.filSweepColour die) s = .next (filIs { s with free := n } die f')
           ∧ f'.cmds = { c with colour := c.colour + 1 } :: rest ∧ f'.sweep = f.sweep
           ∧ ∀ i < f.nb, if acts i then ∃ u < 2 ^ 16, f'.bit i = { f.bit i with s := decide (u < limit i) }
               else f'.bit i = f.bit i))
/-! ## System instructions -/

/-- R316-R318, R321, R323, R324, R394: `SYSRD` of a listed register that a supervisor wave may read gives its
value; an unlisted number below 0x800 is UNIMPL, one from 0x800 or without read access ILLEGAL, both with
DETAIL 8. No register gives a wave write access, so every `SYSWR` that acts takes the trap.
R8, R124, R317: an index at or beyond the registers that its base leaves is ILLEGAL with DETAIL 8; a
system, engine or launch instruction whose guard does not hold does nothing, and the wave goes on. -/
def Obligations.SystemRegisters : Prop :=
  (∀ (o : WOp) (s : State) (k : Nat) (w : Wave) (g : Gang) (n : Nat), At s k w → inGang s w g →
     w.guardGrp o.guard = true →
     (o.m.getLsbD 4 = false ∧ n = srnBase o) ∨ (o.m.getLsbD 4 = true
       ∧ (w.greg o.b.toNat).toNat < sysArray (srnBase o) ∧ n = srnBase o + (w.greg o.b.toNat).toNat) →
     let reads := fun (v : Nat) => exec (.sysrd o) s
       = .next (s.retire k (w.setG o.d.toNat (BitVec.ofNat 64 v)) o.len)
     (n = 0x080 → reads s.pkg.cur)
     ∧ (n = 0x081 → reads ((if s.pkg.busy then 1 else 0) + (if s.pkg.refused then 2 else 0) + 4 * s.pkg.cur))
     ∧ (n = 0x0E0 → reads s.pkg.ready.toNat)
     ∧ (∀ i < 4, n = 0x0C0 + i → reads ((s.die i).fil.owner
         + if (s.die i).fil.pendOwner.isSome then 4096 else 0))
     ∧ (∀ c, n = 0x0D0 → s.ctxs.find g.ctx = some c → reads c.regs.wdog.toNat)
     ∧ (∀ i < 8, n = 0x040 + i → w.sys.inTrap = true →
         reads (w.sys.trec.extractLsb' (64 * i) 64).toNat)
     ∧ (sysListed n = true → n ≠ 0x091 → n ≠ 0x092 → ¬ (0x040 ≤ n ∧ n ≤ 0x047) →
         reads (s.sysReg g.ctx g.dev (some (coreDie (slotCore k))) n))
     ∧ (sysListed n = false → n < 0x800 → exec (.sysrd o) s = .next (entryTrap s k w true 48)
         ∧ exec (.syswr o) s = .next (entryTrap s k w true 48))
     ∧ (0x800 ≤ n → exec (.sysrd o) s = .next (entryTrap s k w false 48)
         ∧ exec (.syswr o) s = .next (entryTrap s k w false 48))
     ∧ (n = 0x091 ∨ n = 0x092 ∨ (0x040 ≤ n ∧ n ≤ 0x047 ∧ w.sys.inTrap = false) →
         exec (.sysrd o) s = .next (entryTrap s k w false 48))
     ∧ (sysListed n = true → exec (.syswr o) s = .next (entryTrap s k w false 48)))
  ∧ (∀ (o : WOp) (s : State) (k : Nat) (w : Wave), At s k w →
       (w.guardGrp o.guard = true → o.m.getLsbD 4 = true →
         sysArray (srnBase o) ≤ (w.greg o.b.toNat).toNat →
         exec (.sysrd o) s = .next (entryTrap s k w false 40)
           ∧ exec (.syswr o) s = .next (entryTrap s k w false 40))
       ∧ (w.guardGrp o.guard = false → ∀ i ∈ [Instr.sysrd o, .syswr o, .rtt o, .rttSkip o, .rttGo o,
           .clbInv o, .tlbInvVa o, .tlbInvCtx o, .ceStart o, .ceWait o, .gthr o, .sctr o, .launch o],
         exec i s = .next (s.retire k w o.len)))

/-- R36, R37, R362: the returns. From the trap handler, with the stack as deep as at its entry, the wave goes
on at the recorded PC, past the recorded instruction, or at G[A], in the recorded privilege, EXM among the
lanes permitted there; with another depth, or an unaligned G[A], its context fails. From the lane handler
the parked lanes left out of EXM end, nothing stays parked, and the others replay: those at the lowest
recorded PC first, from that PC, with the rest in RPL; with none to replay, the RJOIN entry is popped and its
lanes go on at STOP. A wave of which no lane stays live ends, once nothing of it is outstanding, a request at the
pool unit included (log 140). An unbalanced stack is CVG.UNBAL (8). In the lane handler the words of `RTT.SKIP` and
`RTT.GO` take ILLEGAL with DETAIL 8; that the record names FN is log 17's.
R35, R37, R41: the lane handler. At a convergence point in user mode with lanes parked and no replay in
progress the wave executes no instruction: an RJOIN entry of EXM or PARK and PC is pushed, HRET holds PC and
EXM, EXM becomes PARK, and the wave goes on at the kernel's handler as a supervisor; with no handler it takes
LANE.UNHANDLED (9), with 32 entries on the stack CVG.OVF (5). During a replay, the wave at STOP pops a PATH
entry, or starts the next replay; at another convergence point it takes CVG.STRAY (7). -/
def Obligations.Returns : Prop :=
  (∀ (o : WOp) (s : State) (k : Nat) (w : Wave), At s k w → w.guardGrp o.guard = true →
     let t := w.sys.trec.extractLsb' 64 64
     let d := (w.sys.trec.extractLsb' 48 6).toNat
     (w.sys.inTrap = true → w.stack.length = d →
       exec (.rtt o) s = .next (s.setWave k (returned w t))
       ∧ exec (.rttSkip o) s = .next (s.setWave k (returned w (t + if w.sys.trec.getLsbD 136 then 16 else 8)))
       ∧ ((w.greg o.a.toNat).toNat % 8 = 0 →
         exec (.rttGo o) s = .next (s.setWave k (returned w (w.greg o.a.toNat))))
       ∧ ((w.greg o.a.toNat).toNat % 8 ≠ 0 → exec (.rttGo o) s = .next (failContext s k w w.sys.trec)))
     ∧ (w.sys.inTrap = true → w.stack.length ≠ d → ∀ i ∈ [Instr.rtt o, .rttSkip o, .rttGo o],
       exec i s = .next (failContext s k w w.sys.trec))
     ∧ (w.sys.inTrap = false → w.stack.length ≠ w.sys.hdepth → exec (.rtt o) s = .next (takeTrap s k w
         (trapRec w 8 w.stack.length 0 s.insn.1 s.insn.2 0 0)))
     ∧ (w.sys.inTrap = false → w.stack.length = w.sys.hdepth → w.stack ≠ [] →
       let live := w.live &&& ~~~(w.park &&& ~~~(w.exm &&& w.park))
       (live ≠ 0 → ∃ (w' : Wave), exec (.rtt o) s = .next (s.setWave k w') ∧ nextReplay (toReplay w) w'
         ∧ w'.live = live ∧ w'.park = 0
         ∧ w'.sys.sup = false ∧ w'.sys.inLane = false ∧ w'.stop = w.hretPc ∧ w'.regs = w.regs
         ∧ w'.exm &&& ~~~live = 0)
       ∧ (live = 0 → s.relBusy k = true ∨ (∃ q ∈ s.poolReqs, q.wave = k) → exec (.rtt o) s = .next s)
       ∧ (live = 0 → s.relBusy k = false → (∀ q ∈ s.poolReqs, q.wave ≠ k) → ∃ (t' : State),
         exec (.rtt o) s = .next t' ∧ t'.waves.find k = none))
     ∧ (∀ (cx : DecodeCtx) (w0 w1 : W64), cx.inTrap = false →
       decodeWave { cx with inTrap := true } w0 w1 = .ok (.rttSkip o)
         ∨ decodeWave { cx with inTrap := true } w0 w1 = .ok (.rttGo o) →
       decodeWave cx w0 w1 = .error ⟨false, 8, 19, 23⟩)
     ∧ (∀ (s' s2 : State) (x : Slot) (ws : W64 × W64), Fetches s' x k w s2 ws → s2.issued = none →
       w.sys.inTrap = false → let w' := atFetch s' x w
       decodeWave { s2.decodeCtx w' with inTrap := true } ws.1 ws.2 = .ok (.rttSkip o)
         ∨ decodeWave { s2.decodeCtx w' with inTrap := true } ws.1 ws.2 = .ok (.rttGo o) →
       exec (.waveIssue x) s' = .next (slotHeld s' (takeTrap s2 k w' (trapRec w' 2 8 0 ws.1 ws.2 0
         (BitVec.ofNat 64 (19 + 23 * 256)))) x k none w)))
  ∧ (∀ (s : State) (x : Slot) (k : Nat) (w : Wave) (s2 : State) (ws : W64 × W64) (i : Instr) (h : W64),
       Fetches s x k w s2 ws → s2.issued = none →
       let w1 := atFetch s x w
       decodeWave (s2.decodeCtx w1) ws.1 ws.2 = .ok i → w.sys.sup = false →
       (∃ g e, s2.gangs.find w.gang = some g ∧ s2.entry? g.ctx g.launch = some e ∧ e.kd.handler = h) →
       let ends := fun (t : State) => exec (.waveIssue x) s = .next (slotHeld s t x k none w)
       let traps := fun (cause detail : Nat) (t6 : W64) =>
         ends (takeTrap s2 k w1 (trapRec w1 cause detail 0 ws.1 ws.2 t6 0))
       (¬ replaying w → cvgPoint i = true → w.park ≠ 0 →
         (h ≠ 0 → w.stack.length < 32 → ends (s2.setWave k (inHandler w1 h)))
         ∧ (h = 0 → traps 9 0 w.park)
         ∧ (h ≠ 0 → 32 ≤ w.stack.length → traps 5 w.stack.length 0))
       ∧ (replaying w → w.pc = w.stop →
         (∀ e t, w.stack = e :: t → e.kind = 1 → ends (s2.setWave k { w1 with
           stack := t
           pc := e.pc
           exm := e.mask &&& w1.permitted &&& w1.wmask }))
         ∧ (∀ e t, w.stack = e :: t → e.kind ≠ 1 → ∃ (w' : Wave), ends (s2.setWave k w') ∧ nextReplay w1 w'))
       ∧ (replaying w → w.pc ≠ w.stop → cvgPoint i = true → traps 7 w.stack.length 0)
       ∧ ((cvgPoint i = false ∨ (¬ replaying w ∧ w.park = 0)) → (replaying w → w.pc ≠ w.stop) →
         s2.converge k w1 i ws = none))

/-- R350: the invalidations. `TLB.INV.va` of a canonical address and `TLB.INV.ctx`, with nothing of the wave
outstanding, leave no translation of the context that covers the address, or none of it at all, in any
TLB or walker cache of its partition, and no last-page register of a resident wave of the context there, and
they end with no update of a reduction of the context outstanding; until the wave's own are performed they
stand still. The host's commands do the same.
R46, R354, R355: `PMAP` sends its active lanes' addresses to the pool unit. No issue slot takes its wave
while the next word names a register that takes a status still to come, but as a destination that it writes without
reading, and a lane that such a word has written over takes no status (log 143); the answer that ends
such a wait makes the wave ready. The unit answers the oldest request with its status. Where the walk
comes to a POOL entry and a page of the pool is left in the device's window, the unit takes the next page,
makes it zero, so that no cache holds an older byte of it, and writes the entry as a leaf of it, with status 0;
with no page left the status is 2. `PMAP.REC` gives each active lane word C of its fault record, and a C above
7 is ILLEGAL. -/
def Obligations.InvalidationsAndPool : Prop :=
  ((∀ (o : WOp) (s : State) (k : Nat) (w : Wave), At s k w → w.guardGrp o.guard = true → s.relBusy k = false →
     let ctx := s.ctxOf w
     (canonical (w.greg o.a.toNat).toNat = true → ∃ (t : State), exec (.tlbInvVa o) s
       = .next (t.retire k { w with sys := { w.sys with lastPage := [] } } o.len)
       ∧ forgotten t (s.partOf ctx) ctx (some (w.greg o.a.toNat).toNat) ∧ ∀ r ∈ t.redgs, r.ctx ≠ ctx)
     ∧ (canonical (w.greg o.a.toNat).toNat = false → exec (.tlbInvVa o) s = .next (illegalAt s k w 32))
     ∧ ∃ (t : State), exec (.tlbInvCtx o) s
       = .next (t.retire k { w with sys := { w.sys with lastPage := [] } } o.len)
       ∧ forgotten t (s.partOf ctx) ctx none ∧ ∀ r ∈ t.redgs, r.ctx ≠ ctx)
   ∧ (∀ (o : WOp) (s : State) (k : Nat) (w : Wave), At s k w → w.guardGrp o.guard = true → s.relBusy k = true →
     (canonical (w.greg o.a.toNat).toNat = true → exec (.tlbInvVa o) s = .next s)
     ∧ exec (.tlbInvCtx o) s = .next s)
   ∧ (∀ (s : State) (ctx : Nat) (c : Ctx), s.ctxs.find ctx = some c →
     let idle := (∀ r ∈ s.redgs, r.ctx ≠ ctx) ∧ ∀ n y, s.cores.find n = some y → y.wcb = []
     (∃ (t : State), exec (.hostTlbInvVa ctx) s = .next t
       ∧ forgotten t (s.partOf ctx) ctx (some c.regs.invVa.toNat) ∧ (∀ r ∈ t.redgs, r.ctx ≠ ctx)
       ∧ (idle → t.mem = s.mem ∧ t.ctxs = s.ctxs))
     ∧ ∃ (t : State), exec (.hostTlbInvCtx ctx) s = .next t ∧ forgotten t (s.partOf ctx) ctx none
       ∧ (∀ r ∈ t.redgs, r.ctx ≠ ctx) ∧ (idle → t.mem = s.mem ∧ t.ctxs = s.ctxs)))
  ∧ ((∀ (o : WOp) (s : State) (k : Nat) (w : Wave), At s k w →
       (∃ rs, exec (.pmap o) s = .next ({ s with poolReqs := s.poolReqs ++ rs }.retire k
           { w with poolPend := w.poolPend + (w.active o.guard).length } o.len)
         ∧ rs = (w.active o.guard).map (fun l => (⟨s.ctxOf w, k, l, o.d.toNat,
             BitVec.ofNat 64 (w.vgrp 2 o.b.toNat l), false⟩ : PoolReq)))
       ∧ (o.c.toNat ≤ 7 → ∃ (w' : Wave), exec (.pmapRec o) s = .next (s.retire k w' o.len)
         ∧ OnlyRegs w w' (fun r l => l ∈ w.active o.guard ∧ (r = o.d.toNat ∨ r = o.d.toNat + 1)) never1 never2
             never1 0
         ∧ ∀ l ∈ w.active o.guard, w'.vgrp 2 o.d.toNat l
             = ((w.sys.frec.getD l 0).extractLsb' (64 * o.c.toNat) 64).toNat)
       ∧ (7 < o.c.toNat → exec (.pmapRec o) s = .next (illegalAt s k w 48)))
     ∧ (∀ (s : State) (x : Slot) (cycle k : Nat) (w : Wave) (w0 : W64) (q : PoolReq),
       s.pick x cycle = some (k, w) → s.nextWord k w = .ok w0 → q ∈ s.poolReqs → q.wave = k → q.late = false →
       ∀ u ∈ operandsOf w0, ∀ n, u.cls = .v n → u.val.toNat ≤ q.dst → q.dst < u.val.toNat + n →
         u.lo = 24 ∧ (writesLanes (rawOf w0 0).op.toNat (rawOf w0 0).fn.toNat = true
           ∨ ((rawOf w0 0).op = 0xFC#8 ∧ (rawOf w0 0).fn = 0#5)))
     ∧ (∀ (s : State) (ctx : Nat) (r : PoolReq) (w : Wave) (g : Gang) (c : Ctx) (pa e : Nat),
       s.poolReqs.find? (fun x => x.ctx = ctx) = some r → s.waves.find r.wave = some w →
       s.gangs.find w.gang = some g →
       let ob : Obs := ⟨ctx, dieMask (s.devDies ctx g.dev), 4 + s.servingIo ctx g.dev, none, none⟩
       let s1 : State := { s with poolReqs := s.poolReqs.erase r }
       s.poolOn ctx g.dev ob r.va.toNat = true → canonical r.va.toNat = true → s.ctxs.find ctx = some c →
       s1.poolWalk ob r.va.toNat [0, 1, 2] c.root = .pool pa e →
       let p := c.pool + 65536 * c.poolUsed
       let replies := fun (t : State) (st : Nat) => t.poolAnswer r st (s.poolHolds r.wave w)
       (c.poolUsed < c.pooln → s1.inWindow ctx g.dev p 65536 = true → p % 65536 = 0 → p < 2 ^ 52 →
         ∃ (z : State) (leaf : Nat), exec (.poolUnitRequest ctx) s = .next (replies (z.writeEntry ob pa leaf) 0)
           ∧ zeroed z p 65536 ∧ z.ctxs.find ctx = some { c with poolUsed := c.poolUsed + 1 }
           ∧ mappedLeaf e p leaf)
       ∧ (c.pooln ≤ c.poolUsed ∨ s1.inWindow ctx g.dev p 65536 = false →
         exec (.poolUnitRequest ctx) s = .next (replies s1 2)))
     ∧ (∀ (s : State) (ctx : Nat) (r : PoolReq) (w : Wave) (g : Gang),
       s.poolReqs.find? (fun x => x.ctx = ctx) = some r → s.waves.find r.wave = some w →
       s.gangs.find w.gang = some g → s.poolOn ctx g.dev
         ⟨ctx, dieMask (s.devDies ctx g.dev), 4 + s.servingIo ctx g.dev, none, none⟩ r.va.toNat = true →
       ∃ (t : State) (w' : Wave) (st : Nat), exec (.poolUnitRequest ctx) s = .next t ∧ st ≤ 3
         ∧ t.waves.find r.wave = some w'
         ∧ (r.late = false → w'.regs = (w.setV r.dst r.lane (BitVec.ofNat 32 st)).regs)
         ∧ (r.late = true → w'.regs = w.regs)
         ∧ w'.poolPend = w.poolPend - 1 ∧ w'.pc = w.pc
         ∧ (s.poolHolds r.wave w = true → (∀ x ∈ t.poolReqs, x.wave ≠ r.wave) →
           w'.ready = (s.core (slotCore r.wave)).cycle) ∧ (s.poolHolds r.wave w = false → w'.ready = w.ready)
         ∧ t.poolReqs = s.poolReqs.erase r
         ∧ (canonical r.va.toNat = false → st = 3)))

/-! ## Launches and the host's queues -/

/-- R228: `LAUNCH` with nothing outstanding, its reads in no footprint and their islands performing, writes
G[D]: a refusal with bit 63 for an address that is not 64-byte aligned or a record that is malformed (code 3),
one that cannot be read (5), one that does not resolve (1, 2, 3 or 5 by its status) or finds the device-side
queue full (4); for a legal record that resolves, with room in the device-side queue, the child's
identifier, the context's next, and the child joins the queue. A CANCEL record asks for its cancel, and a wave
whose own launch it covers is to be discarded (R343). With accesses outstanding it stands still; with a read in
a footprint it waits. Its reads are ordinary, made by the die without the core's L1 (log 55). -/
def Obligations.Launches : Prop :=
  ∀ (o : WOp) (s : State) (k : Nat) (w : Wave) (g : Gang), At s k w → inGang s w g →
    w.guardGrp o.guard = true →
    let s0 := s.releasePoint k w false
    let va := (w.greg o.a.toNat).toNat
    let ob := s0.waveObs k w
    let rs := s0.launchReads ob va
    (s.relBusy k = true → exec (.launch o) s = .next s)
    ∧ (s.relBusy k = false → s.slicesOn (s.waveObs k w) rs = false → exec (.launch o) s = .next s)
    ∧ (s.relBusy k = false → s.slicesOn (s.waveObs k w) rs = true →
      (∀ j, rs.findSome? (fun p => s.heldBy w.gang false false p.1 p.2) = some j →
        exec (.launch o) s = .next (s.waitOn k w .footprint j 0 (.launch o)))
      ∧ ((∀ p ∈ rs, s.heldBy w.gang false false p.1 p.2 = none) →
        let gives := fun (t : State) (v : Nat) => exec (.launch o) s
          = .next (t.retire k (w.setG o.d.toNat (BitVec.ofNat 64 v)) o.len)
        (va % 64 ≠ 0 → gives s0 (2 ^ 63 + 3))
        ∧ (∀ s1 e, va % 64 = 0 → s0.readG ob .die false va 128 = (s1, .error e) → gives s1 (2 ^ 63 + 5))
        ∧ (∀ s1 bs, va % 64 = 0 → s0.readG ob .die false va 128 = (s1, .ok bs) →
          let r := natOf bs
          (2 ≤ rKind r ∨ rEG r = true ∨ rEP r = true ∨ rEJ r = true ∨ recOk r = false →
            gives s1 (2 ^ 63 + 3))
          ∧ (rEG r = false → rEP r = false → rEJ r = false → recOk r = true →
            (∀ p, rKind r = 1 → rDone r = 0 → s1.entry? g.ctx g.launch = some p → ∃ own,
              exec (.launch o) s = .next (State.retire { s1 with
                  cancels := s1.cancels ++ [⟨s1.servingIo g.ctx g.dev, g.ctx, rLevel r, rVa r, none⟩] } k
                { w.setG o.d.toNat (BitVec.ofNat 64 (rVa r)) with cancel := w.cancel || own } o.len)
              ∧ (own = true ↔ covered p (rLevel r) (rVa r)))
            ∧ (∀ s2 st, rKind r = 0 → s1.resolve ob .die false g.dev r = (s2, .error st) →
              gives s2 (2 ^ 63 + (if st = 3 then 1 else if st = 4 then 2 else if st = 2 ∨ st = 5 then 3 else 5)))
            ∧ (∀ s2 x p c, rKind r = 0 → s1.resolve ob .die false g.dev r = (s2, .ok x) →
              s1.entry? g.ctx g.launch = some p → s2.ctxs.find g.ctx = some c →
              let mine := (c.devq.filter (fun e => e.dev = g.dev)).length
              (1024 ≤ mine → gives s2 (2 ^ 63 + 4))
              ∧ (mine < 1024 → ∃ (t : State) (c' : Ctx) (e : Entry), gives t c.nextId
                ∧ t.ctxs.find g.ctx = some c' ∧ c'.nextId = c.nextId + 1 ∧ c'.devq = c.devq ++ [e]
                ∧ e.id = c.nextId ∧ e.parents = p.id :: p.parents ∧ e.prio = min p.prio (rPrio r)
                ∧ e.child = true))))))

/-- R326-R328: writes of BIND and DOORBELL. A write that sets V of an unbound queue binds it with HEAD zero;
one that clears V of a bound queue leaves it bound until its records have completed; then it is unbound, and
meanwhile no record of it is read (log 49). A doorbell, and on a CXL link the taking of the descriptor's line
with the bytes that the host wrote, make the front end read RING, LOG2N and TAIL there.
R327, R329-R333, R337, R338, R343: the front end reads the head record of the queue it chose: HEAD
advances, and a record of a queue that nothing has stopped, if it is malformed, ends its levels with STATUS 5; a
LAUNCH or COPY that does not resolve ends them with its status, and one that resolves enters the window; a
CANCEL asks for its cancel; a REPLACE of an entry beyond the table ends with STATUS 3. EG, EP and EJ of a CANCEL
or REPLACE end levels as those of a LAUNCH do (log 51), and ID and LEVEL of its word are free (log 50). A
child at the head of a device-side queue, its level not stopped, leaves the queue for the window. -/
def Obligations.HostQueues : Prop :=
  (∀ (s : State) (ctx q : Nat) (c : Ctx) (val : BitVec 64), s.ctxs.find ctx = some c →
     q < 64 * (s.devs c).length →
     let da := (val.extractLsb' 6 46).toNat * 64
     (val.getLsbD 0 = true → c.queues.find q = none → ∃ (t : State) (x : Queue),
       exec (.bindWrite ctx q val) s = .next t ∧ queueIs t ctx q x ∧ x.v = true ∧ x.daddr = da
         ∧ x.head = 0 ∧ x.unbind = false)
     ∧ (∀ x, c.queues.find q = some x → x.v = true → val.getLsbD 0 = false →
       ∃ (t : State), exec (.bindWrite ctx q val) s = .next t
         ∧ queueIs t ctx q { x with unbind := true, nextDaddr := da })
     ∧ (∀ x, c.queues.find q = some x → x.unbind = true →
       (∀ e ∈ s.entries, e.ctx = ctx → e.queue ≠ some q) → (∀ e ∈ c.devq, e.ctx = ctx → e.queue ≠ some q) →
       ∃ (t : State), exec (.bindClearEffect ctx q) s = .next t
         ∧ queueIs t ctx q { x with v := false, unbind := false, daddr := x.nextDaddr })
     ∧ (c.queues.find q = none → exec (.queueDoorbell ctx q) s = .next s)
     ∧ (∀ x, c.queues.find q = some x → x.v = true →
       let d := natOf (s.physRead (dieMask (s.devDies ctx (q / 64))) x.daddr 64)
       ∃ (t : State) (y : Queue), exec (.queueDoorbell ctx q) s = .next t ∧ queueIs t ctx q y
         ∧ (fld d 256 3 = 0 → y = { x with
             ring := d % 2 ^ 64, log2n := d / 2 ^ 64 % 2 ^ 4, tail := BitVec.ofNat 32 (d / 2 ^ 128) }))
     ∧ (∀ x data, c.queues.find q = some x → x.v = true → nth s.pkg.cxl (s.servingIo ctx (q / 64)) false = true →
       data.length = 64 →
       ∃ (t : State) (y : Queue), exec (.queueLineTaken ctx q data) s = .next t ∧ queueIs t ctx q y
         ∧ (descAt s x.daddr → fld (natOf data) 256 3 = 0 → y = { x with
             ring := natOf data % 2 ^ 64
             log2n := natOf data / 2 ^ 64 % 2 ^ 4
             tail := BitVec.ofNat 32 (natOf data / 2 ^ 128) }))
     ∧ (∀ io cand, cand ∈ s.hostHeads io → cand.ctx = ctx → cand.q = q → (rising s.ctxs → rising c.queues →
       ∃ x, c.queues.find q = some x ∧ x.v = true ∧ x.unbind = false ∧ x.head ≠ x.tail)))
  ∧ (∀ (s : State) (io : Nat) (c : Cand) (x : Queue),
       let s1 := taken s io c x
       let r := c.rec_
       (∀ kind i, (kind, i) ∈ [(0, Instr.frontEndReadLaunch io), (3, .frontEndReadCopy io)] →
         NextRecord s io kind c x →
         let q := s1.levelsFor c.ctx c.dev c.q
         s1.deadQueue c.ctx c.q = none →
           (recOk r = false → exec i s = .next ((q.1.endLevels c.ctx c.dev c.q r 5 q.2).launchDone c.ctx q.2 5 0))
           ∧ (∀ s2 st, recOk r = true → q.1.resolve (q.1.frontObs c.ctx c.dev) .engine true c.dev r
               = (s2, .error st) →
             exec i s = .next ((s2.endLevels c.ctx c.dev c.q r st q.2).launchDone c.ctx q.2 st 0))
           ∧ (∀ s2 y z, recOk r = true → q.1.resolve (q.1.frontObs c.ctx c.dev) .engine true c.dev r = (s2, .ok y) →
             s2.queue? c.ctx c.q = some z → ∃ (e : Entry),
             exec i s = .next ((s2.accept e).endLevels c.ctx c.dev c.q r 0 q.2)
               ∧ e.ctx = c.ctx ∧ e.dev = c.dev ∧ e.id = q.2 ∧ e.kd = y.kd ∧ e.args = y.args ∧ e.ranges = y.ranges
               ∧ e.graph = z.graph ∧ e.phase = z.phase ∧ e.job = z.job ∧ e.prio = rPrio r
               ∧ e.copy = decide (rKind r = 3)))
       ∧ (NextRecord s io 1 c x → s1.deadQueue c.ctx c.q = none →
         (recOk r = false → exec (.frontEndReadCancel io) s = .next (s1.endLevels c.ctx c.dev c.q r 5 0))
         ∧ (recOk r = true → exec (.frontEndReadCancel io) s = .next (State.endLevels
           { s1 with cancels := s1.cancels ++ [⟨io, c.ctx, rLevel r, rVa r, none⟩] } c.ctx c.dev c.q r 0 0)))
       ∧ (NextRecord s io 2 c x → s1.deadQueue c.ctx c.q = none →
         (recOk r = false → exec (.frontEndReadReplace io) s = .next (s1.endLevels c.ctx c.dev c.q r 5 0))
         ∧ (∀ y, recOk r = true → s1.ctxs.find c.ctx = some y →
           (y.kitn ≤ rKidx r → exec (.frontEndReadReplace io) s = .next (s1.endLevels c.ctx c.dev c.q r 3 0))
           ∧ (∀ s2, rKidx r < y.kitn → s1.replaceEntry (s1.frontObs c.ctx c.dev) (y.kitAt (rKidx r))
               (bytesOf 8 (rVa r)) = (s2, none) →
             exec (.frontEndReadReplace io) s = .next (s2.endLevels c.ctx c.dev c.q r 0 0))))
       ∧ (∀ y e, s.feChoose io = some c → c.kind = 0 → c.child = true → s.ctxs.find c.ctx = some y →
         y.devq.find? (fun e => e.dev = c.dev) = some e → y.failed = false → y.poisoned = false →
         (∀ l, s.level? c.ctx e.id = some l → l.stopped = false) →
         exec (.frontEndReadLaunch io) s = .next (State.accept (State.modCtx
           { s with pkg := { s.pkg with feDev := s.pkg.feDev.put io c.key } } c.ctx
             (fun y => { y with devq := y.devq.erase e })) e)))
/-! ## Clasp -/

/-- R333, R339-R341, R363, R364, R39: admission, placement, pre-emption, restoration and retirement, where they
may happen: that it is the launch's turn (R340, R341 and log 60), that the scan finds a place (from where log 117
lets it begin) and that the islands needed perform (R399) are premises. A placed gang holds the next
gang number and index, its scratch is zero, and a wave of it starts at the kernel's entry with every lane in EXM
and LIVE and zero registers. A saved gang comes back where its live waves, engine slots, footprints, claims and Filigree
array fit (log 62), with what was saved (log 63). That a gang does not retire while a cancel of its launch that its
own waves asked for is to come is the model's reading (log 119).
R343, R388, R330, R374: a cancel takes effect when the arbiter of the serving I/O die orders it, after the
event records before it. A level that is complete, or that is none, is unchanged, and CSTAT reads 1. Otherwise
the levels under it are stopped and will report STATUS 1, no entry under it is admitted or placed any more, its
images are gone, and each of its waves leaves its slot, or is discarded at its next issue slot. -/
def Obligations.ClaspMoves : Prop :=
  ((∀ (s : State) (order : Nat) (e : Entry), hasEntry s order e → e.admitted = false → e.held = false →
     e.cancelled = false → e.edges.all s.edgeMet = true →
     s.claspOn e = true →
     (e.copy = false → exec (.claspAdmit order) s = .next { s with entries := s.entries.map (fun x =>
       if x.order = order then { x with admitted := true } else x) })
     ∧ (∀ n slot, e.copy = true → minBy s.running (ioEngines (s.servingIo e.ctx e.dev)) = some n →
       (s.engine n).freeSlot = some slot →
       ∃ (t : State) (p : Prog), exec (.claspAdmit order) s = .next t ∧ t.prog? n slot = some p
         ∧ p.cpc = e.prog ∧ p.dbar = 0xFFFFFFFF ∧ p.owner.gang = none ∧ p.owner.launch = e.id))
   ∧ (∀ (s : State) (order p : Nat) (cs : List Nat) (e : Entry), hasEntry s order e → s.wants e = true →
     s.imagesOf e = [] → s.turn e = true → e.coop = false → e.order = order →
     s.gangPos e e.nextGang (fun _ => List.range e.wgw) (fun _ => true) = some (p, cs) →
     s.gangOn cs ((s.images.find s.nextGang).any (·.fil.isSome)) = true →
     ∃ (t : State) (g : Gang), exec (.gangPlace order) s = .next t ∧ t.gangs.find s.nextGang = some g
       ∧ t.nextGang = s.nextGang + 1 ∧ g.gangId = e.nextGang ∧ g.launch = e.id ∧ g.ctx = e.ctx ∧ g.cores = cs
       ∧ g.scratch = [] ∧ g.waves = e.wgw ∧ g.phase = .resident
       ∧ (∀ c pos, cs = [c] → e.wgw = 1 → pos < 64 → s.waves.find (c * 64 + pos) = none →
         ∃ (k : Nat) (w' : Wave), s.waves.find k = none ∧ t.waves.find k = some w' ∧ slotCore k = c
           ∧ w'.gang = s.nextGang ∧ w'.wg = 0 ∧ w'.wid = 0 ∧ w'.pc = e.kd.entry ∧ w'.exm = w'.live
           ∧ (∀ l, lane w'.live l = decide (l < w'.width)) ∧ w'.regs.v = [] ∧ w'.regs.g = [] ∧ w'.regs.p = []
           ∧ w'.regs.gp = 0 ∧ w'.regs.c = [] ∧ w'.regs.mode = e.kd.mode ∧ w'.regs.flags = 0 ∧ w'.stack = []
           ∧ w'.sys.sup = false))
   ∧ (∀ (s : State) (gang : Nat) (g : Gang), s.gangs.find gang = some g →
     (∀ vs, g.phase = .resident → (s.entries.map s.victims).find? (fun vs => vs.contains gang) = some vs →
       ∃ (t : State), exec (.gangPreempt gang) s = .next t ∧ ∀ v ∈ vs, ∀ x, s.gangs.find v = some x →
         t.gangs.find v = some { x with phase := .stopping })
     ∧ (∀ slot rest c, g.phase = .stopping → s.quiet gang g = true → s.freeArena g.ctx = slot :: rest →
       s.ctxs.find g.ctx = some c →
       ∃ (t : State) (m : Image), exec (.gangPreempt gang) s = .next t ∧ t.images.find gang = some m
         ∧ m.slot = slot ∧ m.gang = { g with phase := .saved }
         ∧ t.gangs.find gang = some { g with phase := .saved })
     ∧ (g.phase ≠ .saved → s.gangWaves gang = [] → s.gangBusy gang = false → s.cancelAsked g = false →
       ∃ (t : State), exec (.gangRetire gang) s = .next t ∧ t.gangs.find gang = none)
     ∧ (s.cancelAsked g = true → exec (.gangRetire gang) s = .refused (.notEnabled "GANG_RETIRE")))
   ∧ (∀ (s : State) (gang p : Nat) (cs : List Nat) (m : Image) (e : Entry), s.images.find gang = some m →
     s.entry? m.gang.ctx m.gang.launch = some e → hasEntry s e.order e → s.wants e = true →
     (s.imagesOf e).head? = some (gang, m) → s.turn e = true → e.coop = false →
     s.gangPos e m.gang.gangId (fun n => (m.waves.filter (fun w => w.wg = n)).map (·.wid)) (s.restoreOk gang m)
       = some (p, cs) → s.gangOn cs m.fil.isSome = true →
     ∃ (t : State) (g : Gang), exec (.gangRestore gang) s = .next t ∧ t.gangs.find gang = some g
       ∧ g.cores = cs ∧ g.scratch = m.gang.scratch ∧ g.gangId = m.gang.gangId ∧ g.phase = .resident
       ∧ t.images = s.images.del gang))
  ∧ ((∀ (s : State) (io : Nat) (r : CancelReq), s.cancels.find? (fun x => x.io = io && !s.cancelHeld x) = some r →
       let s1 : State := { s with cancels := s.cancels.erase r }
       (r.level ≠ 0 → (∀ l, s.level? r.ctx r.target = some l → l.complete = true ∨ l.level ≠ r.level) →
         (r.queue = none → exec (.cancelTakeEffect io) s = .next (s1.flushEvents r.ctx))
         ∧ (∀ q x, r.queue = some q → s.queue? r.ctx q = some x → x.v = true → descAt s x.daddr →
           ∃ (t : State), exec (.cancelTakeEffect io) s = .next t ∧ t.waves = s.waves ∧ t.entries = s.entries
             ∧ t.physRead (dieMask (s.devDies r.ctx (q / 64))) (x.daddr + 32) 2 = [0#8, 1#8]))
       ∧ (∀ c, s.ctxs.find r.ctx = some c → (∀ q ∈ c.queues, q.2.tail = q.2.head) →
         r.level = 0 ∨ (∃ l, c.levels.find r.target = some l ∧ l.level = r.level ∧ l.complete = false) →
         ∃ (t : State), exec (.cancelTakeEffect io) s = .next t
           ∧ (∀ i l, r.level = 0 ∨ belongsTo c i r.target → c.levels.find i = some l → l.complete = false →
             ∃ (l' : Level), t.level? r.ctx i = some l' ∧ l'.stopped = true ∧ l'.ended = true
               ∧ l'.status = if l.lost then 7 else 1)
           ∧ (∀ e ∈ s.entries, e.ctx = r.ctx → covered e r.level r.target →
             (∀ x ∈ t.entries, x.order = e.order → x.cancelled = true)
             ∧ (∀ m ∈ t.images, ¬ (m.2.gang.ctx = e.ctx ∧ m.2.gang.launch = e.id))
             ∧ (∀ k w g, s.waves.find k = some w → s.gangs.find w.gang = some g → g.ctx = e.ctx →
               g.launch = e.id → (∀ m ∈ s.images, m.1 ≠ w.gang) →
               t.waves.find k = none ∨ ∃ (w' : Wave), t.waves.find k = some w' ∧ w'.cancel = true))))
     ∧ (∀ (s : State) (x : Slot) (k : Nat) (w : Wave), slotFree s x → s.issued = none →
       (slotStart s x).pick x ((s.core x.core).cycle + x.dt) = some (k, w) → w.preempt = false →
       w.cancel = true →
       exec (.waveIssue x) s = .next (slotHeld s ((slotStart s x).discardWave k) x k none w)
         ∧ ((slotStart s x).discardWave k).waves.find k = none))

/-! ## Contexts, partitions and grants -/

/-- R319, R320, R395: `CTXCMD` creates a context from a legal record and destroys one without work, and answers in
RESULT: 1 an identifier in use or not found, 2 a view that is not offered, 3 a partition that is absent or has
a function that is not ready, 4 a malformed record, 5 during a partition change, 6 work remains, 7 no context
is left. Where several apply, the order of a creation is 5, 3 for what is not ready, 4, 3, 2, 1, 7, and of a
destruction 5, 4, 1, 6; what makes a record malformed for a destruction is the model's reading too (log 64). A write
while BUSY is 1 is ignored, and a destruction before the firmware runs changes nothing (R404, log 71).
R318, R319, R324, R395, R404: a `PMODE` write while a context exists, during a change, of the reserved value,
of the value in force, or while a die is not ready is refused, also before the firmware runs (log 71), and
changes nothing else; otherwise the change begins. Its completion zeroes HBM, empties the caches, resets the
grants and sets CUR. A grant to a context of the die's partition, or to none, waits, any other is ignored, and
every one until the firmware runs; it takes effect with no wave of either context on the die, and leaves the
Filigree zero. -/
def Obligations.Contexts : Prop :=
  (∀ (s : State) (pa : Nat) (val : BitVec 64),
     let x := recordAt s pa
     let id := x % 2 ^ 32
     let part := x / 2 ^ 34 % 4
     let s1 := s.physSeen pa 64
     let ready := (partDies s.pkg.cur part).all s.dieReady
     (isCmd 1 pa val →
       (s.pkg.ctxBusy = true → exec (.ctxCreate val) s = .next s)
       ∧ (s.pkg.ctxBusy = false → s.pkg.busy = true → exec (.ctxCreate val) s = .next (s.ctxAnswer 5))
       ∧ (s.pkg.ctxBusy = false → s.pkg.busy = false → s.cmdOn val = true →
         let gives := fun (n : Nat) => exec (.ctxCreate val) s = .next (s1.ctxAnswer n)
         (ready = false → gives 3)
         ∧ (ready = true → s.recordBad x = true → gives 4)
         ∧ (ready = true → s.recordBad x = false → parts s.pkg.cur ≤ part → gives 3)
         ∧ (ready = true → s.recordBad x = false → part < parts s.pkg.cur →
           viewDevs s.pkg.cur part (x / 2 ^ 32 % 4) = none → gives 2)
         ∧ (ready = true → s.recordBad x = false → part < parts s.pkg.cur →
           (viewDevs s.pkg.cur part (x / 2 ^ 32 % 4)).isSome = true →
           ((s.ctxs.find id).isSome = true → gives 1)
           ∧ (s.ctxs.find id = none → 1024 ≤ s.ctxs.length → gives 7)
           ∧ (s.ctxs.find id = none → s.ctxs.length < 1024 →
             ∃ (t : State) (c : Ctx), exec (.ctxCreate val) s = .next t ∧ t.ctxs.find id = some c
               ∧ t.pkg.ctxResult = 0 ∧ c.view = x / 2 ^ 32 % 4 ∧ c.part = part
               ∧ c.root = x / 2 ^ 64 % 2 ^ 64 ∧ c.kitn = x / 2 ^ 192 % 2 ^ 32 ∧ c.tlen = x / 2 ^ 320 % 2 ^ 32
               ∧ c.pooln = x / 2 ^ 448 % 2 ^ 32 ∧ c.poolUsed = 0 ∧ c.nextId = 1 ∧ c.queues = [] ∧ c.failed = false
               ∧ (∀ n, n ≠ id → t.ctxs.find n = s.ctxs.find n) ∧ t.mem = s.mem ∧ t.waves = s.waves))))
     ∧ (isCmd 2 pa val →
       (s.pkg.ctxBusy = true ∨ s.pkg.ready.getLsbD 0 = false → exec (.ctxDestroy val) s = .next s)
       ∧ (s.pkg.ctxBusy = false → s.pkg.ready.getLsbD 0 = true →
         (s.pkg.busy = true → exec (.ctxDestroy val) s = .next (s.ctxAnswer 5))
         ∧ (s.pkg.busy = false → s.cmdOn val = true →
           let gives := fun (n : Nat) => exec (.ctxDestroy val) s = .next (s1.ctxAnswer n)
           (formBad x = true → gives 4)
           ∧ (formBad x = false → s.ctxs.find id = none → gives 1)
           ∧ (∀ c, formBad x = false → s.ctxs.find id = some c → s.hasWork id c = true → gives 6)
           ∧ (∀ c, formBad x = false → s.ctxs.find id = some c → s.hasWork id c = false →
             ∃ (t : State), exec (.ctxDestroy val) s = .next t ∧ t.ctxs.find id = none ∧ t.pkg.ctxResult = 0
               ∧ (∀ n, n ≠ id → t.ctxs.find n = s.ctxs.find n) ∧ t.mem = s.mem
               ∧ ∀ d, (s.die d).fil.owner = id → (t.die d).fil.pendOwner = some 0)))))
  ∧ (∀ (s : State),
       (∀ val : BitVec 64, let p := val.toNat % 4
         (s.ctxs ≠ [] ∨ s.pkg.busy = true ∨ p = 3 ∨ p = s.pkg.cur ∨ (∃ c < 4, s.pkg.ready.getLsbD (2 + c) = false) →
           exec (.pmodeWrite val) s = .next { s with pkg := { s.pkg with refused := true } })
         ∧ (s.ctxs = [] → s.pkg.busy = false → p ≠ 3 → p ≠ s.pkg.cur →
           (∀ c < 4, s.pkg.ready.getLsbD (2 + c) = true) →
           exec (.pmodeWrite val) s = .next { s with
             pkg := { s.pkg with busy := true, refused := false, next := p } }))
       ∧ (s.pkg.busy = true → ∃ (t : State), exec .pmodeChangeComplete s = .next t ∧ t.pkg.cur = s.pkg.next
         ∧ t.pkg.busy = false ∧ (∀ a, inHBM s a → memGet t.mem a = memDflt ∧ memGet t.mem (hbmAt a) = memDflt)
         ∧ t.walkc = [] ∧ (∀ c, (t.core c).l1 = [] ∧ (t.core c).wcb = [] ∧ (t.core c).tlb = [] ∧ (t.core c).clb = []
           ∧ (t.core c).icache = [] ∧ (t.core c).mcache = [] ∧ (t.core c).ccache = [])
         ∧ (∀ d, (t.die d).remote = [] ∧ (t.die d).ddr = [] ∧ (t.die d).victim = [] ∧ (t.die d).tlb = [] ∧ (t.die d).fil.owner = 0)
         ∧ t.curseg = s.curseg ∧ ∀ q, t.pkg.ph.getD q 0 = 0)
       ∧ (∀ (die : Nat) (val : BitVec 64), die < 4 → s.pkg.ready.getLsbD 0 = false →
         exec (.fgGrantWrite die val) s = .next s)
       ∧ (∀ (die : Nat) (val : BitVec 64), die < 4 → s.pkg.ready.getLsbD 0 = true →
         let n := val.toNat % 2 ^ 12
         (n = 0 ∨ (s.pkg.ready.getLsbD (26 + die) = true ∧ ∃ c, s.ctxs.find n = some c
             ∧ die ∈ partDies s.pkg.cur c.part) →
           exec (.fgGrantWrite die val) s = .next (filIs s die { (s.die die).fil with pendOwner := some n }))
         ∧ (n ≠ 0 → s.pkg.ready.getLsbD (26 + die) = false
             ∨ (∀ c, s.ctxs.find n = some c → die ∉ partDies s.pkg.cur c.part) →
           exec (.fgGrantWrite die val) s = .next s))
       ∧ (∀ die n, (s.die die).fil.pendOwner = some n → s.waveOn n die = false →
         s.waveOn (s.die die).fil.owner die = false →
         exec (.fgGrantEffect die) s = .next (filIs s die { Filigree.init with owner := n })))

/-! ## What the host and the world do to a context -/

/-- R296, R372: the answers to a faulted program. Resume sets it running, with every transfer going on; skip
sets it running at RPC without the transfer that its fault came from, the others going on (which transfer that is
when several have faulted, the one that the record names, is log 120's); discard keeps its
record, drops its transfers and its footprint. A cleared bit of `DBG.HOLD` sets the copy programs it held
running, and lets the gather jobs and children go on.
R52, R360, R373, R374, R383, R389: with every resident wave of a context waiting, no gang of it waiting for a
place and nothing of it held, the watchdog ends each wait and takes WATCHDOG in each wave that is not in the
trap handler, and posts a record of kind 4; when it does so is timing (log 79). The oldest waiting record is
written in the ring's next 128 bytes once the ring has room, EVTAIL advances, and the message of EVVEC is sent
where its function's link is up.
R387, R389, R390: the loss of a compute die marks it lost and poisons every context that it concerns, that
of an I/O die those that it serves or whose DDR it holds (log 73); an uncorrectable error poisons the sector that
holds its address, until package reset (log 22). -/
def Obligations.ContextEvents : Prop :=
  (∀ (s : State) (ctx : Nat) (c : Ctx), s.ctxs.find ctx = some c →
     (∀ (token : BitVec 32) (e slot : Nat) (p : Prog), s.faulted ctx token = some (e, slot, p) →
       exec (.engcmdResume ctx token) s = .next (s.setProg e slot { p with
         st := 1
         xfers := p.xfers.map (fun x => { x with faulted := false, told := false, culprit := false }) })
       ∧ exec (.engcmdSkip ctx token) s = .next (s.setProg e slot { p with
         st := 1
         xfers := (p.xfers.filter (fun x => !x.culprit)).map
           (fun x => { x with faulted := false, told := false, culprit := false })
         cpc := p.frec.extractLsb' 128 64 })
       ∧ ∃ (t : State), exec (.engcmdDiscard ctx token) s = .next t
         ∧ t.prog? e slot = some { p with xfers := [], discarded := true }
         ∧ ∀ k, ∀ f ∈ (t.core k).fps, f.job ≠ p.job)
     ∧ (∀ val : BitVec 64, ∃ (t : State) (c' : Ctx), exec (.dbgHoldWrite ctx val) s = .next t
       ∧ t.ctxs.find ctx = some c' ∧ c'.regs.holdCe = val.getLsbD 0 ∧ c'.regs.holdGu = val.getLsbD 1
       ∧ c'.regs.holdChild = val.getLsbD 2
       ∧ (val.getLsbD 0 = false → (∀ e slot p, t.prog? e slot = some p → p.owner.ctx = ctx → p.st ≠ 6)
         ∧ ∀ e slot p, s.prog? e slot = some p → p.owner.ctx = ctx → p.st = 6 →
           t.prog? e slot = some (letGo p))
       ∧ (val.getLsbD 1 = false → ∀ j ∈ t.gjobs, j.owner.ctx = ctx → j.held = false)
       ∧ (val.getLsbD 2 = false → ∀ e ∈ t.entries, e.ctx = ctx → e.held = false)))
  ∧ (∀ (s : State) (ctx : Nat) (c : Ctx), s.ctxs.find ctx = some c →
       (rising s.waves → c.regs.wdog ≠ 0 → (∃ q : Nat × Wave, q ∈ s.waves ∧ s.ctxOf q.2 = ctx) →
         (∀ q : Nat × Wave, q ∈ s.waves → s.ctxOf q.2 = ctx → q.2.wait.isSome = true) →
         (∀ e ∈ s.entries, e.ctx = ctx → s.wants e = false) → (∀ m : Nat × Image, m ∈ s.images →
           m.2.gang.ctx ≠ ctx) → s.holding ctx c = false →
         ∃ (t : State) (c' : Ctx), exec (.watchdogExpiry ctx) s = .next t ∧ t.ctxs.find ctx = some c'
           ∧ c'.events.getLast? = some ⟨4, 0, 0, 0, 0, 0, []⟩
           ∧ ∀ k w, s.waves.find k = some w → s.ctxOf w = ctx → w.sys.inTrap = false → c.tlen ≠ 0 →
             ∃ (w' : Wave), t.waves.find k = some w' ∧ w'.wait = none ∧ w'.sys.inTrap = true
               ∧ w'.pc = c.tcode ∧ w'.sys.trec.extractLsb' 0 16 = 0x000F#16)
       ∧ (∀ e rest, c.events = e :: rest → c.regs.evBase ≠ 0 →
         (c.regs.evTail - c.regs.evHead).toNat < 2 ^ c.regs.evLog.toNat →
         let pa := c.regs.evBase.toNat + 128 * (c.regs.evTail.toNat % 2 ^ c.regs.evLog.toNat)
         let fn := if c.regs.evVec.getLsbD 11 then 1 else 0
         s.paOn (s.frontObs ctx 0) pa = true →
         ∃ (t : State) (c' : Ctx), exec (.eventRecordWrite ctx) s = .next t ∧ t.ctxs.find ctx = some c'
           ∧ c'.events = rest ∧ c'.regs.evTail = c.regs.evTail + 1
           ∧ t.outbox = s.outbox ++ (if c.regs.evEn = true ∧ s.hostLink fn = true then
               [.msix fn (c.regs.evVec.toNat % 2048)] else [])
           ∧ (descAt s pa → e.kind < 256 → ∃ bs, eventRecord e bs
             ∧ t.physRead (dieMask (s.devDies ctx 0)) pa 128 = bs)))
  ∧ ((∀ (s : State) (die : Nat), die < 4 → (s.die die).lost = false →
       ∃ (t : State), exec (.dieLost die) s = .next t ∧ (t.die die).lost = true
         ∧ ∀ ctx c, s.ctxs.find ctx = some c → s.concerns die ctx c = true →
           ∃ c', t.ctxs.find ctx = some c' ∧ c'.poisoned = true)
     ∧ (∀ (s : State) (i : Nat), i < 2 → nth s.pkg.ioLost i false = false →
       ∃ (t : State), exec (.dieLost (4 + i)) s = .next t
         ∧ ∀ ctx c, s.ctxs.find ctx = some c → s.concerns (4 + i) ctx c = true →
           ∃ c', t.ctxs.find ctx = some c' ∧ c'.poisoned = true)
     ∧ (∀ (s : State) (pa : Nat), (s.paKind pa).isMem = true →
       ∃ (t : State), exec (.uncorrectableSoftError pa) s = .next t ∧ pa / 16 ∈ t.poison ∧ t.mem = s.mem
         ∧ t.waves = s.waves ∧ ∀ x, x ∈ t.poison ↔ x ∈ s.poison ∨ x = pa / 16))

/-- R316, R350, R357, R365, R371, R373, R374, R378, R379, R384-R386: the host's and the peers' accesses. A register
write changes its writable bits once the firmware runs, and before that only the mailbox's registers (R404):
the aperture's base, the records of outbound and inbound windows, ports and queue pairs, and of a context's
window the heaps, the events, the debug block, the watchdog, the invalidation's address, and, while the context
holds no image, the arena. Which registers take a write before the firmware
runs is the model's reading of R404 (log 71). A read of the aperture or of RDMA answers the bytes at the home; one
that no entry allows, or to no memory, answers without data and changes nothing; an RDMA atomic answers the old
value. That an RDMA atomic at an address that is no multiple of 8 answers the NAK and changes no memory is the
model's choice (log 70): R386 gives the NAK for a request that no entry allows. -/
def Obligations.HostAccesses : Prop :=
  (∀ (s : State) (o : RegWrite), o.ctx = 0 →
    (o.off = 0x8008 → s.pkg.ready.getLsbD 0 = true → exec (.registerWrite o) s = .next { s with
      pkg := { s.pkg with apBase := o.val &&& 0x000FFFFFC0000000 } })
    ∧ (o.off = 0x208008 → exec (.registerWrite o) s = .next { s with
      pkg := { s.pkg with signet := { s.pkg.signet with addr := o.val } } })
    ∧ (o.off = 0x208010 → exec (.registerWrite o) s = .next { s with
      pkg := { s.pkg with signet := { s.pkg.signet with len := o.val.setWidth 32 } } })
    ∧ (∀ k j, j < 4 → k < 16 → o.off = 0x9000 + 32 * k + 8 * j → s.pkg.ready.getLsbD 0 = true →
      ∃ r, exec (.registerWrite o) s = .next { s with pkg := { s.pkg with peers := s.pkg.peers.set k 0 r } }
        ∧ wordWritten peerField (s.pkg.peers.getD k 0) r j o.val)
    ∧ (∀ k j, j < 4 → k < 64 → o.off = 0xA000 + 32 * k + 8 * j → s.pkg.ready.getLsbD 0 = true →
      ∃ r, exec (.registerWrite o) s = .next { s with pkg := { s.pkg with inbound := s.pkg.inbound.set k 0 r } }
        ∧ wordWritten inboundField (s.pkg.inbound.getD k 0) r j o.val)
    ∧ (∀ k j, j < 8 → k < 16 → o.off = 0xC000 + 64 * k + 8 * j → s.pkg.ready.getLsbD 0 = true →
      ∃ r, exec (.registerWrite o) s = .next { s with pkg := { s.pkg with ports := s.pkg.ports.set k 0 r } }
        ∧ wordWritten portField (s.pkg.ports.getD k 0) r j o.val)
    ∧ (∀ k j, j < 8 → k < 4096 → o.off = 0x100000 + 64 * k + 8 * j → s.pkg.ready.getLsbD 0 = true →
      ∃ r, exec (.registerWrite o) s = .next { s with pkg := { s.pkg with qps := s.pkg.qps.set k 0 r } }
        ∧ wordWritten qpField (s.pkg.qps.getD k 0) r j o.val)
    ∧ (o.off < 0x200000 → o.off % 8 = 0 → ownPkg o.off o.val = false → s.pkg.ready.getLsbD 0 = false →
      exec (.registerWrite o) s = .next s))
  ∧ (∀ (s : State) (o : RegWrite) (c : Ctx), o.ctx ≠ 0 → s.ctxs.find o.ctx = some c →
    let sets := fun (c' : Ctx) => exec (.registerWrite o) s = .next { s with ctxs := s.ctxs.put o.ctx c' }
    let regs := fun (r : CtxRegs) => sets { c with regs := r }
    let r := c.regs
    let dbg := fun (d : Dbg) => regs { r with dbg := d }
    (s.pkg.ready.getLsbD 0 = false → o.off % 8 = 0 → ownCtx o.off o.val = false →
      exec (.registerWrite o) s = .next s)
    ∧ (s.pkg.ready.getLsbD 0 = true →
      (∀ k j, k < 32 → j < 8 → o.off = 0x21000 + 64 * k + 8 * j →
        sets { c with heaps := c.heaps.put k (heapWord (c.heaps.getD k ⟨0, 0, 0, 0, 0, 0, 0, 0⟩) j o.val) })
      ∧ (o.off = 0x680 → regs { r with wdog := o.val.setWidth 48 })
      ∧ (o.off = 0x20000 → regs { r with invVa := o.val })
      ∧ (o.off = 0x22000 → dbg { r.dbg with ctl := o.val.setWidth 5 })
      ∧ (o.off = 0x22008 → dbg { r.dbg with lid := o.val })
      ∧ (o.off = 0x22010 → dbg { r.dbg with who := o.val.setWidth 40 })
      ∧ (∀ i < 4, r.dbg.bp.length = 4 → o.off = 0x22018 + 8 * i →
        dbg { r.dbg with bp := r.dbg.bp.set i ((o.val >>> 3).setWidth 61) })
      ∧ (o.off = 0x22800 → regs { r with evBase := o.val &&& 0x000FFFFFFFFFFF80 })
      ∧ (o.off = 0x22808 → regs { r with evLog := o.val.setWidth 4 })
      ∧ (o.off = 0x22810 → regs { r with evHead := o.val.setWidth 32 })
      ∧ (o.off = 0x22828 → regs { r with evVec := o.val.setWidth 12, evEn := o.val.getLsbD 15 })
      ∧ ((∃ m ∈ s.images, m.2.gang.ctx = o.ctx) → 0x23000 ≤ o.off → o.off ≤ 0x23010 → o.off % 8 = 0 → sets c)
      ∧ ((∀ m ∈ s.images, m.2.gang.ctx ≠ o.ctx) →
        (o.off = 0x23000 → regs { r with lkBase := o.val &&& 0x000FFFFFFFFFF000 })
        ∧ (o.off = 0x23008 → regs { r with lkSlot := (o.val >>> 12).setWidth 20 })
        ∧ (o.off = 0x23010 → regs { r with lkSlots := o.val.setWidth 16 }))))
  ∧ (∀ (s : State) (o : Bar2), let pa := s.pkg.apBase.toNat + o.off
    (bar2Comes s o o.size → s.hostStatus pa o.size ≠ 0 → exec (.hostBar2Read o) s
      = .next { s with hostResp := s.hostResp ++ [⟨s.hostStatus pa o.size, []⟩] })
    ∧ (bar2Comes s o o.size → s.hostStatus pa o.size = 0 → s.poisonAt pa o.size = none →
      ∃ (t : State), exec (.hostBar2Read o) s = .next t
        ∧ answered t s 0 (s.pread hostObs hostLeaf .die pa o.size).2 ∧ t.waves = s.waves)
    ∧ (bar2Comes s o o.data.length → s.hostStatus pa o.data.length ≠ 0 → exec (.hostBar2Write o) s = .next s)
    ∧ (bar2Comes s o o.data.length → s.hostStatus pa o.data.length = 0 → pa % 16 + o.data.length ≤ 16 →
      ∃ (t : State), exec (.hostBar2Write o) s = .next t ∧ t.waves = s.waves ∧ t.hostResp = s.hostResp
        ∧ (t.pread hostObs hostLeaf .die pa o.data.length).2 = o.data))
  ∧ (∀ (s : State) (o : Rdma),
    (peerComes s o o.size → o.size ≠ 0 → s.admits o.rkey 1 o.pa o.size = false → ∃ (t : State), exec (.peerRdmaRead o) s = .next t
      ∧ answered t s 4 [] ∧ t.mem = s.mem)
    ∧ (peerComes s o o.size → o.size ≠ 0 → s.admits o.rkey 1 o.pa o.size = true → s.hostStatus o.pa o.size = 0 →
      s.poisonAt o.pa o.size = none → ∃ (t : State), exec (.peerRdmaRead o) s = .next t
        ∧ answered t s 0 (s.pread hostObs hostLeaf .die o.pa o.size).2)
    ∧ (peerComes s o o.data.length → o.data ≠ [] → s.admits o.rkey 2 o.pa o.data.length = true → s.hostStatus o.pa o.data.length = 0 →
      o.pa % 16 + o.data.length ≤ 16 → ∃ (t : State), exec (.peerRdmaWrite o) s = .next t ∧ answered t s 0 []
        ∧ (t.pread hostObs hostLeaf .die o.pa o.data.length).2 = o.data)
    ∧ (s.peerOn o = true → o.pa % 8 ≠ 0 → ∃ (t : State), exec (.peerRdmaAtomic o) s = .next t
      ∧ answered t s 4 [] ∧ t.mem = s.mem)
    ∧ (peerComes s o 8 → o.pa % 8 = 0 → s.admits o.rkey 3 o.pa 8 = true → s.hostStatus o.pa 8 = 0 → s.poisonAt o.pa 8 = none →
      let old := natOf (s.pread hostObs hostLeaf .die o.pa 8).2
      ∃ (t : State), exec (.peerRdmaAtomic o) s = .next t ∧ answered t s 0 (bytesOf 8 old)
        ∧ (o.cas = false → natOf (t.pread hostObs hostLeaf .die o.pa 8).2 = (old + o.opd.toNat) % 2 ^ 64)
        ∧ (o.cas = true → natOf (t.pread hostObs hostLeaf .die o.pa 8).2
            = if old = o.cmp.toNat then o.opd.toNat else old)))

/-! ## Bring-up, power and security -/

/-- R394, R396-R401: a function announces itself in its bit of READY; a write of an island is refused when
a rule of R398 forbids it (what counts as state that an island holds, a busy array, a running COPY, a program in a
slot and a gather job among it, is the model's reading: log 67), and otherwise begins a change, which its completion
puts in force, and what a gated matrix array or Filigree held is lost; a slot whose quarter or core base does not perform issues nothing. Facets
idle for long enough, with no instruction of their own core or of their pair's leader to come, are gated, and
wake for a matrix instruction; the token passes to the next cluster in Chain mode, at any time (log 75). -/
def Obligations.Power : Prop :=
  ∀ (s : State),
    (∀ bit (v : BitVec 64), 2 ≤ bit → bit < 30 → bit ≠ 16 → bit ≠ 17 → bit ≠ 18 → bit ≠ 19 →
      s.pkg.ready.getLsbD 0 = true → s.pkg.ready.getLsbD bit = false → s.bitLost bit = false →
      exec (.functionReady bit v) s = .next { s with
        pkg := { s.pkg with ready := s.pkg.ready ||| (1#30 <<< bit) } })
    ∧ (∀ n k (v : BitVec 64), islandKind n = some k → s.pkg.ready.getLsbD 0 = true → v.toNat / 16 % 4 ≠ 3 →
      let x := s.island n
      let cap := v.toNat / 2 ^ 32 % 2 ^ 16
      let bad := cap < (Config.oppTab k (v.toNat % 16)).toNat ∨ 200000 < s.capSum n cap
        ∨ (v.toNat / 16 % 4 = 2 ∧ s.holdsState n = true) ∨ x.busy = true
        ∨ (onlyOn n = true ∧ v.toNat / 16 % 4 ≠ 0)
      (bad → ∃ (t : State), exec (.islandWrite n v) s = .next t ∧ t.island n = { x with ref := true })
      ∧ (¬ bad → ∃ (t : State) (y : Island), exec (.islandWrite n v) s = .next t ∧ t.island n = y
        ∧ y.opp.toNat = v.toNat % 16 ∧ y.st.toNat = v.toNat / 16 % 4 ∧ y.cap.toNat = cap ∧ y.ref = false
        ∧ y.oppNow = x.oppNow ∧ y.stNow = x.stNow
        ∧ (y.busy = true ↔ y.opp ≠ x.oppNow ∨ y.st ≠ x.stNow)))
    ∧ (∀ n, (s.island n).busy = true → ∃ (t : State) (y : Island),
      exec (.islandTransitionComplete n) s = .next t ∧ t.island n = y ∧ y.oppNow = (s.island n).opp
        ∧ y.stNow = (s.island n).st ∧ y.busy = false ∧ t.mem = s.mem
        ∧ ((s.island n).st = 2 → islandKind n = some 1 → (t.core (islandCore n)).z = []
          ∧ (t.core (islandCore n)).panel = Panel.zero)
        ∧ ((s.island n).st = 2 → islandKind n = some 4 → (t.die (n / 240)).fil.nb = 0
          ∧ (t.die (n / 240)).fil.cmds = [] ∧ (t.die (n / 240)).fil.owner = (s.die (n / 240)).fil.owner))
    ∧ (∀ x : Slot, (slotStart s x).islandOn (240 * coreDie x.core + 6 * corePhys x.core + x.quarter) = false
      ∨ (slotStart s x).islandOn (240 * coreDie x.core + 6 * corePhys x.core + 5) = false →
      exec (.waveIssue x) s = .next (slotStart s x))
    ∧ (∀ c, let x := s.island (arrayIsland c)
      let k := s.core c
      (x.fgate = true → k.fgated = false → s.arrayJobs c = [] → (x.idle.toNat + 1) * 256 ≤ k.cycle - k.lastMat →
        exec (.facetIdleGate c) s = .next (s.setCore c { k with fgated := true }))
      ∧ (k.fgated = true → x.fgate = false ∨ s.arrayJobs c ≠ [] →
        exec (.facetWakeComplete c) s = .next (s.setCore c { k with fgated := false, lastMat := k.cycle })))
    ∧ (∀ die, die < 4 → (s.die die).chainTok < 9 → (∃ i < 9, (s.die die).chainEn.getLsbD i = true) →
      ∃ n, exec (.chainTokenPass die) s = .next (s.setDie die
          { s.die die with chainTok := n, chainRun := 0 })
        ∧ n < 9 ∧ (s.die die).chainEn.getLsbD n = true
        ∧ ∀ i < 9, (s.die die).chainEn.getLsbD i = true →
          (n + 8 - (s.die die).chainTok) % 9 ≤ (i + 8 - (s.die die).chainTok) % 9)

/-- R403-R406: the Signet mailbox and package reset. A firmware image in an aligned buffer that is well
formed, whose signatures verify and whose version is not below the minimum runs: FW is set and both
versions are its own; otherwise RESULT says why, and nothing else changes. The certificates are written into
a buffer that holds them, the report into one of 3,501 bytes: its format, length and nonce are as R405 says.
The reset value written to PKGRST discards every context, gang and image, zeroes HBM and keeps the DDR tier;
any other value does nothing. What is a signature and what an image's form is the model's free choice
(log 10). -/
def Obligations.SignetAndReset : Prop :=
  (∀ (s : State), s.pkg.signet.busy = false →
    let g := s.pkg.signet
    let img := memRead s.mem s.sgPa g.len.toNat
    let v := Config.imageVersion img
    let c := Config.certificates
    exec .sgLoadFirmware s = .next (
      if s.sgOk g.len.toNat = false ∨ Config.imageFormed img = false then mailbox s 3
      else if Config.signaturesVerify img = false then mailbox s 1
      else if v < g.svnMin then mailbox s 2
      else { s with pkg := { s.pkg with
        ready := s.pkg.ready ||| 1#30, signet := { g with result := 0, svnMin := v, svnCur := v, image := img } } })
    ∧ exec .sgReadCertificates s = .next (
      if s.sgOk c.length = false then mailbox s 3
      else if g.len.toNat < c.length then mailbox s 4
      else mailbox { s with mem := memWrite s.mem s.sgPa c } 0)
    ∧ (3501 ≤ g.len.toNat → s.sgOk 3501 = true → ∃ bs, bs.length = 3501
      ∧ exec .sgAttest s = .next (mailbox { s with mem := memWrite s.mem s.sgPa bs } 0)
      ∧ bs.take 4 = [1#8, 0, 0, 0] ∧ (bs.drop 4).take 4 = bytesOf 4 3501
      ∧ (bs.drop 64).take 32 = memRead s.mem s.sgPa 32)
    ∧ (g.len.toNat < 3501 → exec .sgAttest s = .next (mailbox s 4)))
  ∧ ∀ (s : State), (∀ v : BitVec 64, v ≠ 0x00000000C0DE0001 → exec (.pkgrst v) s = .next s)
    ∧ ∃ (t : State), exec (.pkgrst 0x00000000C0DE0001) s = .next t ∧ t.ctxs = [] ∧ t.gangs = [] ∧ t.images = []
      ∧ t.waves = [] ∧ t.entries = [] ∧ t.pkg.ready = 2 ∧ t.pkg.cur = 0
      ∧ (∀ a, inHBM s a → memGet t.mem a = memDflt)
      ∧ (∀ a i, s.paKind a = .ddr i → memGet t.mem a = memGet s.mem a)
/-! ## The machine as a whole -/

/-- R41, R123, R135, R273: an issue slot runs exactly the instruction that the words at its wave's PC decode
to, in the state that the fetch leaves, with the wave at its turn: the step is what its meaning answers, once the
islands that its writes need perform (R399, log 67), and where that moved the wave on, with no request of a wave at the
pool unit (R46) and no walker instruction to issue again (R363), nothing else. An instruction that stands still leaves
the slot as it was (R46, log 141). A word that decodes to none takes ILLEGAL or UNIMPL; and an engine's turn runs the
command that the words at CPC decode to. -/
def Obligations.StepRunsDecoded : Prop :=
  (∀ (s : State) (x : Slot) (k : Nat) (w : Wave) (s2 : State) (ws : W64 × W64), Fetches s x k w s2 ws →
    let w1 := atFetch s x w
    (∀ i, decodeWave (s2.decodeCtx w1) ws.1 ws.2 = .ok i → s2.converge k w1 i ws = none →
      let t := slotHeld s { s2 with cur := some k, issued := some i, insn := ws } x k (some i) w
      exec (.waveIssue x) s = .next t
      ∧ ∀ s0 rest, s0.agenda = .ev (.waveIssue x) :: rest → s = { s0 with agenda := rest } →
        let u : State := { t with issued := none }
        step s0 = afterIssue s u i (whenOn u (exec i u))
        ∧ (∀ v, exec i u = .next v → u.writesOn v = true → v.waves.find k ≠ u.waves.find k → v.poolReqs = [] →
          (∀ y, v.waves.find k = some y → y.sys.resume = none) → step s0 = .next v)
        ∧ (∀ r, exec i u = .refused r → step s0 = .refused r)
        ∧ (∀ op o y, exec i u = .next u → i.wave? = some (op, o) → op ≠ 0x80#8 → op ≠ 0x81#8 →
          u.waves.find k = some y → ∃ (v : State) (z : Wave), step s0 = .next v
            ∧ (v.core (slotCore k)).slots = (s.core (slotCore k)).slots ∧ v.waves.find k = some z
            ∧ z.pc = y.pc ∧ z.regs = y.regs ∧ v.mem = u.mem))
    ∧ (∀ f, decodeWave (s2.decodeCtx w1) ws.1 ws.2 = .error f → s2.issued = none →
      exec (.waveIssue x) s = .next (slotHeld s (takeTrap s2 k w1 (trapRec w1 (if f.unimpl then 1 else 2)
        f.detail 0 ws.1 ws.2 0 (BitVec.ofNat 64 (f.flo + f.fhi * 2 ^ 8)))) x k none w)))
  ∧ (∀ (s s0 : State) (e : Nat) (rest : List Act) (slot : Nat) (p : Prog), s0.agenda = .engine e :: rest →
    s = { s0 with agenda := rest } → s.islandOn (engineIsland e) = true →
    (s.engine e).nextSlot (s.ceReady e) = some (slot, p) →
    let s1 : State := { s.setEngine e { s.engine e with last := slot } with curE := some (e, slot) }
    ∀ (s2 s3 : State) (w0 w1 : W32) (i : Instr), s1.ceWord e p p.cpc.toNat = (s2, some w0) →
      (if w0.getLsbD 6 then s2.ceWord e p (p.cpc + 4).toNat else (s2, some 0)) = (s3, some w1) →
      decodeCe w0 w1 = .ok i →
      let u : State := { s3 with insn := (w0.setWidth 64, w1.setWidth 64) }
      step s0 = whenOn u (exec i u) ∧ (u.pkg.islands = [] → step s0 = exec i u))

/-- R135-R137, R274, R278, R280: the instructions that words of the spec's encodings hold. -/
def Obligations.DecodeSamples : Prop :=
  decodeTableWord 64 0xC004030201C3F805 = some (.bool3 ⟨false, false, .always, 0x18, 1, 2, 3, 4, 0xC0, none⟩)
  ∧ decodeTableWord 64 0x080703060503FC41 = some (.ffma ⟨false, true, .always, 0, 5, 6, 3, 7, 8, none⟩)
  ∧ decodeTableWord 64 0x0000040000000880 = some (.bra ⟨false, false, .p 1 false, 0, 0, 0, 4, 0, 0, none⟩)
  ∧ decodeTableWord 64 0x00030241080BFAE0
      = some (.curNext ⟨true, false, .always, 1, 8, 0x41, 2, 3, 0, none⟩)
  ∧ decodeTableWord 64 0x000000000003FAF9 = some (.rtt ⟨true, false, .always, 0, 0, 0, 0, 0, 0, none⟩)
  ∧ decodeTableWord 64 0x108802000603FAF8 = some (.sysrd ⟨true, false, .always, 0, 6, 0, 2, 0x88, 0x10, none⟩)
  ∧ decodeTableWord 64 0x0000000000000000 = none
  ∧ decodeTableWord 32 0x00000034 = some .halt
  ∧ decodeTableWord 32 0x0280018C = some (.li 1 5)
  ∧ decodeTableWord 32 0x00000000 = none

/-- R135, R123-R132: a wave instruction that a context accepts is what its own words decode to there; and the
words of an instruction that decodes are those it is encoded in, so that no two words hold one instruction. -/
def Obligations.WaveRoundTrip : Prop :=
  (∀ (i : Instr) (op : BitVec 8) (o : WOp) (cx : DecodeCtx), i.wave? = some (op, o) →
    o.acceptedAs op i cx = true → (isSystemOp op = false ∨ cx.sup = true) →
    ∃ w0 w1, encodeWave i = some (w0, w1) ∧ decodeWave cx w0 w1 = .ok i)
  ∧ ∀ (cx : DecodeCtx) (w0 w1 : W64) (i : Instr), decodeWave cx w0 w1 = .ok i →
    encodeWave i = some (w0, if w0.getLsbD 8 then w1 else 0)

/-- R274-R290: a well-formed copy command is what its own words decode to, and the words of a command that
decodes are those it is encoded in. -/
def Obligations.CommandRoundTrip : Prop :=
  (∀ (i : Instr) (w0 w1 : W32), i.wf = true → encodeCe i = some (w0, w1) → decodeCe w0 w1 = .ok i)
  ∧ ∀ (w0 w1 : W32) (i : Instr), decodeCe w0 w1 = .ok i →
    i.wf = true ∧ encodeCe i = some (w0, if w0.getLsbD 6 then w1 else 0)

/-- R406, R404, R394, R390, R319, with log 1 for memory: after package reset there is no context, gang, wave, copy program or image,
every byte of HBM reads zero, `PMODE` gives one partition, of `READY` only `SIGNET` is set, no die is lost,
and no Filigree has an owner. -/
def Obligations.ResetValues : Prop :=
  let s := State.reset
  s.ctxs = [] ∧ s.gangs = [] ∧ s.waves = [] ∧ s.images = [] ∧ s.engines = [] ∧ s.entries = []
  ∧ (∀ a, memGet s.mem a = 0) ∧ s.pkg.cur = 0 ∧ s.pkg.busy = false ∧ s.pkg.ready = 2 ∧ s.dieStat = 0
  ∧ ∀ d, (s.die d).fil.owner = 0 ∧ (s.die d).lost = false

/-- Log 1: memory is in its canonical form after package reset. -/
def Obligations.ResetInv : Prop := State.Inv State.reset

/-- Log 1: every step keeps memory in its canonical form, in every state. -/
def Obligations.StepKeepsMemory : Prop :=
  ∀ s t : State, State.Inv s → step s = .next t → State.Inv t

end Statements
end

