-- ==== Sys2Proof/Laws/Map.lean ====
section
/-! SUPPORT. Laws of the sparse map: reading after writing and after removing, and that writing keeps keys
rising. -/

namespace Sys2Proof.Map

variable {α : Type}

@[simp] theorem find_nil (n : Nat) : find ([] : Map α) n = none := rfl

theorem find_put (m : Map α) (n j : Nat) (x : α) :
    find (put m n x) j = if j = n then some x else find m j := by
  induction m with
  | nil => by_cases h : n = j <;> simp [put, find, h, eq_comm]
  | cons e t ih =>
    obtain ⟨a, b⟩ := e
    by_cases h1 : n < a
    · simp only [put, h1, if_true, find]
      by_cases h : n = j <;> simp [h, eq_comm]
    · by_cases h2 : n = a
      · subst h2; simp only [put, lt_irrefl, if_false, if_true, find]
        by_cases h : n = j <;> simp [h, eq_comm]
      · simp only [put, h1, h2, if_false, find, ih]
        by_cases h : j = n
        · subst h; simp [Ne.symm h2]
        · simp [h]

@[simp] theorem find_put_self (m : Map α) (n : Nat) (x : α) : find (put m n x) n = some x := by
  simp [find_put]

theorem find_put_ne (m : Map α) {n j : Nat} (x : α) (h : j ≠ n) : find (put m n x) j = find m j := by
  simp [find_put, h]

theorem find_del (m : Map α) (n j : Nat) :
    find (del m n) j = if j = n then none else find m j := by
  induction m with
  | nil => simp [del, find]
  | cons e t ih =>
    obtain ⟨a, b⟩ := e
    by_cases h : a = n
    · simp only [del, h, if_true, ih, find]
      by_cases hj : n = j <;> simp [hj, eq_comm]
    · simp only [del, h, if_false, find, ih]
      by_cases hj : j = n
      · subst hj; simp [h]
      · simp [hj]

theorem getD_put (m : Map α) (n j : Nat) (d x : α) :
    getD (put m n x) j d = if j = n then x else getD m j d := by
  simp only [getD, find_put]; split <;> rfl

theorem getD_set [DecidableEq α] (m : Map α) (n j : Nat) (d x : α) :
    getD (set m n d x) j d = if j = n then x else getD m j d := by
  unfold set; split_ifs with h h' h'
  · simp [getD, find_del, h, h']
  · simp [getD, find_del, h']
  · simp [getD_put, h']
  · simp [getD_put, h']

@[simp] theorem getD_set_self [DecidableEq α] (m : Map α) (n : Nat) (d x : α) :
    getD (set m n d x) n d = x := by simp [getD_set]

theorem getD_set_ne [DecidableEq α] (m : Map α) {n j : Nat} (d x : α) (h : j ≠ n) :
    getD (set m n d x) j d = getD m j d := by simp [getD_set, h]

/-! ## Rising keys -/

theorem mem_put {m : Map α} {n : Nat} {x : α} {e : Nat × α} (h : e ∈ put m n x) :
    e = (n, x) ∨ e ∈ m := by
  induction m with
  | nil => simpa [put] using h
  | cons f t ih =>
    obtain ⟨a, b⟩ := f
    simp only [put] at h
    split_ifs at h with h1 h2
    · simpa using h
    · rcases List.mem_cons.1 h with h | h
      · exact .inl h
      · exact .inr (List.mem_cons_of_mem _ h)
    · rcases List.mem_cons.1 h with h | h
      · exact .inr (h ▸ List.mem_cons_self)
      · exact (ih h).imp_right (List.mem_cons_of_mem _)

theorem mem_del {m : Map α} {n : Nat} {e : Nat × α} (h : e ∈ del m n) : e ∈ m := by
  induction m with
  | nil => exact h
  | cons f t ih =>
    obtain ⟨a, b⟩ := f
    simp only [del] at h
    split_ifs at h
    · exact List.mem_cons_of_mem _ (ih h)
    · rcases List.mem_cons.1 h with h | h
      · exact h ▸ List.mem_cons_self
      · exact List.mem_cons_of_mem _ (ih h)

theorem sorted_put {m : Map α} (n : Nat) (x : α) (h : m.Pairwise (fun a b => a.1 < b.1)) :
    (put m n x).Pairwise (fun a b => a.1 < b.1) := by
  induction m with
  | nil => simp [put]
  | cons f t ih =>
    obtain ⟨a, b⟩ := f
    rw [List.pairwise_cons] at h
    simp only [put]
    split_ifs with h1 h2
    · refine List.pairwise_cons.2 ⟨fun e he => ?_, List.pairwise_cons.2 h⟩
      rcases List.mem_cons.1 he with he | he
      · exact he ▸ h1
      · exact lt_trans h1 (h.1 e he)
    · subst h2; exact List.pairwise_cons.2 ⟨h.1, h.2⟩
    · refine List.pairwise_cons.2 ⟨fun e he => ?_, ih h.2⟩
      rcases mem_put he with he | he
      · subst he; exact lt_of_le_of_ne (not_lt.1 h1) (Ne.symm h2)
      · exact h.1 e he

theorem sorted_del {m : Map α} (n : Nat) (h : m.Pairwise (fun a b => a.1 < b.1)) :
    (del m n).Pairwise (fun a b => a.1 < b.1) := by
  induction m with
  | nil => exact h
  | cons f t ih =>
    obtain ⟨a, b⟩ := f
    rw [List.pairwise_cons] at h
    simp only [del]
    split_ifs
    · exact ih h.2
    · exact List.pairwise_cons.2 ⟨fun e he => h.1 e (mem_del he), ih h.2⟩

end Sys2Proof.Map
end

