-- ==== Sys2Proof/Laws/State.lean ====
section
/-! SUPPORT. What each update of the state leaves of each field, true by `rfl`, so that no proof unfolds a
record update; and what the two updates of an optional record do. -/

namespace Sys2Proof.Machine.State

variable (s : State)

/-! ## `setWave` -/

@[simp] theorem setWave_mem (k : Nat) (w : Wave) : (s.setWave k w).mem = s.mem := rfl
@[simp] theorem setWave_poison (k : Nat) (w : Wave) : (s.setWave k w).poison = s.poison := rfl
@[simp] theorem setWave_walkc (k : Nat) (w : Wave) : (s.setWave k w).walkc = s.walkc := rfl
@[simp] theorem setWave_waves (k : Nat) (w : Wave) : (s.setWave k w).waves = s.waves.put k w := rfl
@[simp] theorem setWave_gangs (k : Nat) (w : Wave) : (s.setWave k w).gangs = s.gangs := rfl
@[simp] theorem setWave_entries (k : Nat) (w : Wave) : (s.setWave k w).entries = s.entries := rfl
@[simp] theorem setWave_images (k : Nat) (w : Wave) : (s.setWave k w).images = s.images := rfl
@[simp] theorem setWave_cores (k : Nat) (w : Wave) : (s.setWave k w).cores = s.cores := rfl
@[simp] theorem setWave_dies (k : Nat) (w : Wave) : (s.setWave k w).dies = s.dies := rfl
@[simp] theorem setWave_engines (k : Nat) (w : Wave) : (s.setWave k w).engines = s.engines := rfl
@[simp] theorem setWave_gjobs (k : Nat) (w : Wave) : (s.setWave k w).gjobs = s.gjobs := rfl
@[simp] theorem setWave_redgs (k : Nat) (w : Wave) : (s.setWave k w).redgs = s.redgs := rfl
@[simp] theorem setWave_poolReqs (k : Nat) (w : Wave) : (s.setWave k w).poolReqs = s.poolReqs := rfl
@[simp] theorem setWave_cancels (k : Nat) (w : Wave) : (s.setWave k w).cancels = s.cancels := rfl
@[simp] theorem setWave_ctxs (k : Nat) (w : Wave) : (s.setWave k w).ctxs = s.ctxs := rfl
@[simp] theorem setWave_curseg (k : Nat) (w : Wave) : (s.setWave k w).curseg = s.curseg := rfl
@[simp] theorem setWave_pkg (k : Nat) (w : Wave) : (s.setWave k w).pkg = s.pkg := rfl
@[simp] theorem setWave_nextGang (k : Nat) (w : Wave) : (s.setWave k w).nextGang = s.nextGang := rfl
@[simp] theorem setWave_nextJob (k : Nat) (w : Wave) : (s.setWave k w).nextJob = s.nextJob := rfl
@[simp] theorem setWave_nextOrder (k : Nat) (w : Wave) : (s.setWave k w).nextOrder = s.nextOrder := rfl
@[simp] theorem setWave_hostResp (k : Nat) (w : Wave) : (s.setWave k w).hostResp = s.hostResp := rfl
@[simp] theorem setWave_outbox (k : Nat) (w : Wave) : (s.setWave k w).outbox = s.outbox := rfl
@[simp] theorem setWave_agenda (k : Nat) (w : Wave) : (s.setWave k w).agenda = s.agenda := rfl
@[simp] theorem setWave_cur (k : Nat) (w : Wave) : (s.setWave k w).cur = s.cur := rfl
@[simp] theorem setWave_curE (k : Nat) (w : Wave) : (s.setWave k w).curE = s.curE := rfl
@[simp] theorem setWave_issued (k : Nat) (w : Wave) : (s.setWave k w).issued = s.issued := rfl
@[simp] theorem setWave_insn (k : Nat) (w : Wave) : (s.setWave k w).insn = s.insn := rfl
@[simp] theorem setWave_free (k : Nat) (w : Wave) : (s.setWave k w).free = s.free := rfl

/-! ## `setCore` -/

@[simp] theorem setCore_mem (c : Nat) (x : Core) : (s.setCore c x).mem = s.mem := rfl
@[simp] theorem setCore_poison (c : Nat) (x : Core) : (s.setCore c x).poison = s.poison := rfl
@[simp] theorem setCore_walkc (c : Nat) (x : Core) : (s.setCore c x).walkc = s.walkc := rfl
@[simp] theorem setCore_waves (c : Nat) (x : Core) : (s.setCore c x).waves = s.waves := rfl
@[simp] theorem setCore_gangs (c : Nat) (x : Core) : (s.setCore c x).gangs = s.gangs := rfl
@[simp] theorem setCore_entries (c : Nat) (x : Core) : (s.setCore c x).entries = s.entries := rfl
@[simp] theorem setCore_images (c : Nat) (x : Core) : (s.setCore c x).images = s.images := rfl
@[simp] theorem setCore_cores (c : Nat) (x : Core) : (s.setCore c x).cores = s.cores.put c x := rfl
@[simp] theorem setCore_dies (c : Nat) (x : Core) : (s.setCore c x).dies = s.dies := rfl
@[simp] theorem setCore_engines (c : Nat) (x : Core) : (s.setCore c x).engines = s.engines := rfl
@[simp] theorem setCore_gjobs (c : Nat) (x : Core) : (s.setCore c x).gjobs = s.gjobs := rfl
@[simp] theorem setCore_redgs (c : Nat) (x : Core) : (s.setCore c x).redgs = s.redgs := rfl
@[simp] theorem setCore_poolReqs (c : Nat) (x : Core) : (s.setCore c x).poolReqs = s.poolReqs := rfl
@[simp] theorem setCore_cancels (c : Nat) (x : Core) : (s.setCore c x).cancels = s.cancels := rfl
@[simp] theorem setCore_ctxs (c : Nat) (x : Core) : (s.setCore c x).ctxs = s.ctxs := rfl
@[simp] theorem setCore_curseg (c : Nat) (x : Core) : (s.setCore c x).curseg = s.curseg := rfl
@[simp] theorem setCore_pkg (c : Nat) (x : Core) : (s.setCore c x).pkg = s.pkg := rfl
@[simp] theorem setCore_nextGang (c : Nat) (x : Core) : (s.setCore c x).nextGang = s.nextGang := rfl
@[simp] theorem setCore_nextJob (c : Nat) (x : Core) : (s.setCore c x).nextJob = s.nextJob := rfl
@[simp] theorem setCore_nextOrder (c : Nat) (x : Core) : (s.setCore c x).nextOrder = s.nextOrder := rfl
@[simp] theorem setCore_hostResp (c : Nat) (x : Core) : (s.setCore c x).hostResp = s.hostResp := rfl
@[simp] theorem setCore_outbox (c : Nat) (x : Core) : (s.setCore c x).outbox = s.outbox := rfl
@[simp] theorem setCore_agenda (c : Nat) (x : Core) : (s.setCore c x).agenda = s.agenda := rfl
@[simp] theorem setCore_cur (c : Nat) (x : Core) : (s.setCore c x).cur = s.cur := rfl
@[simp] theorem setCore_curE (c : Nat) (x : Core) : (s.setCore c x).curE = s.curE := rfl
@[simp] theorem setCore_issued (c : Nat) (x : Core) : (s.setCore c x).issued = s.issued := rfl
@[simp] theorem setCore_insn (c : Nat) (x : Core) : (s.setCore c x).insn = s.insn := rfl
@[simp] theorem setCore_free (c : Nat) (x : Core) : (s.setCore c x).free = s.free := rfl

/-! ## `setDie` -/

@[simp] theorem setDie_mem (d : Nat) (x : Die) : (s.setDie d x).mem = s.mem := rfl
@[simp] theorem setDie_poison (d : Nat) (x : Die) : (s.setDie d x).poison = s.poison := rfl
@[simp] theorem setDie_walkc (d : Nat) (x : Die) : (s.setDie d x).walkc = s.walkc := rfl
@[simp] theorem setDie_waves (d : Nat) (x : Die) : (s.setDie d x).waves = s.waves := rfl
@[simp] theorem setDie_gangs (d : Nat) (x : Die) : (s.setDie d x).gangs = s.gangs := rfl
@[simp] theorem setDie_entries (d : Nat) (x : Die) : (s.setDie d x).entries = s.entries := rfl
@[simp] theorem setDie_images (d : Nat) (x : Die) : (s.setDie d x).images = s.images := rfl
@[simp] theorem setDie_cores (d : Nat) (x : Die) : (s.setDie d x).cores = s.cores := rfl
@[simp] theorem setDie_dies (d : Nat) (x : Die) : (s.setDie d x).dies = s.dies.put d x := rfl
@[simp] theorem setDie_engines (d : Nat) (x : Die) : (s.setDie d x).engines = s.engines := rfl
@[simp] theorem setDie_gjobs (d : Nat) (x : Die) : (s.setDie d x).gjobs = s.gjobs := rfl
@[simp] theorem setDie_redgs (d : Nat) (x : Die) : (s.setDie d x).redgs = s.redgs := rfl
@[simp] theorem setDie_poolReqs (d : Nat) (x : Die) : (s.setDie d x).poolReqs = s.poolReqs := rfl
@[simp] theorem setDie_cancels (d : Nat) (x : Die) : (s.setDie d x).cancels = s.cancels := rfl
@[simp] theorem setDie_ctxs (d : Nat) (x : Die) : (s.setDie d x).ctxs = s.ctxs := rfl
@[simp] theorem setDie_curseg (d : Nat) (x : Die) : (s.setDie d x).curseg = s.curseg := rfl
@[simp] theorem setDie_pkg (d : Nat) (x : Die) : (s.setDie d x).pkg = s.pkg := rfl
@[simp] theorem setDie_nextGang (d : Nat) (x : Die) : (s.setDie d x).nextGang = s.nextGang := rfl
@[simp] theorem setDie_nextJob (d : Nat) (x : Die) : (s.setDie d x).nextJob = s.nextJob := rfl
@[simp] theorem setDie_nextOrder (d : Nat) (x : Die) : (s.setDie d x).nextOrder = s.nextOrder := rfl
@[simp] theorem setDie_hostResp (d : Nat) (x : Die) : (s.setDie d x).hostResp = s.hostResp := rfl
@[simp] theorem setDie_outbox (d : Nat) (x : Die) : (s.setDie d x).outbox = s.outbox := rfl
@[simp] theorem setDie_agenda (d : Nat) (x : Die) : (s.setDie d x).agenda = s.agenda := rfl
@[simp] theorem setDie_cur (d : Nat) (x : Die) : (s.setDie d x).cur = s.cur := rfl
@[simp] theorem setDie_curE (d : Nat) (x : Die) : (s.setDie d x).curE = s.curE := rfl
@[simp] theorem setDie_issued (d : Nat) (x : Die) : (s.setDie d x).issued = s.issued := rfl
@[simp] theorem setDie_insn (d : Nat) (x : Die) : (s.setDie d x).insn = s.insn := rfl
@[simp] theorem setDie_free (d : Nat) (x : Die) : (s.setDie d x).free = s.free := rfl

/-! ## `setEngine` -/

@[simp] theorem setEngine_mem (e : Nat) (x : Engine) : (s.setEngine e x).mem = s.mem := rfl
@[simp] theorem setEngine_poison (e : Nat) (x : Engine) : (s.setEngine e x).poison = s.poison := rfl
@[simp] theorem setEngine_walkc (e : Nat) (x : Engine) : (s.setEngine e x).walkc = s.walkc := rfl
@[simp] theorem setEngine_waves (e : Nat) (x : Engine) : (s.setEngine e x).waves = s.waves := rfl
@[simp] theorem setEngine_gangs (e : Nat) (x : Engine) : (s.setEngine e x).gangs = s.gangs := rfl
@[simp] theorem setEngine_entries (e : Nat) (x : Engine) : (s.setEngine e x).entries = s.entries := rfl
@[simp] theorem setEngine_images (e : Nat) (x : Engine) : (s.setEngine e x).images = s.images := rfl
@[simp] theorem setEngine_cores (e : Nat) (x : Engine) : (s.setEngine e x).cores = s.cores := rfl
@[simp] theorem setEngine_dies (e : Nat) (x : Engine) : (s.setEngine e x).dies = s.dies := rfl
@[simp] theorem setEngine_engines (e : Nat) (x : Engine) : (s.setEngine e x).engines = s.engines.put e x := rfl
@[simp] theorem setEngine_gjobs (e : Nat) (x : Engine) : (s.setEngine e x).gjobs = s.gjobs := rfl
@[simp] theorem setEngine_redgs (e : Nat) (x : Engine) : (s.setEngine e x).redgs = s.redgs := rfl
@[simp] theorem setEngine_poolReqs (e : Nat) (x : Engine) : (s.setEngine e x).poolReqs = s.poolReqs := rfl
@[simp] theorem setEngine_cancels (e : Nat) (x : Engine) : (s.setEngine e x).cancels = s.cancels := rfl
@[simp] theorem setEngine_ctxs (e : Nat) (x : Engine) : (s.setEngine e x).ctxs = s.ctxs := rfl
@[simp] theorem setEngine_curseg (e : Nat) (x : Engine) : (s.setEngine e x).curseg = s.curseg := rfl
@[simp] theorem setEngine_pkg (e : Nat) (x : Engine) : (s.setEngine e x).pkg = s.pkg := rfl
@[simp] theorem setEngine_nextGang (e : Nat) (x : Engine) : (s.setEngine e x).nextGang = s.nextGang := rfl
@[simp] theorem setEngine_nextJob (e : Nat) (x : Engine) : (s.setEngine e x).nextJob = s.nextJob := rfl
@[simp] theorem setEngine_nextOrder (e : Nat) (x : Engine) : (s.setEngine e x).nextOrder = s.nextOrder := rfl
@[simp] theorem setEngine_hostResp (e : Nat) (x : Engine) : (s.setEngine e x).hostResp = s.hostResp := rfl
@[simp] theorem setEngine_outbox (e : Nat) (x : Engine) : (s.setEngine e x).outbox = s.outbox := rfl
@[simp] theorem setEngine_agenda (e : Nat) (x : Engine) : (s.setEngine e x).agenda = s.agenda := rfl
@[simp] theorem setEngine_cur (e : Nat) (x : Engine) : (s.setEngine e x).cur = s.cur := rfl
@[simp] theorem setEngine_curE (e : Nat) (x : Engine) : (s.setEngine e x).curE = s.curE := rfl
@[simp] theorem setEngine_issued (e : Nat) (x : Engine) : (s.setEngine e x).issued = s.issued := rfl
@[simp] theorem setEngine_insn (e : Nat) (x : Engine) : (s.setEngine e x).insn = s.insn := rfl
@[simp] theorem setEngine_free (e : Nat) (x : Engine) : (s.setEngine e x).free = s.free := rfl

/-! ## `setGang` -/

@[simp] theorem setGang_mem (g : Nat) (x : Gang) : (s.setGang g x).mem = s.mem := rfl
@[simp] theorem setGang_poison (g : Nat) (x : Gang) : (s.setGang g x).poison = s.poison := rfl
@[simp] theorem setGang_walkc (g : Nat) (x : Gang) : (s.setGang g x).walkc = s.walkc := rfl
@[simp] theorem setGang_waves (g : Nat) (x : Gang) : (s.setGang g x).waves = s.waves := rfl
@[simp] theorem setGang_gangs (g : Nat) (x : Gang) : (s.setGang g x).gangs = s.gangs.put g x := rfl
@[simp] theorem setGang_entries (g : Nat) (x : Gang) : (s.setGang g x).entries = s.entries := rfl
@[simp] theorem setGang_images (g : Nat) (x : Gang) : (s.setGang g x).images = s.images := rfl
@[simp] theorem setGang_cores (g : Nat) (x : Gang) : (s.setGang g x).cores = s.cores := rfl
@[simp] theorem setGang_dies (g : Nat) (x : Gang) : (s.setGang g x).dies = s.dies := rfl
@[simp] theorem setGang_engines (g : Nat) (x : Gang) : (s.setGang g x).engines = s.engines := rfl
@[simp] theorem setGang_gjobs (g : Nat) (x : Gang) : (s.setGang g x).gjobs = s.gjobs := rfl
@[simp] theorem setGang_redgs (g : Nat) (x : Gang) : (s.setGang g x).redgs = s.redgs := rfl
@[simp] theorem setGang_poolReqs (g : Nat) (x : Gang) : (s.setGang g x).poolReqs = s.poolReqs := rfl
@[simp] theorem setGang_cancels (g : Nat) (x : Gang) : (s.setGang g x).cancels = s.cancels := rfl
@[simp] theorem setGang_ctxs (g : Nat) (x : Gang) : (s.setGang g x).ctxs = s.ctxs := rfl
@[simp] theorem setGang_curseg (g : Nat) (x : Gang) : (s.setGang g x).curseg = s.curseg := rfl
@[simp] theorem setGang_pkg (g : Nat) (x : Gang) : (s.setGang g x).pkg = s.pkg := rfl
@[simp] theorem setGang_nextGang (g : Nat) (x : Gang) : (s.setGang g x).nextGang = s.nextGang := rfl
@[simp] theorem setGang_nextJob (g : Nat) (x : Gang) : (s.setGang g x).nextJob = s.nextJob := rfl
@[simp] theorem setGang_nextOrder (g : Nat) (x : Gang) : (s.setGang g x).nextOrder = s.nextOrder := rfl
@[simp] theorem setGang_hostResp (g : Nat) (x : Gang) : (s.setGang g x).hostResp = s.hostResp := rfl
@[simp] theorem setGang_outbox (g : Nat) (x : Gang) : (s.setGang g x).outbox = s.outbox := rfl
@[simp] theorem setGang_agenda (g : Nat) (x : Gang) : (s.setGang g x).agenda = s.agenda := rfl
@[simp] theorem setGang_cur (g : Nat) (x : Gang) : (s.setGang g x).cur = s.cur := rfl
@[simp] theorem setGang_curE (g : Nat) (x : Gang) : (s.setGang g x).curE = s.curE := rfl
@[simp] theorem setGang_issued (g : Nat) (x : Gang) : (s.setGang g x).issued = s.issued := rfl
@[simp] theorem setGang_insn (g : Nat) (x : Gang) : (s.setGang g x).insn = s.insn := rfl
@[simp] theorem setGang_free (g : Nat) (x : Gang) : (s.setGang g x).free = s.free := rfl

/-! ## `setCtx` -/

@[simp] theorem setCtx_mem (c : Nat) (x : Ctx) : (s.setCtx c x).mem = s.mem := rfl
@[simp] theorem setCtx_poison (c : Nat) (x : Ctx) : (s.setCtx c x).poison = s.poison := rfl
@[simp] theorem setCtx_walkc (c : Nat) (x : Ctx) : (s.setCtx c x).walkc = s.walkc := rfl
@[simp] theorem setCtx_waves (c : Nat) (x : Ctx) : (s.setCtx c x).waves = s.waves := rfl
@[simp] theorem setCtx_gangs (c : Nat) (x : Ctx) : (s.setCtx c x).gangs = s.gangs := rfl
@[simp] theorem setCtx_entries (c : Nat) (x : Ctx) : (s.setCtx c x).entries = s.entries := rfl
@[simp] theorem setCtx_images (c : Nat) (x : Ctx) : (s.setCtx c x).images = s.images := rfl
@[simp] theorem setCtx_cores (c : Nat) (x : Ctx) : (s.setCtx c x).cores = s.cores := rfl
@[simp] theorem setCtx_dies (c : Nat) (x : Ctx) : (s.setCtx c x).dies = s.dies := rfl
@[simp] theorem setCtx_engines (c : Nat) (x : Ctx) : (s.setCtx c x).engines = s.engines := rfl
@[simp] theorem setCtx_gjobs (c : Nat) (x : Ctx) : (s.setCtx c x).gjobs = s.gjobs := rfl
@[simp] theorem setCtx_redgs (c : Nat) (x : Ctx) : (s.setCtx c x).redgs = s.redgs := rfl
@[simp] theorem setCtx_poolReqs (c : Nat) (x : Ctx) : (s.setCtx c x).poolReqs = s.poolReqs := rfl
@[simp] theorem setCtx_cancels (c : Nat) (x : Ctx) : (s.setCtx c x).cancels = s.cancels := rfl
@[simp] theorem setCtx_ctxs (c : Nat) (x : Ctx) : (s.setCtx c x).ctxs = s.ctxs.put c x := rfl
@[simp] theorem setCtx_curseg (c : Nat) (x : Ctx) : (s.setCtx c x).curseg = s.curseg := rfl
@[simp] theorem setCtx_pkg (c : Nat) (x : Ctx) : (s.setCtx c x).pkg = s.pkg := rfl
@[simp] theorem setCtx_nextGang (c : Nat) (x : Ctx) : (s.setCtx c x).nextGang = s.nextGang := rfl
@[simp] theorem setCtx_nextJob (c : Nat) (x : Ctx) : (s.setCtx c x).nextJob = s.nextJob := rfl
@[simp] theorem setCtx_nextOrder (c : Nat) (x : Ctx) : (s.setCtx c x).nextOrder = s.nextOrder := rfl
@[simp] theorem setCtx_hostResp (c : Nat) (x : Ctx) : (s.setCtx c x).hostResp = s.hostResp := rfl
@[simp] theorem setCtx_outbox (c : Nat) (x : Ctx) : (s.setCtx c x).outbox = s.outbox := rfl
@[simp] theorem setCtx_agenda (c : Nat) (x : Ctx) : (s.setCtx c x).agenda = s.agenda := rfl
@[simp] theorem setCtx_cur (c : Nat) (x : Ctx) : (s.setCtx c x).cur = s.cur := rfl
@[simp] theorem setCtx_curE (c : Nat) (x : Ctx) : (s.setCtx c x).curE = s.curE := rfl
@[simp] theorem setCtx_issued (c : Nat) (x : Ctx) : (s.setCtx c x).issued = s.issued := rfl
@[simp] theorem setCtx_insn (c : Nat) (x : Ctx) : (s.setCtx c x).insn = s.insn := rfl
@[simp] theorem setCtx_free (c : Nat) (x : Ctx) : (s.setCtx c x).free = s.free := rfl

/-! ## `tick` -/

@[simp] theorem tick_mem : (s.tick).mem = s.mem := rfl
@[simp] theorem tick_poison : (s.tick).poison = s.poison := rfl
@[simp] theorem tick_walkc : (s.tick).walkc = s.walkc := rfl
@[simp] theorem tick_waves : (s.tick).waves = s.waves := rfl
@[simp] theorem tick_gangs : (s.tick).gangs = s.gangs := rfl
@[simp] theorem tick_entries : (s.tick).entries = s.entries := rfl
@[simp] theorem tick_images : (s.tick).images = s.images := rfl
@[simp] theorem tick_cores : (s.tick).cores = s.cores := rfl
@[simp] theorem tick_dies : (s.tick).dies = s.dies := rfl
@[simp] theorem tick_engines : (s.tick).engines = s.engines := rfl
@[simp] theorem tick_gjobs : (s.tick).gjobs = s.gjobs := rfl
@[simp] theorem tick_redgs : (s.tick).redgs = s.redgs := rfl
@[simp] theorem tick_poolReqs : (s.tick).poolReqs = s.poolReqs := rfl
@[simp] theorem tick_cancels : (s.tick).cancels = s.cancels := rfl
@[simp] theorem tick_ctxs : (s.tick).ctxs = s.ctxs := rfl
@[simp] theorem tick_curseg : (s.tick).curseg = s.curseg := rfl
@[simp] theorem tick_pkg : (s.tick).pkg = s.pkg := rfl
@[simp] theorem tick_nextGang : (s.tick).nextGang = s.nextGang := rfl
@[simp] theorem tick_nextJob : (s.tick).nextJob = s.nextJob := rfl
@[simp] theorem tick_nextOrder : (s.tick).nextOrder = s.nextOrder := rfl
@[simp] theorem tick_hostResp : (s.tick).hostResp = s.hostResp := rfl
@[simp] theorem tick_outbox : (s.tick).outbox = s.outbox := rfl
@[simp] theorem tick_agenda : (s.tick).agenda = s.agenda := rfl
@[simp] theorem tick_cur : (s.tick).cur = s.cur := rfl
@[simp] theorem tick_curE : (s.tick).curE = s.curE := rfl
@[simp] theorem tick_issued : (s.tick).issued = s.issued := rfl
@[simp] theorem tick_insn : (s.tick).insn = s.insn := rfl
@[simp] theorem tick_free : (s.tick).free = s.free + 1 := rfl

/-! ## `setMem` -/

@[simp] theorem setMem_mem (m : List Host.Cell) : (s.setMem m).mem = m := rfl
@[simp] theorem setMem_poison (m : List Host.Cell) : (s.setMem m).poison = s.poison := rfl
@[simp] theorem setMem_walkc (m : List Host.Cell) : (s.setMem m).walkc = s.walkc := rfl
@[simp] theorem setMem_waves (m : List Host.Cell) : (s.setMem m).waves = s.waves := rfl
@[simp] theorem setMem_gangs (m : List Host.Cell) : (s.setMem m).gangs = s.gangs := rfl
@[simp] theorem setMem_entries (m : List Host.Cell) : (s.setMem m).entries = s.entries := rfl
@[simp] theorem setMem_images (m : List Host.Cell) : (s.setMem m).images = s.images := rfl
@[simp] theorem setMem_cores (m : List Host.Cell) : (s.setMem m).cores = s.cores := rfl
@[simp] theorem setMem_dies (m : List Host.Cell) : (s.setMem m).dies = s.dies := rfl
@[simp] theorem setMem_engines (m : List Host.Cell) : (s.setMem m).engines = s.engines := rfl
@[simp] theorem setMem_gjobs (m : List Host.Cell) : (s.setMem m).gjobs = s.gjobs := rfl
@[simp] theorem setMem_redgs (m : List Host.Cell) : (s.setMem m).redgs = s.redgs := rfl
@[simp] theorem setMem_poolReqs (m : List Host.Cell) : (s.setMem m).poolReqs = s.poolReqs := rfl
@[simp] theorem setMem_cancels (m : List Host.Cell) : (s.setMem m).cancels = s.cancels := rfl
@[simp] theorem setMem_ctxs (m : List Host.Cell) : (s.setMem m).ctxs = s.ctxs := rfl
@[simp] theorem setMem_curseg (m : List Host.Cell) : (s.setMem m).curseg = s.curseg := rfl
@[simp] theorem setMem_pkg (m : List Host.Cell) : (s.setMem m).pkg = s.pkg := rfl
@[simp] theorem setMem_nextGang (m : List Host.Cell) : (s.setMem m).nextGang = s.nextGang := rfl
@[simp] theorem setMem_nextJob (m : List Host.Cell) : (s.setMem m).nextJob = s.nextJob := rfl
@[simp] theorem setMem_nextOrder (m : List Host.Cell) : (s.setMem m).nextOrder = s.nextOrder := rfl
@[simp] theorem setMem_hostResp (m : List Host.Cell) : (s.setMem m).hostResp = s.hostResp := rfl
@[simp] theorem setMem_outbox (m : List Host.Cell) : (s.setMem m).outbox = s.outbox := rfl
@[simp] theorem setMem_agenda (m : List Host.Cell) : (s.setMem m).agenda = s.agenda := rfl
@[simp] theorem setMem_cur (m : List Host.Cell) : (s.setMem m).cur = s.cur := rfl
@[simp] theorem setMem_curE (m : List Host.Cell) : (s.setMem m).curE = s.curE := rfl
@[simp] theorem setMem_issued (m : List Host.Cell) : (s.setMem m).issued = s.issued := rfl
@[simp] theorem setMem_insn (m : List Host.Cell) : (s.setMem m).insn = s.insn := rfl
@[simp] theorem setMem_free (m : List Host.Cell) : (s.setMem m).free = s.free := rfl

/-! ## `modCore` -/

@[simp] theorem modCore_mem (c : Nat) (f : Core → Core) : (s.modCore c f).mem = s.mem := rfl
@[simp] theorem modCore_poison (c : Nat) (f : Core → Core) : (s.modCore c f).poison = s.poison := rfl
@[simp] theorem modCore_walkc (c : Nat) (f : Core → Core) : (s.modCore c f).walkc = s.walkc := rfl
@[simp] theorem modCore_waves (c : Nat) (f : Core → Core) : (s.modCore c f).waves = s.waves := rfl
@[simp] theorem modCore_gangs (c : Nat) (f : Core → Core) : (s.modCore c f).gangs = s.gangs := rfl
@[simp] theorem modCore_entries (c : Nat) (f : Core → Core) : (s.modCore c f).entries = s.entries := rfl
@[simp] theorem modCore_images (c : Nat) (f : Core → Core) : (s.modCore c f).images = s.images := rfl
@[simp] theorem modCore_cores (c : Nat) (f : Core → Core) : (s.modCore c f).cores = s.cores.put c (f (s.core c)) := rfl
@[simp] theorem modCore_dies (c : Nat) (f : Core → Core) : (s.modCore c f).dies = s.dies := rfl
@[simp] theorem modCore_engines (c : Nat) (f : Core → Core) : (s.modCore c f).engines = s.engines := rfl
@[simp] theorem modCore_gjobs (c : Nat) (f : Core → Core) : (s.modCore c f).gjobs = s.gjobs := rfl
@[simp] theorem modCore_redgs (c : Nat) (f : Core → Core) : (s.modCore c f).redgs = s.redgs := rfl
@[simp] theorem modCore_poolReqs (c : Nat) (f : Core → Core) : (s.modCore c f).poolReqs = s.poolReqs := rfl
@[simp] theorem modCore_cancels (c : Nat) (f : Core → Core) : (s.modCore c f).cancels = s.cancels := rfl
@[simp] theorem modCore_ctxs (c : Nat) (f : Core → Core) : (s.modCore c f).ctxs = s.ctxs := rfl
@[simp] theorem modCore_curseg (c : Nat) (f : Core → Core) : (s.modCore c f).curseg = s.curseg := rfl
@[simp] theorem modCore_pkg (c : Nat) (f : Core → Core) : (s.modCore c f).pkg = s.pkg := rfl
@[simp] theorem modCore_nextGang (c : Nat) (f : Core → Core) : (s.modCore c f).nextGang = s.nextGang := rfl
@[simp] theorem modCore_nextJob (c : Nat) (f : Core → Core) : (s.modCore c f).nextJob = s.nextJob := rfl
@[simp] theorem modCore_nextOrder (c : Nat) (f : Core → Core) : (s.modCore c f).nextOrder = s.nextOrder := rfl
@[simp] theorem modCore_hostResp (c : Nat) (f : Core → Core) : (s.modCore c f).hostResp = s.hostResp := rfl
@[simp] theorem modCore_outbox (c : Nat) (f : Core → Core) : (s.modCore c f).outbox = s.outbox := rfl
@[simp] theorem modCore_agenda (c : Nat) (f : Core → Core) : (s.modCore c f).agenda = s.agenda := rfl
@[simp] theorem modCore_cur (c : Nat) (f : Core → Core) : (s.modCore c f).cur = s.cur := rfl
@[simp] theorem modCore_curE (c : Nat) (f : Core → Core) : (s.modCore c f).curE = s.curE := rfl
@[simp] theorem modCore_issued (c : Nat) (f : Core → Core) : (s.modCore c f).issued = s.issued := rfl
@[simp] theorem modCore_insn (c : Nat) (f : Core → Core) : (s.modCore c f).insn = s.insn := rfl
@[simp] theorem modCore_free (c : Nat) (f : Core → Core) : (s.modCore c f).free = s.free := rfl

/-! ## `modDie` -/

@[simp] theorem modDie_mem (d : Nat) (f : Die → Die) : (s.modDie d f).mem = s.mem := rfl
@[simp] theorem modDie_poison (d : Nat) (f : Die → Die) : (s.modDie d f).poison = s.poison := rfl
@[simp] theorem modDie_walkc (d : Nat) (f : Die → Die) : (s.modDie d f).walkc = s.walkc := rfl
@[simp] theorem modDie_waves (d : Nat) (f : Die → Die) : (s.modDie d f).waves = s.waves := rfl
@[simp] theorem modDie_gangs (d : Nat) (f : Die → Die) : (s.modDie d f).gangs = s.gangs := rfl
@[simp] theorem modDie_entries (d : Nat) (f : Die → Die) : (s.modDie d f).entries = s.entries := rfl
@[simp] theorem modDie_images (d : Nat) (f : Die → Die) : (s.modDie d f).images = s.images := rfl
@[simp] theorem modDie_cores (d : Nat) (f : Die → Die) : (s.modDie d f).cores = s.cores := rfl
@[simp] theorem modDie_dies (d : Nat) (f : Die → Die) : (s.modDie d f).dies = s.dies.put d (f (s.die d)) := rfl
@[simp] theorem modDie_engines (d : Nat) (f : Die → Die) : (s.modDie d f).engines = s.engines := rfl
@[simp] theorem modDie_gjobs (d : Nat) (f : Die → Die) : (s.modDie d f).gjobs = s.gjobs := rfl
@[simp] theorem modDie_redgs (d : Nat) (f : Die → Die) : (s.modDie d f).redgs = s.redgs := rfl
@[simp] theorem modDie_poolReqs (d : Nat) (f : Die → Die) : (s.modDie d f).poolReqs = s.poolReqs := rfl
@[simp] theorem modDie_cancels (d : Nat) (f : Die → Die) : (s.modDie d f).cancels = s.cancels := rfl
@[simp] theorem modDie_ctxs (d : Nat) (f : Die → Die) : (s.modDie d f).ctxs = s.ctxs := rfl
@[simp] theorem modDie_curseg (d : Nat) (f : Die → Die) : (s.modDie d f).curseg = s.curseg := rfl
@[simp] theorem modDie_pkg (d : Nat) (f : Die → Die) : (s.modDie d f).pkg = s.pkg := rfl
@[simp] theorem modDie_nextGang (d : Nat) (f : Die → Die) : (s.modDie d f).nextGang = s.nextGang := rfl
@[simp] theorem modDie_nextJob (d : Nat) (f : Die → Die) : (s.modDie d f).nextJob = s.nextJob := rfl
@[simp] theorem modDie_nextOrder (d : Nat) (f : Die → Die) : (s.modDie d f).nextOrder = s.nextOrder := rfl
@[simp] theorem modDie_hostResp (d : Nat) (f : Die → Die) : (s.modDie d f).hostResp = s.hostResp := rfl
@[simp] theorem modDie_outbox (d : Nat) (f : Die → Die) : (s.modDie d f).outbox = s.outbox := rfl
@[simp] theorem modDie_agenda (d : Nat) (f : Die → Die) : (s.modDie d f).agenda = s.agenda := rfl
@[simp] theorem modDie_cur (d : Nat) (f : Die → Die) : (s.modDie d f).cur = s.cur := rfl
@[simp] theorem modDie_curE (d : Nat) (f : Die → Die) : (s.modDie d f).curE = s.curE := rfl
@[simp] theorem modDie_issued (d : Nat) (f : Die → Die) : (s.modDie d f).issued = s.issued := rfl
@[simp] theorem modDie_insn (d : Nat) (f : Die → Die) : (s.modDie d f).insn = s.insn := rfl
@[simp] theorem modDie_free (d : Nat) (f : Die → Die) : (s.modDie d f).free = s.free := rfl

/-! ## `retire` -/

@[simp] theorem retire_mem (k : Nat) (w : Wave) (n : Nat) : (s.retire k w n).mem = s.mem := rfl
@[simp] theorem retire_poison (k : Nat) (w : Wave) (n : Nat) : (s.retire k w n).poison = s.poison := rfl
@[simp] theorem retire_walkc (k : Nat) (w : Wave) (n : Nat) : (s.retire k w n).walkc = s.walkc := rfl
@[simp] theorem retire_waves (k : Nat) (w : Wave) (n : Nat) : (s.retire k w n).waves
    = s.waves.put k (s.retired { w with pc := w.pc + BitVec.ofNat 64 n }) := rfl
@[simp] theorem retire_gangs (k : Nat) (w : Wave) (n : Nat) : (s.retire k w n).gangs = s.gangs := rfl
@[simp] theorem retire_entries (k : Nat) (w : Wave) (n : Nat) : (s.retire k w n).entries = s.entries := rfl
@[simp] theorem retire_images (k : Nat) (w : Wave) (n : Nat) : (s.retire k w n).images = s.images := rfl
@[simp] theorem retire_cores (k : Nat) (w : Wave) (n : Nat) : (s.retire k w n).cores = s.cores := rfl
@[simp] theorem retire_dies (k : Nat) (w : Wave) (n : Nat) : (s.retire k w n).dies = s.dies := rfl
@[simp] theorem retire_engines (k : Nat) (w : Wave) (n : Nat) : (s.retire k w n).engines = s.engines := rfl
@[simp] theorem retire_gjobs (k : Nat) (w : Wave) (n : Nat) : (s.retire k w n).gjobs = s.gjobs := rfl
@[simp] theorem retire_redgs (k : Nat) (w : Wave) (n : Nat) : (s.retire k w n).redgs = s.redgs := rfl
@[simp] theorem retire_poolReqs (k : Nat) (w : Wave) (n : Nat) : (s.retire k w n).poolReqs = s.poolReqs := rfl
@[simp] theorem retire_cancels (k : Nat) (w : Wave) (n : Nat) : (s.retire k w n).cancels = s.cancels := rfl
@[simp] theorem retire_ctxs (k : Nat) (w : Wave) (n : Nat) : (s.retire k w n).ctxs = s.ctxs := rfl
@[simp] theorem retire_curseg (k : Nat) (w : Wave) (n : Nat) : (s.retire k w n).curseg = s.curseg := rfl
@[simp] theorem retire_pkg (k : Nat) (w : Wave) (n : Nat) : (s.retire k w n).pkg = s.pkg := rfl
@[simp] theorem retire_nextGang (k : Nat) (w : Wave) (n : Nat) : (s.retire k w n).nextGang = s.nextGang := rfl
@[simp] theorem retire_nextJob (k : Nat) (w : Wave) (n : Nat) : (s.retire k w n).nextJob = s.nextJob := rfl
@[simp] theorem retire_nextOrder (k : Nat) (w : Wave) (n : Nat) : (s.retire k w n).nextOrder = s.nextOrder := rfl
@[simp] theorem retire_hostResp (k : Nat) (w : Wave) (n : Nat) : (s.retire k w n).hostResp = s.hostResp := rfl
@[simp] theorem retire_outbox (k : Nat) (w : Wave) (n : Nat) : (s.retire k w n).outbox = s.outbox := rfl
@[simp] theorem retire_agenda (k : Nat) (w : Wave) (n : Nat) : (s.retire k w n).agenda = s.agenda := rfl
@[simp] theorem retire_cur (k : Nat) (w : Wave) (n : Nat) : (s.retire k w n).cur = s.cur := rfl
@[simp] theorem retire_curE (k : Nat) (w : Wave) (n : Nat) : (s.retire k w n).curE = s.curE := rfl
@[simp] theorem retire_issued (k : Nat) (w : Wave) (n : Nat) : (s.retire k w n).issued = s.issued := rfl
@[simp] theorem retire_insn (k : Nat) (w : Wave) (n : Nat) : (s.retire k w n).insn = s.insn := rfl
@[simp] theorem retire_free (k : Nat) (w : Wave) (n : Nat) : (s.retire k w n).free = s.free := rfl

/-! ## Optional records -/

theorem modWave_some {k : Nat} {w : Wave} (f : Wave → Wave) (h : s.waves.find k = some w) :
    s.modWave k f = s.setWave k (f w) := by simp [modWave, h]

theorem modWave_none {k : Nat} (f : Wave → Wave) (h : s.waves.find k = none) : s.modWave k f = s := by
  simp [modWave, h]

theorem modGang_some {g : Nat} {x : Gang} (f : Gang → Gang) (h : s.gangs.find g = some x) :
    s.modGang g f = s.setGang g (f x) := by simp [modGang, h]

theorem modGang_none {g : Nat} (f : Gang → Gang) (h : s.gangs.find g = none) : s.modGang g f = s := by
  simp [modGang, h]

theorem modCtx_some {c : Nat} {x : Ctx} (f : Ctx → Ctx) (h : s.ctxs.find c = some x) :
    s.modCtx c f = s.setCtx c (f x) := by simp [modCtx, h]

theorem modCtx_none {c : Nat} (f : Ctx → Ctx) (h : s.ctxs.find c = none) : s.modCtx c f = s := by
  simp [modCtx, h]

end Sys2Proof.Machine.State
end

