-- ==== Sys2Proof/Laws/Memory.lean ====
section
/-! SUPPORT. Memory and its canonical form: reading after writing, and that every operation over memory
and the caches keeps the form. -/

namespace Sys2Proof.Machine

/-! ## Bytes -/

theorem memGet_memSet (m : List Host.Cell) (a b : Nat) (x : Byte) :
    memGet (memSet m a x) b = if b = a then x else memGet m b := Map.getD_set m a b memDflt x

@[simp] theorem memGet_memSet_self (m : List Host.Cell) (a : Nat) (x : Byte) :
    memGet (memSet m a x) a = x := by simp [memGet_memSet]

/-- A byte after a range is written. -/
theorem memGet_memWrite (m : List Host.Cell) (a : Nat) (bs : List Byte) (b : Nat) :
    memGet (memWrite m a bs) b = if a ≤ b ∧ b < a + bs.length then bs.getD (b - a) 0 else memGet m b := by
  induction bs generalizing m a with
  | nil => simp [memWrite]
  | cons x t ih =>
    simp only [memWrite, ih, memGet_memSet, List.length_cons]
    by_cases h : b = a
    · subst h; simp
    · by_cases h1 : a + 1 ≤ b ∧ b < a + 1 + t.length
      · have h2 : a ≤ b ∧ b < a + (t.length + 1) := by omega
        have h3 : b - a = (b - (a + 1)) + 1 := by omega
        rw [if_pos h1, if_pos h2, h3, List.getD_cons_succ]
      · have h2 : ¬ (a ≤ b ∧ b < a + (t.length + 1)) := by omega
        rw [if_neg h1, if_neg h2, if_neg h]

/-! ## The canonical form -/

theorem wf_nil : Memory.wf [] := ⟨List.Pairwise.nil, by simp⟩

theorem wf_memSet {m : List Host.Cell} (a : Nat) (x : Byte) (h : Memory.wf m) :
    Memory.wf (memSet m a x) := by
  unfold memSet Map.set
  split
  · exact ⟨Map.sorted_del a h.1, fun e he => h.2 e (Map.mem_del he)⟩
  · rename_i hx
    refine ⟨Map.sorted_put a x h.1, fun e he => ?_⟩
    rcases Map.mem_put he with he | he
    · rw [he]; exact hx
    · exact h.2 e he

theorem wf_memWrite {m : List Host.Cell} (a : Nat) (bs : List Byte) (h : Memory.wf m) :
    Memory.wf (memWrite m a bs) := by
  induction bs generalizing m a with
  | nil => exact h
  | cons x t ih => exact ih (a + 1) (wf_memSet a x h)

theorem wf_filter {m : List Host.Cell} (p : Host.Cell → Bool) (h : Memory.wf m) :
    Memory.wf (m.filter p) :=
  ⟨h.1.filter p, fun e he => h.2 e (List.mem_filter.1 he).1⟩

/-- Two canonical memories that read alike are the same memory. -/
theorem wf_ext {m n : List Host.Cell} (hm : Memory.wf m) (hn : Memory.wf n)
    (h : ∀ a, memGet m a = memGet n a) : m = n := by
  have key : ∀ {m n : List Host.Cell}, Memory.wf m → Memory.wf n → (∀ a, memGet m a = memGet n a) →
      ∀ e ∈ m, e ∈ n := by
    intro m n hm hn h e he
    have hf : ∀ {l : List Host.Cell}, l.Pairwise (fun x y => x.1 < y.1) → ∀ e ∈ l,
        Map.find l e.1 = some e.2 := by
      intro l hl
      induction l with
      | nil => simp
      | cons c t ih =>
        intro e he
        rcases List.mem_cons.1 he with rfl | hm
        · simp [Map.find]
        · have := (List.pairwise_cons.1 hl).1 e hm
          have hne : c.1 ≠ e.1 := by omega
          obtain ⟨k, v⟩ := c
          simp only [Map.find]
          rw [if_neg hne]
          exact ih (List.pairwise_cons.1 hl).2 e hm
    have h1 := h e.1
    simp only [memGet, Map.getD, hf hm.1 e he, Option.getD_some] at h1
    cases hx : Map.find n e.1 with
    | none => rw [hx] at h1; exact absurd h1 (hm.2 e he)
    | some v =>
      rw [hx] at h1
      have hv : e.2 = v := by simpa using h1
      have hmem : ∀ {l : List Host.Cell} {a : Nat} {b : Byte}, Map.find l a = some b → (a, b) ∈ l := by
        intro l
        induction l with
        | nil => intro a b hb; simp at hb
        | cons c t ih =>
          intro a b hb
          obtain ⟨k, w⟩ := c
          simp only [Map.find] at hb
          split at hb
          · rename_i hk; cases hb; subst hk; exact List.mem_cons_self
          · exact List.mem_cons_of_mem _ (ih hb)
      have := hmem hx
      rw [← hv] at this
      exact this
  refine List.Perm.eq_of_pairwise (le := fun x y : Host.Cell => x.1 < y.1) ?_ hm.1 hn.1 ?_
  · intro a b _ _ h1 h2; omega
  · refine (List.perm_ext_iff_of_nodup ?_ ?_).2 (fun e => ⟨key hm hn h e, key hn hm (fun a => (h a).symm) e⟩)
    · exact hm.1.imp (fun h1 h2 => by subst h2; omega)
    · exact hn.1.imp (fun h1 h2 => by subst h2; omega)

end Sys2Proof.Machine
end

