-- ==== Sys2Proof/Laws/Caches.lean ====
section
/-! SUPPORT. Every operation over physical memory and the caches before it keeps memory's canonical
form. -/

namespace Sys2Proof.Machine

variable {s : State}

/-- What does not touch memory keeps the form. -/
theorem inv_of_mem {t : State} (hi : s.Inv) (h : t.mem = s.mem) : t.Inv := by
  unfold State.Inv; rw [h]; exact hi

/-- What each step of a fold keeps, the fold keeps. -/
theorem inv_foldl {α : Type} {f : State → α → State} (hf : ∀ x a, State.Inv x → State.Inv (f x a))
    (l : List α) (hi : s.Inv) : State.Inv (l.foldl f s) := by
  induction l generalizing s with
  | nil => exact hi
  | cons a t ih => exact ih (hf s a hi)

/-- The same for a fold that carries a state beside other data. -/
theorem inv_foldl_fst {α β : Type} {f : State × β → α → State × β}
    (hf : ∀ x a, State.Inv x.1 → State.Inv (f x a).1) (l : List α) (b : β) (hi : s.Inv) :
    State.Inv (l.foldl f (s, b)).1 := by
  induction l generalizing s b with
  | nil => exact hi
  | cons a t ih => exact ih _ (hf (s, b) a hi)

theorem inv_memSec (sec : Nat) (mask : BitVec 16) (d : W128) (hi : s.Inv) : (s.memSec sec mask d).Inv := by
  unfold State.memSec State.setMem
  show Memory.wf _
  have : ∀ (l : List Nat) (m : List Host.Cell), Memory.wf m → Memory.wf (l.foldl
      (fun m i => if mask.getLsbD i then memSet m (hbmAt (sec * 16) + i) (secByte d i) else m) m) := by
    intro l
    induction l with
    | nil => exact fun _ h => h
    | cons i t ih =>
      intro m h
      refine ih _ ?_
      dsimp only
      split
      · exact wf_memSet _ _ h
      · exact h
  exact this _ _ hi

theorem inv_victimSec (die sec : Nat) (x : Sector) (hi : s.Inv) : (s.victimSec die sec x).Inv := by
  have := inv_memSec sec x.mask x.data hi
  unfold State.victimSec
  dsimp only
  split
  · split
    · exact this
    · exact inv_of_mem this rfl
  · exact this

theorem inv_victimBack (die line : Nat) (hi : s.Inv) : (s.victimBack die line).Inv :=
  inv_foldl (fun _ p h => inv_victimSec die p.1 p.2 h) _ (inv_of_mem hi rfl)

theorem inv_allocLine (dm die line : Nat) (b : Bool) (hi : s.Inv) :
    (s.allocLine dm die line b).Inv := by
  have := inv_victimBack die line hi
  unfold State.allocLine
  dsimp only
  split_ifs <;> exact this

theorem inv_homeSecWrite (dm sec : Nat) (mask : BitVec 16) (d : W128) (hi : s.Inv) :
    (s.homeSecWrite dm sec mask d).Inv := by
  unfold State.homeSecWrite
  split
  · dsimp only
    split
    · exact inv_of_mem (inv_allocLine dm _ _ true hi) rfl
    · exact inv_memSec sec mask d (inv_allocLine dm _ _ true hi)
  · exact inv_memSec sec mask d hi

theorem inv_directSecWrite (o : Obs) (lf : Leaf) (sec : Nat) (mask : BitVec 16) (d : W128) (hi : s.Inv) :
    (s.directSecWrite o lf sec mask d).Inv := by
  unfold State.directSecWrite
  split
  · split
    · exact inv_memSec sec mask d hi
    · exact inv_homeSecWrite _ sec mask d hi
  · exact inv_homeSecWrite _ sec mask d hi

theorem inv_dieSec (o : Obs) (lf : Leaf) (sec : Nat) (hi : s.Inv) : (s.dieSec o lf sec).1.Inv := by
  unfold State.dieSec
  split_ifs
  · exact hi
  · exact hi
  · split
    · exact hi
    · split
      · exact hi
      · dsimp only
        split
        · exact inv_of_mem (inv_allocLine o.dm _ _ false hi) rfl
        · exact inv_allocLine o.dm _ _ false hi

theorem inv_dieSecWrite (o : Obs) (lf : Leaf) (sec : Nat) (mask : BitVec 16) (d : W128) (hi : s.Inv) :
    (s.dieSecWrite o lf sec mask d).Inv := by
  unfold State.dieSecWrite
  split_ifs
  · exact inv_directSecWrite o lf sec mask d hi
  · exact inv_homeSecWrite _ sec mask d hi
  · dsimp only
    split
    · exact inv_of_mem (inv_dieSec o lf sec (inv_allocLine o.dm o.die (sec / 8) false hi)) rfl
    · exact inv_homeSecWrite _ sec mask d (inv_allocLine o.dm o.die (sec / 8) false hi)

theorem fusedUpdate_mem (die share sec : Nat) (mask : BitVec 16) (d : W128) :
    (s.fusedUpdate die share sec mask d).mem = s.mem := by
  unfold State.fusedUpdate
  split <;> rfl

theorem inv_engSecWrite (o : Obs) (lf : Leaf) (sec : Nat) (mask : BitVec 16) (d : W128) (hi : s.Inv) :
    (s.engSecWrite o lf sec mask d).Inv := by
  unfold State.engSecWrite
  split_ifs
  · exact inv_directSecWrite o lf sec mask d hi
  · exact inv_of_mem (inv_homeSecWrite _ sec mask d hi) (fusedUpdate_mem _ _ sec mask d)

theorem l1Update_mem (c sec : Nat) (mask : BitVec 16) (d : W128) : (s.l1Update c sec mask d).mem = s.mem := by
  unfold State.l1Update
  split <;> rfl

theorem inv_l1Update (c sec : Nat) (mask : BitVec 16) (d : W128) (hi : s.Inv) :
    (s.l1Update c sec mask d).Inv := inv_of_mem hi (l1Update_mem c sec mask d)

theorem inv_drainSec (o : Obs) (c sec : Nat) (hi : s.Inv) : (s.drainSec o c sec).Inv := by
  unfold State.drainSec
  split
  · exact hi
  · rename_i x h
    have h0 : (s.modCore c (fun k => { k with wcb := k.wcb.del sec })).Inv := inv_of_mem hi rfl
    exact inv_dieSecWrite _ _ sec _ _ (inv_l1Update (s.l1Core c sec) sec x.mask x.data h0)

theorem inv_drainAll (o : Obs) (c : Nat) (hi : s.Inv) : (s.drainAll o c).Inv :=
  inv_foldl (fun _ sec h => inv_drainSec o c sec h) _ hi

theorem l1Room_mem (c : Nat) : (s.l1Room c).mem = s.mem := by
  unfold State.l1Room
  split
  · rfl
  · dsimp only
    split_ifs <;> rfl

theorem inv_l1Room (c : Nat) (hi : s.Inv) : (s.l1Room c).Inv := inv_of_mem hi (l1Room_mem c)

theorem inv_coreSec (o : Obs) (lf : Leaf) (na : Bool) (c sec : Nat) (hi : s.Inv) :
    (s.coreSec o lf na c sec).1.Inv := by
  have h0 := inv_dieSec o lf sec hi
  unfold State.coreSec
  by_cases hd : s.direct o lf (sec * 16) = true
  · rw [if_pos hd]; exact h0
  · rw [if_neg hd]
    dsimp only
    cases h : (s.core (s.l1Core c sec)).l1.find sec with
    | some x => dsimp only; split <;> exact hi
    | none =>
      dsimp only
      by_cases hn : (na || !s.l1Able o lf (sec * 16)) = true
      · rw [if_pos hn]; split <;> exact h0
      · have h1 := inv_l1Room (s.l1Core c sec) h0
        rw [if_neg hn]; split <;> exact inv_of_mem h1 rfl

theorem inv_coreSecWrite (o : Obs) (lf : Leaf) (c sec : Nat) (mask : BitVec 16) (d : W128) (hi : s.Inv) :
    (s.coreSecWrite o lf c sec mask d).Inv := by
  unfold State.coreSecWrite
  split_ifs with hd
  · exact inv_directSecWrite o lf sec mask d hi
  · have h1 := inv_l1Update (s.l1Core c sec) sec mask d hi
    dsimp only
    split
    · exact inv_of_mem h1 rfl
    · split_ifs
      · exact inv_of_mem h1 rfl
      · have h2 : (s.l1Update (s.l1Core c sec) sec mask d).tick.Inv := inv_of_mem h1 rfl
        exact inv_of_mem (inv_drainSec o c _ h2) rfl

theorem inv_sendHome (die sec : Nat) (hi : s.Inv) : (s.sendHome die sec).Inv := by
  have h0 := inv_victimBack die (sec / 8) hi
  unfold State.sendHome
  dsimp only
  split
  · exact inv_of_mem (inv_homeSecWrite _ sec _ _ h0) rfl
  · exact h0

theorem inv_placeSec (o : Obs) (lf : Leaf) (sec : Nat) (hi : s.Inv) : (s.placeSec o lf sec).1.Inv := by
  unfold State.placeSec
  cases o.core with
  | none =>
    dsimp only
    split_ifs
    · exact inv_sendHome _ sec hi
    · exact inv_dieSec o lf sec hi
  | some c =>
    have h1 := inv_drainSec o c sec hi
    dsimp only
    split_ifs
    · exact inv_sendHome _ sec h1
    · exact inv_dieSec o lf sec h1

theorem inv_placeSecWrite (o : Obs) (lf : Leaf) (sec : Nat) (mask : BitVec 16) (d : W128) (hi : s.Inv) :
    (s.placeSecWrite o lf sec mask d).Inv := by
  have key : ∀ x : State, x.Inv → (if s.atHome o lf sec then (x.sendHome o.die sec).engSecWrite o lf sec mask d
      else x.dieSecWrite o lf sec mask d).Inv := by
    intro x hx
    split_ifs
    · exact inv_engSecWrite o lf sec mask d (inv_sendHome _ sec hx)
    · exact inv_dieSecWrite o lf sec mask d hx
  unfold State.placeSecWrite
  apply key
  cases o.core with
  | none => exact inv_of_mem hi (fusedUpdate_mem _ _ sec mask d)
  | some c =>
    have h1 := inv_l1Update (s.l1Core c sec) sec mask d (inv_drainSec o c sec hi)
    dsimp only
    split_ifs
    · exact inv_l1Update _ sec mask d h1
    · exact h1

/-- A read of a range keeps the form. -/
theorem inv_pread (o : Obs) (lf : Leaf) (p : Path) (pa n : Nat) (hi : s.Inv) :
    (s.pread o lf p pa n).1.Inv := by
  refine inv_foldl_fst (fun x ch h => ?_) _ [] hi
  cases p with
  | core na c => exact inv_coreSec o lf na c ch.1 h
  | place => exact inv_placeSec o lf ch.1 h
  | die => exact inv_dieSec o lf ch.1 h
  | engine => exact inv_dieSec o lf ch.1 h

/-- A write of a range keeps the form. -/
theorem inv_pwrite (o : Obs) (lf : Leaf) (p : Path) (pa : Nat) (bs : List Byte) (hi : s.Inv) :
    (s.pwrite o lf p pa bs).Inv := by
  refine inv_foldl_fst (fun x ch h => ?_) _ bs hi
  cases p with
  | core na c => exact inv_coreSecWrite o lf c ch.1 _ _ h
  | place => exact inv_placeSecWrite o lf ch.1 _ _ h
  | die => exact inv_dieSecWrite o lf ch.1 _ _ h
  | engine => exact inv_engSecWrite o lf ch.1 _ _ h

theorem inv_remoteBack (die : Nat) (all : Bool) (hi : s.Inv) : (s.remoteBack die all).Inv := by
  refine inv_foldl (fun _ l h => inv_victimBack die l h) _ ?_
  exact inv_of_mem (inv_foldl (fun _ p h => inv_homeSecWrite p.2.dev p.1 p.2.mask p.2.data h) _ hi) rfl

theorem inv_ddrBack (die : Nat) (hi : s.Inv) : (s.ddrBack die).Inv :=
  inv_foldl (fun _ p h => inv_memSec p.1 p.2.mask p.2.data h) _ (inv_of_mem hi rfl)

theorem inv_ddrBackAll (dies : List Nat) (hi : s.Inv) : (s.ddrBackAll dies).Inv :=
  inv_foldl (fun _ d h => inv_ddrBack d h) _
    (inv_foldl (fun _ d h => inv_foldl (fun _ l h' => inv_victimBack d l h') _ h) _ hi)

theorem inv_release (o : Obs) (all : Bool) (hi : s.Inv) : (s.release o all).Inv := by
  have h1 : (match o.core with
      | some c => s.drainAll o c
      | none => s).Inv := by
    cases o.core with
    | none => exact hi
    | some c => exact inv_drainAll o c hi
  unfold State.release
  dsimp only
  split_ifs
  · exact inv_ddrBackAll _ (inv_remoteBack o.die all h1)
  · exact inv_remoteBack o.die all h1

theorem foldl_modCore_mem (g : Nat → Nat) (f : Core → Core) (l : List Nat) :
    (l.foldl (fun (x : State) p => x.modCore (g p) f) s).mem = s.mem := by
  induction l generalizing s with
  | nil => rfl
  | cons a t ih => simp [ih]

theorem inv_acquire (o : Obs) (hi : s.Inv) : (s.acquire o).Inv := by
  unfold State.acquire
  refine inv_of_mem (inv_remoteBack o.die false ?_) rfl
  cases o.core with
  | none => exact hi
  | some c =>
    dsimp only
    split_ifs
    · exact inv_of_mem hi (foldl_modCore_mem _ _ _)
    · exact inv_of_mem hi rfl

theorem inv_zeroHome (pa n : Nat) (hi : s.Inv) : (s.zeroHome pa n).Inv := wf_filter _ hi

theorem inv_ddrPush (dm sec : Nat) (hi : s.Inv) : (s.ddrPush dm sec).Inv := by
  unfold State.ddrPush
  dsimp only
  split
  · exact inv_of_mem (inv_memSec sec _ _ hi) rfl
  · exact hi

theorem inv_drainDie (die : Nat) (hi : s.Inv) : (s.drainDie die).Inv :=
  inv_foldl (fun _ c h => inv_drainAll _ c h) _ hi

theorem inv_fullRelease (dies : List Nat) (hi : s.Inv) : (s.fullRelease dies).Inv :=
  inv_ddrBackAll _ (inv_foldl (fun _ d h => inv_remoteBack d true (inv_drainDie d h)) _ hi)

theorem inv_copiesTake (sec : Nat) (mask : BitVec 16) (d : W128) (hi : s.Inv) :
    (s.copiesTake sec mask d).Inv := inv_of_mem hi rfl

theorem inv_physWrite (dm pa : Nat) (bs : List Byte) (hi : s.Inv) : (s.physWrite dm pa bs).Inv := by
  unfold State.physWrite
  split
  · exact inv_foldl (fun _ c h => inv_ddrPush dm c.1 h) _ (inv_pwrite _ _ _ _ _ hi)
  · exact hi

/-- An access by physical address to a place without memory leaves the state as it was (log 74). -/
theorem physWrite_absent {dm pa : Nat} {bs : List Byte} (h : s.physOk pa bs.length = false) :
    s.physWrite dm pa bs = s := by simp [State.physWrite, h]

theorem inv_physPut (dm pa n v : Nat) (hi : s.Inv) : (s.physPut dm pa n v).Inv := inv_physWrite _ _ _ hi

end Sys2Proof.Machine
end

