-- ==== Sys2Proof/Laws/Access.lean ====
section
/-! SUPPORT. Translation, and the checked access of a unit to global memory, keep memory's canonical
form. -/

namespace Sys2Proof.Machine

variable {s : State}

theorem inv_writeEntry (o : Obs) (pa e : Nat) (hi : s.Inv) : (s.writeEntry o pa e).Inv :=
  inv_homeSecWrite _ _ _ _ hi

theorem inv_markLeaf (o : Obs) (h : Hit) (w : Bool) (hi : s.Inv) : (s.markLeaf o h w).Inv := by
  have h1 : (if entRc h.e && !bitN h.e 13 then s.zeroHome (entAddr h.e + 0xE000) 0x2000 else s).Inv := by
    split
    · exact inv_zeroHome _ _ hi
    · exact hi
  unfold State.markLeaf
  dsimp only
  generalize (if entRc h.e && !bitN h.e 13 then s.zeroHome (entAddr h.e + 0xE000) 0x2000 else s) = s1 at h1
  split_ifs <;> first | exact h1 | exact inv_writeEntry _ _ _ h1

theorem fillPointers_mem (o : Obs) (va : Nat) (ls : List Nat) (t : Nat) :
    (s.fillPointers o va ls t).mem = s.mem := by
  induction ls generalizing s t with
  | nil => rfl
  | cons l ls ih =>
    unfold State.fillPointers
    dsimp only
    split
    · exact ih _
    · rfl

theorem inv_fillTlb (o : Obs) (va : Nat) (p : PageEnt) (hi : s.Inv) : (s.fillTlb o va p).Inv := by
  refine inv_of_mem hi ?_
  unfold State.fillTlb
  dsimp only
  cases o.core <;> dsimp only <;> split <;> rfl

theorem inv_translate (o : Obs) (last : Option PageEnt) (need : Need) (va n : Nat) (hi : s.Inv) :
    (s.translate o last need va n).1.Inv := by
  unfold State.translate
  split
  · exact hi
  · dsimp only
    split
    · exact inv_fillTlb _ _ _ hi
    · split
      · exact hi
      · split
        · exact hi
        · split
          · exact hi
          · exact inv_fillTlb _ _ _ (inv_markLeaf _ _ _ (inv_of_mem hi (fillPointers_mem o va _ _)))

theorem inv_span (o : Obs) (last : Option PageEnt) (need : Need) (va n : Nat) (hi : s.Inv) :
    (s.span o last need va n).1.Inv := by
  refine inv_foldl_fst (fun x q h => ?_) _ _ hi
  obtain ⟨st, r⟩ := x
  cases r with
  | error e => exact h
  | ok ps =>
    have := inv_translate (s := st) o last need q.1 q.2 h
    dsimp only
    split
    · rename_i heq; rw [heq] at this; exact this
    · rename_i heq; rw [heq] at this; exact this

theorem reach_mem (o : Obs) (va : Nat) (p : Piece) : (s.reach o va p).1.mem = s.mem := by
  unfold State.reach
  split
  · rfl
  · dsimp only; split <;> rfl
  · split
    · rfl
    · split <;> rfl

theorem reachAll_mem (o : Obs) (va : Nat) (ps : List Piece) : (s.reachAll o va ps).1.mem = s.mem := by
  induction ps generalizing s va with
  | nil => rfl
  | cons p t ih =>
    have := reach_mem (s := s) o va p
    unfold State.reachAll
    split
    · rename_i heq; rw [heq] at this; exact this
    · rename_i heq; rw [heq] at this; rw [ih]; exact this

theorem inv_loupe (o : Obs) (w : Bool) (va : Nat) (ps : List Piece) (hi : s.Inv) :
    (s.loupe o w va ps).1.Inv := by
  unfold State.loupe
  split
  · exact hi
  · dsimp only
    split
    · exact hi
    · exact inv_foldl (fun _ l h => inv_directSecWrite o l.2.2 l.1 _ _ h) _ hi

theorem freeBytes_mem (n : Nat) : (s.freeBytes n).1.mem = s.mem := by
  induction n generalizing s with
  | zero => rfl
  | succ n ih => exact ih (s := s.tick)

theorem inv_readPiece (o : Obs) (p : Path) (x : Piece) (hi : s.Inv) : (s.readPiece o p x).1.Inv := by
  unfold State.readPiece
  split
  · exact inv_of_mem hi (freeBytes_mem x.n)
  · exact inv_pread _ _ _ _ _ hi

theorem inv_readPieces (o : Obs) (p : Path) (ps : List Piece) (hi : s.Inv) :
    (s.readPieces o p ps).1.Inv :=
  inv_foldl_fst (f := fun acc x => ((acc.1.readPiece o p x).1, acc.2 ++ (acc.1.readPiece o p x).2))
    (fun _ x h => inv_readPiece o p x h) ps [] hi

theorem inv_writePieces (o : Obs) (p : Path) (ps : List Piece) (bs : List Byte) (hi : s.Inv) :
    (s.writePieces o p ps bs).Inv := by
  induction ps generalizing s bs with
  | nil => exact hi
  | cons x t ih =>
    refine ih (bs.drop x.n) ?_
    split
    · exact inv_of_mem hi rfl
    · exact inv_pwrite _ _ _ _ _ hi

theorem inv_setD (o : Obs) (need : Need) (va : Nat) (ps : List Piece) (hi : s.Inv) :
    (s.setD o need va ps).Inv := by
  induction ps generalizing s va with
  | nil => exact hi
  | cons p t ih =>
    refine ih _ ?_
    dsimp only
    split
    · split
      · exact hi
      · exact inv_fillTlb _ _ _ (inv_markLeaf _ _ _ hi)
    · exact hi

/-- The checks of a global access keep the form. -/
theorem inv_check (o : Obs) (last : Option PageEnt) (need : Need) (sync : Bool) (va n : Nat) (hi : s.Inv) :
    (s.check o last need sync va n).1.Inv := by
  unfold State.check
  split
  · exact hi
  · have h1 := inv_span o last need va n hi
    split
    · rename_i heq; rw [heq] at h1; exact h1
    · rename_i s1 ps heq
      rw [heq] at h1
      have h2 := inv_of_mem h1 (reachAll_mem o va ps)
      split
      · rename_i heq; rw [heq] at h2; exact h2
      · rename_i heq
        rw [heq] at h2
        split
        · exact inv_setD _ _ _ _ h2
        · have h3 := inv_loupe o need.writes va ps h2
          split
          · rename_i heq; rw [heq] at h3; exact h3
          · rename_i heq; rw [heq] at h3; exact inv_setD _ _ _ _ h3

theorem inv_readG (o : Obs) (p : Path) (sync : Bool) (va n : Nat) (hi : s.Inv) :
    (s.readG o p sync va n).1.Inv := by
  have h1 := inv_check o none .read sync va n hi
  unfold State.readG
  split
  · rename_i heq; rw [heq] at h1; exact h1
  · rename_i heq; rw [heq] at h1; exact inv_readPieces o p _ h1

theorem inv_writeG (o : Obs) (p : Path) (sync : Bool) (va : Nat) (bs : List Byte) (hi : s.Inv) :
    (s.writeG o p sync va bs).1.Inv := by
  have h1 := inv_check o none .write sync va bs.length hi
  unfold State.writeG
  split
  · rename_i heq; rw [heq] at h1; exact h1
  · rename_i heq; rw [heq] at h1; exact inv_writePieces o p _ bs h1

end Sys2Proof.Machine
end

