-- ==== Sys2Proof/Laws/Regs.lean ====
section
/-! SUPPORT. Laws of a wave's registers: what a read gives after a write of the same or another register,
of single registers and of groups (R121, R122). -/

namespace Sys2Proof.Machine.Wave

variable (w : Wave)

/-! ## Single registers -/

theorem vreg_setV (r l : Nat) (v : W32) (r' l' : Nat) :
    (w.setV r l v).vreg r' l' = if r' * 64 + l' = r * 64 + l then v else w.vreg r' l' :=
  Map.getD_set _ _ _ _ _

theorem greg_setG (r : Nat) (v : W64) (r' : Nat) :
    (w.setG r v).greg r' = if r' = r then v else w.greg r' := Map.getD_set _ _ _ _ _

theorem preg_setP (r : Nat) (v : W64) (r' : Nat) :
    (w.setP r v).preg r' = if r' = r then v else w.preg r' := Map.getD_set _ _ _ _ _

theorem creg_setC (r : Nat) (v : W128) (r' : Nat) :
    (w.setC r v).creg r' = if r' = r then v else w.creg r' := Map.getD_set _ _ _ _ _

@[simp] theorem greg_setV (r l : Nat) (v : W32) (r' : Nat) : (w.setV r l v).greg r' = w.greg r' := rfl
@[simp] theorem preg_setV (r l : Nat) (v : W32) (r' : Nat) : (w.setV r l v).preg r' = w.preg r' := rfl
@[simp] theorem gpred_setV (r l : Nat) (v : W32) (r' : Nat) : (w.setV r l v).gpred r' = w.gpred r' := rfl
@[simp] theorem vreg_setG (r : Nat) (v : W64) (r' l : Nat) : (w.setG r v).vreg r' l = w.vreg r' l := rfl
@[simp] theorem preg_setG (r : Nat) (v : W64) (r' : Nat) : (w.setG r v).preg r' = w.preg r' := rfl
@[simp] theorem gpred_setG (r : Nat) (v : W64) (r' : Nat) : (w.setG r v).gpred r' = w.gpred r' := rfl
@[simp] theorem vreg_setP (r : Nat) (v : W64) (r' l : Nat) : (w.setP r v).vreg r' l = w.vreg r' l := rfl
@[simp] theorem greg_setP (r : Nat) (v : W64) (r' : Nat) : (w.setP r v).greg r' = w.greg r' := rfl
@[simp] theorem vreg_setGP (r : Nat) (b : Bool) (r' l : Nat) : (w.setGP r b).vreg r' l = w.vreg r' l := rfl
@[simp] theorem greg_setGP (r : Nat) (b : Bool) (r' : Nat) : (w.setGP r b).greg r' = w.greg r' := rfl
@[simp] theorem preg_setGP (r : Nat) (b : Bool) (r' : Nat) : (w.setGP r b).preg r' = w.preg r' := rfl
@[simp] theorem vreg_orFlags (f : W32) (r l : Nat) : (w.orFlags f).vreg r l = w.vreg r l := rfl
@[simp] theorem greg_orFlags (f : W32) (r : Nat) : (w.orFlags f).greg r = w.greg r := rfl
@[simp] theorem preg_orFlags (f : W32) (r : Nat) : (w.orFlags f).preg r = w.preg r := rfl
@[simp] theorem gpred_orFlags (f : W32) (r : Nat) : (w.orFlags f).gpred r = w.gpred r := rfl
@[simp] theorem flags_orFlags (f : W32) : (w.orFlags f).regs.flags = w.regs.flags ||| f := rfl

theorem gpred_setGP (r : Nat) (b : Bool) (r' : Nat) :
    (w.setGP r b).gpred r' = if r' = r ∧ r < 16 then b else w.gpred r' := by
  unfold gpred setGP Regs.setGP
  by_cases h : r' = r
  · subst h
    by_cases h1 : r' < 16
    · cases b <;> simp [h1]
    · have : (1#16 <<< r') = 0#16 := by
        apply BitVec.eq_of_getLsbD_eq; intro i hi
        simp [BitVec.getLsbD_shiftLeft]; omega
      have hg : w.regs.gp.getLsbD r' = false := BitVec.getLsbD_of_ge _ _ (not_lt.1 h1)
      cases b <;> simp [h1, this, hg]
  · have hne : ¬ r = r' := fun e => h e.symm
    have hb : (1#16 <<< r).getLsbD r' = false := by
      simp [BitVec.getLsbD_shiftLeft, BitVec.getLsbD_one]; omega
    cases b
    · simp only [Bool.false_eq_true, if_false, h, false_and]
      by_cases h16 : r' < 16
      · rw [BitVec.getLsbD_and, BitVec.getLsbD_not, hb]; simp [h16]
      · simp [BitVec.getLsbD_of_ge _ _ (not_lt.1 h16)]
    · simp [h, hb]

theorem lane_setLane (m : W64) (l : Nat) (b : Bool) (l' : Nat) (hl : l < 64) :
    lane (setLane m l b) l' = if l' = l then b else lane m l' := by
  unfold lane setLane
  by_cases h : l' = l
  · subst h; cases b <;> simp [hl]
  · have hb : (1#64 <<< l).getLsbD l' = false := by
      simp [BitVec.getLsbD_shiftLeft, BitVec.getLsbD_one]; omega
    cases b
    · simp only [Bool.false_eq_true, if_false, h]
      by_cases h64 : l' < 64
      · rw [BitVec.getLsbD_and, BitVec.getLsbD_not, hb]; simp [h64]
      · simp [BitVec.getLsbD_of_ge _ _ (not_lt.1 h64)]
    · simp [h, hb]

theorem lane_setPL (r l : Nat) (b : Bool) (r' l' : Nat) (hl : l < 64) :
    lane ((w.setPL r l b).preg r') l' = if r' = r ∧ l' = l then b else lane (w.preg r') l' := by
  unfold setPL; rw [preg_setP]
  by_cases h : r' = r
  · subst h; simp [lane_setLane _ _ _ _ hl]
  · simp [h]

/-! ## Groups -/

/-- A group write changes nothing but V registers. -/
theorem setVgrp_rest (n r l x : Nat) :
    w.setVgrp n r l x = { w with regs := { w.regs with v := (w.setVgrp n r l x).regs.v } } := by
  induction n generalizing w r x with
  | zero => rfl
  | succ n ih => rw [setVgrp, ih]; rfl

theorem vreg_setVgrp (n r l x r' l' : Nat) (hl : l < 64) (hl' : l' < 64) :
    (w.setVgrp n r l x).vreg r' l' =
      if l' = l ∧ r ≤ r' ∧ r' < r + n then BitVec.ofNat 32 (x / 2 ^ (32 * (r' - r)))
      else w.vreg r' l' := by
  induction n generalizing w r x with
  | zero => rw [setVgrp, if_neg (by omega)]
  | succ n ih =>
    rw [setVgrp, ih, vreg_setV]
    by_cases h1 : l' = l ∧ r + 1 ≤ r' ∧ r' < r + 1 + n
    · rw [if_pos h1, if_pos (by omega)]
      congr 1
      rw [Nat.div_div_eq_div_mul, ← pow_add]
      congr 2; omega
    · rw [if_neg h1]
      by_cases h2 : r' * 64 + l' = r * 64 + l
      · rw [if_pos h2, if_pos (by omega)]
        have : r' - r = 0 := by omega
        simp [this]
      · rw [if_neg h2, if_neg (by omega)]

theorem vgrp_congr {w w' : Wave} (n r l : Nat)
    (h : ∀ r', r ≤ r' → r' < r + n → w'.vreg r' l = w.vreg r' l) : w'.vgrp n r l = w.vgrp n r l := by
  induction n generalizing r with
  | zero => rfl
  | succ n ih =>
    rw [vgrp, vgrp, h r (le_refl _) (by omega), ih (r + 1) (fun r' h1 h2 => h r' (by omega) (by omega))]

theorem vgrp_lt (n r l : Nat) : w.vgrp n r l < 2 ^ (32 * n) := by
  induction n generalizing r with
  | zero => simp [vgrp]
  | succ n ih =>
    rw [vgrp, Nat.mul_succ, pow_add]
    have h1 := (w.vreg r l).isLt
    have h2 := ih (r + 1)
    generalize w.vgrp n (r + 1) l = y at *
    generalize 2 ^ (32 * n) = z at *
    have h3 : 2 ^ 32 * (y + 1) ≤ 2 ^ 32 * z := Nat.mul_le_mul_left _ h2
    omega

theorem vgrp_setVgrp (n r l x : Nat) (hl : l < 64) :
    (w.setVgrp n r l x).vgrp n r l = x % 2 ^ (32 * n) := by
  induction n generalizing w r x with
  | zero => simp [vgrp, Nat.mod_one]
  | succ n ih =>
    have h0 := vreg_setVgrp w (n + 1) r l x r l hl hl
    rw [vgrp, h0, if_pos (by omega), setVgrp, ih]
    have e : 2 ^ (32 * (n + 1)) = 2 ^ 32 * 2 ^ (32 * n) := by rw [← pow_add]; congr 1; omega
    simp only [Nat.sub_self, Nat.mul_zero, Nat.pow_zero, Nat.div_one, BitVec.toNat_ofNat]
    rw [e, Nat.mod_mul]

theorem vgrp_setVgrp_ne (n m r r' l l' x : Nat) (hl : l < 64) (hl' : l' < 64) (h : l' ≠ l) :
    (w.setVgrp n r l x).vgrp m r' l' = w.vgrp m r' l' :=
  vgrp_congr _ _ _ (fun q _ _ => by rw [vreg_setVgrp w n r l x q l' hl hl', if_neg (by tauto)])

@[simp] theorem greg_setVgrp (n r l x r' : Nat) : (w.setVgrp n r l x).greg r' = w.greg r' := by
  rw [setVgrp_rest]; rfl

@[simp] theorem preg_setVgrp (n r l x r' : Nat) : (w.setVgrp n r l x).preg r' = w.preg r' := by
  rw [setVgrp_rest]; rfl

@[simp] theorem gpred_setVgrp (n r l x r' : Nat) : (w.setVgrp n r l x).gpred r' = w.gpred r' := by
  rw [setVgrp_rest]; rfl

/-! ## Lanes -/

theorem width_le : w.width ≤ 64 := by unfold width; split <;> omega

theorem active_lt {g : Guard} {l : Nat} (h : l ∈ w.active g) : l < 64 := by
  have h1 := (List.mem_filter.1 h).1
  have h2 := List.mem_range.1 (List.mem_filter.1 h1).1
  exact lt_of_lt_of_le h2 w.width_le

theorem active_nodup (g : Guard) : (w.active g).Nodup :=
  (List.nodup_range.filter _).filter _

theorem reg_lt (c : Cell) (w64 : Bool) (r : Nat) : w.reg c w64 r < 2 ^ (if w64 then 64 else 32) := by
  cases c with
  | lane l => cases w64 with
    | false => exact w.vgrp_lt 1 r l
    | true => exact w.vgrp_lt 2 r l
  | grp =>
    cases w64
    · exact Nat.mod_lt _ (by decide)
    · exact (w.greg r).isLt

end Sys2Proof.Machine.Wave
end

