-- ==== Sys2Proof/Laws/Cells.lean ====
section
/-! SUPPORT. The frame of a computing instruction (`runCells`): what it answers, and what its writes leave in
the registers (R8, R61, R147, R150). -/

namespace Sys2Proof.Machine

theorem onWave_at {s : State} {k : Nat} {w : Wave} (hc : s.cur = some k) (hw : s.waves.find k = some w)
    (f : Nat → Wave → Out) : onWave s f = f k w := by simp [onWave, hc, hw]

theorem onGroup_run {s : State} {k : Nat} {w : Wave} {o : WOp} (hc : s.cur = some k)
    (hw : s.waves.find k = some w) (hg : w.guardGrp o.guard = true) (f : Nat → Wave → Out) :
    onGroup s o f = f k w := by simp [onGroup, onWave, hc, hw, hg]

theorem onGroup_skip {s : State} {k : Nat} {w : Wave} {o : WOp} (hc : s.cur = some k)
    (hw : s.waves.find k = some w) (hg : w.guardGrp o.guard = false) (f : Nat → Wave → Out) :
    onGroup s o f = .next (s.retire k w o.len) := by simp [onGroup, onWave, hc, hw, hg]

/-- The cells of an instruction: one group cell, or distinct lanes below 64. -/
theorem cells_lane {w : Wave} {o : WOp} {l : Nat} (h : Cell.lane l ∈ w.cells o) :
    o.grp = false ∧ l ∈ w.active o.guard := by
  unfold Wave.cells at h
  cases hg : o.grp <;> simp [hg] at h
  exact ⟨rfl, h⟩

theorem cells_grp {w : Wave} {o : WOp} (h : Cell.grp ∈ w.cells o) :
    o.grp = true ∧ w.guardGrp o.guard = true := by
  unfold Wave.cells at h
  cases hg : o.grp <;> simp [hg] at h
  exact ⟨rfl, h⟩

theorem cells_nodup (w : Wave) (o : WOp) : (w.cells o).Nodup := by
  unfold Wave.cells
  split
  · split <;> simp
  · exact (w.active_nodup o.guard).map (fun a b h => by injection h)

/-- Two cells of one instruction are the same, or two lanes. -/
theorem cells_cases {w : Wave} {o : WOp} {c c' : Cell} (h : c ∈ w.cells o) (h' : c' ∈ w.cells o) :
    c = c' ∨ ∃ l l', c = .lane l ∧ c' = .lane l' ∧ l ≠ l' ∧ l < 64 ∧ l' < 64 := by
  cases c with
  | lane l => cases c' with
    | lane l' =>
      by_cases e : l = l'
      · exact .inl (by rw [e])
      · exact .inr ⟨l, l', rfl, rfl, e, w.active_lt (cells_lane h).2, w.active_lt (cells_lane h').2⟩
    | grp => simpa [(cells_lane h).1] using (cells_grp h').1
  | grp => cases c' with
    | lane l' => simpa [(cells_lane h').1] using (cells_grp h).1
    | grp => exact .inl rfl

/-! ## Register results -/

/-- Writing a value register of one cell. -/
theorem reg_setReg (w : Wave) (c : Cell) (wide sgn : Bool) (r x : Nat)
    (hc : ∀ l, c = .lane l → l < 64) :
    (w.setReg c wide sgn r x).reg c wide r = x % 2 ^ (if wide then 64 else 32) := by
  cases c with
  | lane l =>
    cases wide
    · exact w.vgrp_setVgrp 1 r l x (hc l rfl)
    · exact w.vgrp_setVgrp 2 r l x (hc l rfl)
  | grp =>
    cases wide
    · cases sgn
      · simp [Wave.setReg, Wave.reg, Wave.greg_setG]
      · simp only [Wave.setReg, Wave.reg, Wave.greg_setG, sext32, if_true, Bool.false_eq_true, if_false]
        rw [BitVec.toNat_signExtend]
        simp only [BitVec.toNat_setWidth, BitVec.toNat_ofNat]
        split <;> omega
    · simp [Wave.setReg, Wave.reg, Wave.greg_setG]

theorem reg_orFlags (w : Wave) (f : W32) (c : Cell) (wide : Bool) (r : Nat) :
    (w.orFlags f).reg c wide r = w.reg c wide r := by
  cases c with
  | lane l => exact Wave.vgrp_congr _ _ _ (fun _ _ _ => rfl)
  | grp => rfl

theorem reg_setReg_lane (w : Wave) (l l' : Nat) (wide wide' sgn : Bool) (r r' x : Nat) (hl : l < 64)
    (hl' : l' < 64) (h : l' ≠ l) :
    (w.setReg (.lane l) wide sgn r x).reg (.lane l') wide' r' = w.reg (.lane l') wide' r' :=
  w.vgrp_setVgrp_ne _ _ r r' l l' x hl hl' h

/-- The writes of a computing instruction, cell by cell. -/
def writeCells (w : Wave) (wide sgn : Bool) (d : Nat) (rs : List (Cell × Nat × W32)) : Wave :=
  rs.foldl (fun x r => (x.setReg r.1 wide sgn d r.2.1).orFlags r.2.2) w

theorem flags_setReg (w : Wave) (c : Cell) (wide sgn : Bool) (r x : Nat) :
    (w.setReg c wide sgn r x).regs.flags = w.regs.flags := by
  cases c with
  | lane l => simp only [Wave.setReg]; rw [Wave.setVgrp_rest]
  | grp => rfl

theorem writeCells_flags (w : Wave) (wide sgn : Bool) (d : Nat) (rs : List (Cell × Nat × W32)) :
    (writeCells w wide sgn d rs).regs.flags = w.regs.flags ||| rs.foldl (fun a r => a ||| r.2.2) 0 := by
  have gen : ∀ (rs : List (Cell × Nat × W32)) (w : Wave) (a b : W32), w.regs.flags = b ||| a →
      (writeCells w wide sgn d rs).regs.flags = b ||| rs.foldl (fun a r => a ||| r.2.2) a := by
    intro rs
    induction rs with
    | nil => intro w a b h; exact h
    | cons r t ih =>
      intro w a b h
      refine ih _ _ _ ?_
      rw [Wave.flags_orFlags, flags_setReg, h, BitVec.or_assoc]
  exact gen rs w 0 _ (by simp)

/-- A register write changes V, G and FLAGS alone. -/
theorem setReg_regs (w : Wave) (c : Cell) (wide sgn : Bool) (r x : Nat) (f : W32) :
    ∃ R : Regs, (w.setReg c wide sgn r x).orFlags f = { w with regs := R } ∧ R.p = w.regs.p
      ∧ R.gp = w.regs.gp ∧ R.c = w.regs.c ∧ R.q = w.regs.q ∧ R.mode = w.regs.mode := by
  cases c with
  | lane l =>
    simp only [Wave.setReg]; rw [Wave.setVgrp_rest]
    exact ⟨_, rfl, rfl, rfl, rfl, rfl, rfl⟩
  | grp => exact ⟨_, rfl, rfl, rfl, rfl, rfl, rfl⟩

/-- What no write of a register changes: the rest of the wave, predicates, cursors, queues, MODE. -/
theorem writeCells_regs (w : Wave) (wide sgn : Bool) (d : Nat) (rs : List (Cell × Nat × W32)) :
    ∃ R : Regs, writeCells w wide sgn d rs = { w with regs := R } ∧ R.p = w.regs.p
      ∧ R.gp = w.regs.gp ∧ R.c = w.regs.c ∧ R.q = w.regs.q ∧ R.mode = w.regs.mode := by
  induction rs generalizing w with
  | nil => exact ⟨w.regs, rfl, rfl, rfl, rfl, rfl, rfl⟩
  | cons r t ih =>
    obtain ⟨R0, h0, b0, c0, e0, f0, g0⟩ := setReg_regs w r.1 wide sgn d r.2.1 r.2.2
    obtain ⟨R, h, b, c, e, f, g⟩ := ih ((w.setReg r.1 wide sgn d r.2.1).orFlags r.2.2)
    rw [h0] at b c e f g
    refine ⟨R, ?_, b.trans b0, c.trans c0, e.trans e0, f.trans f0, g.trans g0⟩
    refine Eq.trans h ?_
    rw [h0]

/-- A register that no cell names keeps its value. -/
theorem writeCells_greg (w : Wave) (wide sgn : Bool) (d : Nat) (rs : List (Cell × Nat × W32)) (r : Nat)
    (h : Cell.grp ∈ rs.map (·.1) → r ≠ d) : (writeCells w wide sgn d rs).greg r = w.greg r := by
  induction rs generalizing w with
  | nil => rfl
  | cons e t ih =>
    have := ih ((w.setReg e.1 wide sgn d e.2.1).orFlags e.2.2) (fun hm => h (by simp [hm]))
    refine Eq.trans this ?_
    rw [Wave.greg_orFlags]
    cases he : e.1 with
    | lane l => simp [Wave.setReg]
    | grp => simp only [Wave.setReg]; rw [Wave.greg_setG, if_neg (h (by simp [he]))]

theorem writeCells_vreg (w : Wave) (wide sgn : Bool) (d : Nat) (rs : List (Cell × Nat × W32)) (r l : Nat)
    (hl : l < 64) (hs : ∀ m, Cell.lane m ∈ rs.map (·.1) → m < 64)
    (h : Cell.lane l ∈ rs.map (·.1) → r ≠ d ∧ (wide = true → r ≠ d + 1)) :
    (writeCells w wide sgn d rs).vreg r l = w.vreg r l := by
  induction rs generalizing w with
  | nil => rfl
  | cons e t ih =>
    have := ih ((w.setReg e.1 wide sgn d e.2.1).orFlags e.2.2) (fun m hm => hs m (by simp [hm]))
      (fun hm => h (by simp [hm]))
    refine Eq.trans this ?_
    rw [Wave.vreg_orFlags]
    cases he : e.1 with
    | lane m =>
      simp only [Wave.setReg]
      rw [Wave.vreg_setVgrp _ _ _ _ _ _ _ (hs m (by simp [he])) hl, if_neg]
      rintro ⟨rfl, h1, h2⟩
      have := h (by simp [he])
      cases wide <;> simp at h2 this <;> omega
    | grp => rfl

/-- Each cell holds the value computed for it. -/
theorem writeCells_reg (w : Wave) (o : WOp) (wide sgn : Bool) (d : Nat) (f : Cell → Nat × W32)
    (w0 : Wave) (c : Cell) (hc : c ∈ w0.cells o) :
    (writeCells w wide sgn d ((w0.cells o).map (fun c => (c, f c)))).reg c wide d
      = (f c).1 % 2 ^ (if wide then 64 else 32) := by
  have gen : ∀ (cs : List Cell) (w : Wave), cs.Nodup → (∀ x ∈ cs, x ∈ w0.cells o) →
      (c ∈ cs → (writeCells w wide sgn d (cs.map (fun c => (c, f c)))).reg c wide d
        = (f c).1 % 2 ^ (if wide then 64 else 32))
      ∧ (c ∉ cs → (writeCells w wide sgn d (cs.map (fun c => (c, f c)))).reg c wide d
        = w.reg c wide d) := by
    intro cs
    induction cs with
    | nil => intro w _ _; exact ⟨fun h => by simp at h, fun _ => rfl⟩
    | cons x t ih =>
      intro w hn hs
      obtain ⟨i1, i2⟩ := ih ((w.setReg x wide sgn d (f x).1).orFlags (f x).2) (List.nodup_cons.1 hn).2
        (fun y hy => hs y (by simp [hy]))
      refine ⟨fun h => ?_, fun h => ?_⟩
      · by_cases hx : c ∈ t
        · exact i1 hx
        · have e : c = x := by rcases List.mem_cons.1 h with h | h; exact h; exact absurd h hx
          refine Eq.trans (i2 hx) ?_
          subst e
          rw [reg_orFlags, reg_setReg]
          intro l hl; subst hl; exact w0.active_lt (cells_lane hc).2
      · refine Eq.trans (i2 (fun hm => h (by simp [hm]))) ?_
        rw [reg_orFlags]
        rcases cells_cases hc (hs x (by simp)) with e | ⟨l, l', rfl, rfl, hne, h1, h2⟩
        · exact absurd (by simp [e]) h
        · exact reg_setReg_lane _ _ _ _ _ _ _ _ _ h2 h1 hne
  exact (gen _ w (cells_nodup w0 o) (fun x h => h)).1 hc

/-- `runAlu` when no enabled condition arises: the instruction retires with its cells written. -/
theorem runAlu_next {s : State} {k : Nat} {w : Wave} {o : WOp} {f : Wave → Cell → Nat × W32}
    (hc : s.cur = some k) (hw : s.waves.find k = some w)
    (hf : ∀ c ∈ w.cells o, enabledOf w.regs.mode (f w c).2 = 0) :
    runAlu o s f = .next (s.retire k (writeCells w (ty64 o.ty) (o.ty = 0) o.d.toNat
      ((w.cells o).map (fun c => (c, f w c)))) o.len) := by
  have hz : ∀ (l : List (Cell × Nat × W32)), (∀ r ∈ l, enabledOf w.regs.mode r.2.2 = 0) →
      l.foldl (fun acc r => acc ||| enabledOf w.regs.mode r.2.2) 0 = 0 := by
    intro l
    induction l with
    | nil => intro _; rfl
    | cons r t ih => intro h; rw [List.foldl_cons, h r (by simp)]; exact ih (fun x hx => h x (by simp [hx]))
  unfold runAlu runCells
  rw [onWave_at hc hw]
  simp only
  rw [if_pos (hz _ (by simpa using hf))]
  rfl

end Sys2Proof.Machine
end

