-- ==== Sys2Proof/Laws/Issue.lean ====
section
/-! SUPPORT. What the end of an issue slot can answer (R46, R363, R399): it keeps memory as the instruction left
it, and a step that waits for an island leaves the state as it was. -/

namespace Sys2Proof.Machine

@[simp] theorem giveBack_mem (s0 t : State) (k : Nat) (w : Wave) : (s0.giveBack t k w).mem = t.mem := rfl

@[simp] theorem overtake_mem (s t : State) (k : Nat) (i : Instr) (w0 w : Wave) :
    (s.overtake t k i w0 w).mem = t.mem := by
  unfold State.overtake
  split
  · split <;> rfl
  · rfl

/-- The end of a slot goes on from a next state of the instruction, with the memory of that state. -/
theorem afterIssue_next {s0 s t' : State} {i : Instr} {out : Out} (h : afterIssue s0 s i out = .next t') :
    ∃ t, out = .next t ∧ t'.mem = t.mem := by
  unfold afterIssue at h
  split at h
  · split at h
    · split at h
      · injection h with h; subst h; exact ⟨_, rfl, by simp⟩
      · injection h with h; subst h
        refine ⟨_, rfl, ?_⟩
        split <;> split <;> simp [State.setWave]
    · injection h with h; subst h; exact ⟨_, rfl, rfl⟩
  · exact ⟨_, h, rfl⟩

/-- A step that finds its islands performing is as its meaning answers; else it leaves the state. -/
theorem whenOn_next {s t : State} {out : Out} (h : whenOn s out = .next t) : out = .next t ∨ t = s := by
  unfold whenOn at h
  split at h
  · split at h
    · exact .inl h
    · simp only [stall] at h
      injection h with h
      exact .inr h.symm
  · exact .inl h

/-- With no island off or changing, nothing waits. -/
@[simp] theorem whenOn_allOn {s : State} (out : Out) (h : s.pkg.islands = []) : whenOn s out = out := by
  unfold whenOn
  split
  · rw [if_pos]; simp [State.writesOn, h]
  · rfl

end Sys2Proof.Machine
end

