-- ==== Sys2Proof/Laws/PerInstr.lean ====
section
/-! SUPPORT. Facts about every instruction as syntax, one lemma a constructor. Family `EncodesBack`: the
decoder reads a well-formed copy command back from the fields it is encoded in (R274-R290); an instruction
that is no command has no such fields. -/

namespace Sys2Proof.Laws

theorem off14 (x : BitVec 14) : x.extractLsb' 5 9 ++ x.extractLsb' 0 5 = x := by
  ext i hi
  simp only [BitVec.getElem_append, BitVec.getElem_extractLsb']
  split
  · simp [BitVec.getLsbD_eq_getElem hi]
  · have h : 5 + (i - 5) = i := by omega
    rw [h, BitVec.getLsbD_eq_getElem hi]

theorem low3of5 (x : BitVec 3) : (0#2 ++ x).extractLsb' 0 3 = x ∧ (0#2 ++ x).extractLsb' 3 2 = 0#2 := by
  revert x; decide

theorem low2of5 (x : BitVec 2) : (0#3 ++ x).extractLsb' 0 2 = x ∧ (0#3 ++ x).extractLsb' 2 3 = 0#3 := by
  revert x; decide

theorem low5of9 (x : BitVec 5) : (0#4 ++ x).extractLsb' 0 5 = x ∧ (0#4 ++ x).extractLsb' 5 4 = 0#4 := by
  revert x; decide

theorem memImm (sp sx : Bool) (z : BitVec 2) :
    let m : BitVec 9 := 0#5 ++ bit1 sp ++ bit1 sx ++ z
    m.extractLsb' 0 2 = z ∧ m.getLsbD 2 = sx ∧ m.getLsbD 3 = sp ∧ m.extractLsb' 4 5 = 0#5 := by
  revert sp sx z; decide

theorem spImm (sp : Bool) : let m : BitVec 9 := 0#5 ++ bit1 sp ++ 0#3
    m.getLsbD 3 = sp ∧ m &&& ~~~8#9 = 0#9 := by revert sp; decide

theorem bit0Imm (b : Bool) : let m : BitVec 9 := 0#8 ++ bit1 b
    m.getLsbD 0 = b ∧ m &&& ~~~1#9 = 0#9 := by revert b; decide

/-- The family: the fields of a command decode to it. -/
def EncodesBack.Statement (i : Instr) : Prop :=
  i.wf = true → ∀ r, i.ce? = some r → decodeRawC r = .ok i

namespace EncodesBack

theorem noFields {i : Instr} (h : i.ce? = none) : Statement i := by
  intro _ r hr
  rw [h] at hr
  cases hr

end EncodesBack


theorem EncodesBack.waveIssue (x0 : Slot) :
    EncodesBack.Statement (.waveIssue x0) := EncodesBack.noFields rfl

theorem EncodesBack.getid (x0 : WOp) :
    EncodesBack.Statement (.getid x0) := EncodesBack.noFields rfl

theorem EncodesBack.getcap (x0 : WOp) :
    EncodesBack.Statement (.getcap x0) := EncodesBack.noFields rfl

theorem EncodesBack.iadd (x0 : WOp) :
    EncodesBack.Statement (.iadd x0) := EncodesBack.noFields rfl

theorem EncodesBack.isub (x0 : WOp) :
    EncodesBack.Statement (.isub x0) := EncodesBack.noFields rfl

theorem EncodesBack.ineg (x0 : WOp) :
    EncodesBack.Statement (.ineg x0) := EncodesBack.noFields rfl

theorem EncodesBack.iabs (x0 : WOp) :
    EncodesBack.Statement (.iabs x0) := EncodesBack.noFields rfl

theorem EncodesBack.imul (x0 : WOp) :
    EncodesBack.Statement (.imul x0) := EncodesBack.noFields rfl

theorem EncodesBack.imad (x0 : WOp) :
    EncodesBack.Statement (.imad x0) := EncodesBack.noFields rfl

theorem EncodesBack.imin (x0 : WOp) :
    EncodesBack.Statement (.imin x0) := EncodesBack.noFields rfl

theorem EncodesBack.imax (x0 : WOp) :
    EncodesBack.Statement (.imax x0) := EncodesBack.noFields rfl

theorem EncodesBack.and (x0 : WOp) :
    EncodesBack.Statement (.and x0) := EncodesBack.noFields rfl

theorem EncodesBack.or (x0 : WOp) :
    EncodesBack.Statement (.or x0) := EncodesBack.noFields rfl

theorem EncodesBack.xor (x0 : WOp) :
    EncodesBack.Statement (.xor x0) := EncodesBack.noFields rfl

theorem EncodesBack.not (x0 : WOp) :
    EncodesBack.Statement (.not x0) := EncodesBack.noFields rfl

theorem EncodesBack.andn (x0 : WOp) :
    EncodesBack.Statement (.andn x0) := EncodesBack.noFields rfl

theorem EncodesBack.bool3 (x0 : WOp) :
    EncodesBack.Statement (.bool3 x0) := EncodesBack.noFields rfl

theorem EncodesBack.shl (x0 : WOp) :
    EncodesBack.Statement (.shl x0) := EncodesBack.noFields rfl

theorem EncodesBack.shr (x0 : WOp) :
    EncodesBack.Statement (.shr x0) := EncodesBack.noFields rfl

theorem EncodesBack.sar (x0 : WOp) :
    EncodesBack.Statement (.sar x0) := EncodesBack.noFields rfl

theorem EncodesBack.shf (x0 : WOp) :
    EncodesBack.Statement (.shf x0) := EncodesBack.noFields rfl

theorem EncodesBack.bfe (x0 : WOp) :
    EncodesBack.Statement (.bfe x0) := EncodesBack.noFields rfl

theorem EncodesBack.bfi (x0 : WOp) :
    EncodesBack.Statement (.bfi x0) := EncodesBack.noFields rfl

theorem EncodesBack.popc (x0 : WOp) :
    EncodesBack.Statement (.popc x0) := EncodesBack.noFields rfl

theorem EncodesBack.clz (x0 : WOp) :
    EncodesBack.Statement (.clz x0) := EncodesBack.noFields rfl

theorem EncodesBack.brev (x0 : WOp) :
    EncodesBack.Statement (.brev x0) := EncodesBack.noFields rfl

theorem EncodesBack.mov (x0 : WOp) :
    EncodesBack.Statement (.mov x0) := EncodesBack.noFields rfl

theorem EncodesBack.movi (x0 : WOp) :
    EncodesBack.Statement (.movi x0) := EncodesBack.noFields rfl

theorem EncodesBack.sel (x0 : WOp) :
    EncodesBack.Statement (.sel x0) := EncodesBack.noFields rfl

theorem EncodesBack.icmp (x0 : WOp) :
    EncodesBack.Statement (.icmp x0) := EncodesBack.noFields rfl

theorem EncodesBack.pbool (x0 : WOp) :
    EncodesBack.Statement (.pbool x0) := EncodesBack.noFields rfl

theorem EncodesBack.idp4 (x0 : WOp) :
    EncodesBack.Statement (.idp4 x0) := EncodesBack.noFields rfl

theorem EncodesBack.idp2 (x0 : WOp) :
    EncodesBack.Statement (.idp2 x0) := EncodesBack.noFields rfl

theorem EncodesBack.fadd (x0 : WOp) :
    EncodesBack.Statement (.fadd x0) := EncodesBack.noFields rfl

theorem EncodesBack.fsub (x0 : WOp) :
    EncodesBack.Statement (.fsub x0) := EncodesBack.noFields rfl

theorem EncodesBack.fmul (x0 : WOp) :
    EncodesBack.Statement (.fmul x0) := EncodesBack.noFields rfl

theorem EncodesBack.ffma (x0 : WOp) :
    EncodesBack.Statement (.ffma x0) := EncodesBack.noFields rfl

theorem EncodesBack.fmin (x0 : WOp) :
    EncodesBack.Statement (.fmin x0) := EncodesBack.noFields rfl

theorem EncodesBack.fmax (x0 : WOp) :
    EncodesBack.Statement (.fmax x0) := EncodesBack.noFields rfl

theorem EncodesBack.fcmp (x0 : WOp) :
    EncodesBack.Statement (.fcmp x0) := EncodesBack.noFields rfl

theorem EncodesBack.frcp (x0 : WOp) :
    EncodesBack.Statement (.frcp x0) := EncodesBack.noFields rfl

theorem EncodesBack.frsq (x0 : WOp) :
    EncodesBack.Statement (.frsq x0) := EncodesBack.noFields rfl

theorem EncodesBack.fsqrt (x0 : WOp) :
    EncodesBack.Statement (.fsqrt x0) := EncodesBack.noFields rfl

theorem EncodesBack.fdiv (x0 : WOp) :
    EncodesBack.Statement (.fdiv x0) := EncodesBack.noFields rfl

theorem EncodesBack.fexp2 (x0 : WOp) :
    EncodesBack.Statement (.fexp2 x0) := EncodesBack.noFields rfl

theorem EncodesBack.flog2 (x0 : WOp) :
    EncodesBack.Statement (.flog2 x0) := EncodesBack.noFields rfl

theorem EncodesBack.cvt (x0 : WOp) :
    EncodesBack.Statement (.cvt x0) := EncodesBack.noFields rfl

theorem EncodesBack.fneg (x0 : WOp) :
    EncodesBack.Statement (.fneg x0) := EncodesBack.noFields rfl

theorem EncodesBack.fabs (x0 : WOp) :
    EncodesBack.Statement (.fabs x0) := EncodesBack.noFields rfl

theorem EncodesBack.bra (x0 : WOp) :
    EncodesBack.Statement (.bra x0) := EncodesBack.noFields rfl

theorem EncodesBack.braIndirect (x0 : WOp) :
    EncodesBack.Statement (.braIndirect x0) := EncodesBack.noFields rfl

theorem EncodesBack.call (x0 : WOp) :
    EncodesBack.Statement (.call x0) := EncodesBack.noFields rfl

theorem EncodesBack.callIndirect (x0 : WOp) :
    EncodesBack.Statement (.callIndirect x0) := EncodesBack.noFields rfl

theorem EncodesBack.ret (x0 : WOp) :
    EncodesBack.Statement (.ret x0) := EncodesBack.noFields rfl

theorem EncodesBack.cvgPush (x0 : WOp) :
    EncodesBack.Statement (.cvgPush x0) := EncodesBack.noFields rfl

theorem EncodesBack.cvgJoin (x0 : WOp) :
    EncodesBack.Statement (.cvgJoin x0) := EncodesBack.noFields rfl

theorem EncodesBack.exmGet (x0 : WOp) :
    EncodesBack.Statement (.exmGet x0) := EncodesBack.noFields rfl

theorem EncodesBack.exmSet (x0 : WOp) :
    EncodesBack.Statement (.exmSet x0) := EncodesBack.noFields rfl

theorem EncodesBack.yield (x0 : WOp) :
    EncodesBack.Statement (.yield x0) := EncodesBack.noFields rfl

theorem EncodesBack.end_ (x0 : WOp) :
    EncodesBack.Statement (.end_ x0) := EncodesBack.noFields rfl

theorem EncodesBack.trap (x0 : WOp) :
    EncodesBack.Statement (.trap x0) := EncodesBack.noFields rfl

theorem EncodesBack.rdfirst (x0 : WOp) :
    EncodesBack.Statement (.rdfirst x0) := EncodesBack.noFields rfl

theorem EncodesBack.rdlane (x0 : WOp) :
    EncodesBack.Statement (.rdlane x0) := EncodesBack.noFields rfl

theorem EncodesBack.wrlane (x0 : WOp) :
    EncodesBack.Statement (.wrlane x0) := EncodesBack.noFields rfl

theorem EncodesBack.bcast (x0 : WOp) :
    EncodesBack.Statement (.bcast x0) := EncodesBack.noFields rfl

theorem EncodesBack.lperm (x0 : WOp) :
    EncodesBack.Statement (.lperm x0) := EncodesBack.noFields rfl

theorem EncodesBack.poll (x0 : WOp) :
    EncodesBack.Statement (.poll x0) := EncodesBack.noFields rfl

theorem EncodesBack.lred (x0 : WOp) :
    EncodesBack.Statement (.lred x0) := EncodesBack.noFields rfl

theorem EncodesBack.sameMask (x0 : WOp) :
    EncodesBack.Statement (.sameMask x0) := EncodesBack.noFields rfl

theorem EncodesBack.sameAll (x0 : WOp) :
    EncodesBack.Statement (.sameAll x0) := EncodesBack.noFields rfl

theorem EncodesBack.getmode (x0 : WOp) :
    EncodesBack.Statement (.getmode x0) := EncodesBack.noFields rfl

theorem EncodesBack.setmode (x0 : WOp) :
    EncodesBack.Statement (.setmode x0) := EncodesBack.noFields rfl

theorem EncodesBack.getflags (x0 : WOp) :
    EncodesBack.Statement (.getflags x0) := EncodesBack.noFields rfl

theorem EncodesBack.setflags (x0 : WOp) :
    EncodesBack.Statement (.setflags x0) := EncodesBack.noFields rfl

theorem EncodesBack.clrflags (x0 : WOp) :
    EncodesBack.Statement (.clrflags x0) := EncodesBack.noFields rfl

theorem EncodesBack.ldg (x0 : WOp) :
    EncodesBack.Statement (.ldg x0) := EncodesBack.noFields rfl

theorem EncodesBack.stg (x0 : WOp) :
    EncodesBack.Statement (.stg x0) := EncodesBack.noFields rfl

theorem EncodesBack.atg (x0 : WOp) :
    EncodesBack.Statement (.atg x0) := EncodesBack.noFields rfl

theorem EncodesBack.redg (x0 : WOp) :
    EncodesBack.Statement (.redg x0) := EncodesBack.noFields rfl

theorem EncodesBack.redgRedir (x0 : WOp) :
    EncodesBack.Statement (.redgRedir x0) := EncodesBack.noFields rfl

theorem EncodesBack.redgUpdate (x0 : Nat) :
    EncodesBack.Statement (.redgUpdate x0) := EncodesBack.noFields rfl

theorem EncodesBack.pref (x0 : WOp) :
    EncodesBack.Statement (.pref x0) := EncodesBack.noFields rfl

theorem EncodesBack.lds (x0 : WOp) :
    EncodesBack.Statement (.lds x0) := EncodesBack.noFields rfl

theorem EncodesBack.sts (x0 : WOp) :
    EncodesBack.Statement (.sts x0) := EncodesBack.noFields rfl

theorem EncodesBack.ats (x0 : WOp) :
    EncodesBack.Statement (.ats x0) := EncodesBack.noFields rfl

theorem EncodesBack.ldc (x0 : WOp) :
    EncodesBack.Statement (.ldc x0) := EncodesBack.noFields rfl

theorem EncodesBack.fenceRel (x0 : WOp) :
    EncodesBack.Statement (.fenceRel x0) := EncodesBack.noFields rfl

theorem EncodesBack.fenceAcq (x0 : WOp) :
    EncodesBack.Statement (.fenceAcq x0) := EncodesBack.noFields rfl

theorem EncodesBack.fenceAr (x0 : WOp) :
    EncodesBack.Statement (.fenceAr x0) := EncodesBack.noFields rfl

theorem EncodesBack.icinv (x0 : WOp) :
    EncodesBack.Statement (.icinv x0) := EncodesBack.noFields rfl

theorem EncodesBack.qbind (x0 : WOp) :
    EncodesBack.Statement (.qbind x0) := EncodesBack.noFields rfl

theorem EncodesBack.qbindInit (x0 : WOp) :
    EncodesBack.Statement (.qbindInit x0) := EncodesBack.noFields rfl

theorem EncodesBack.qpush (x0 : WOp) :
    EncodesBack.Statement (.qpush x0) := EncodesBack.noFields rfl

theorem EncodesBack.qpop (x0 : WOp) :
    EncodesBack.Statement (.qpop x0) := EncodesBack.noFields rfl

theorem EncodesBack.qtry (x0 : WOp) :
    EncodesBack.Statement (.qtry x0) := EncodesBack.noFields rfl

theorem EncodesBack.qstat (x0 : WOp) :
    EncodesBack.Statement (.qstat x0) := EncodesBack.noFields rfl

theorem EncodesBack.barInit (x0 : WOp) :
    EncodesBack.Statement (.barInit x0) := EncodesBack.noFields rfl

theorem EncodesBack.barArr (x0 : WOp) :
    EncodesBack.Statement (.barArr x0) := EncodesBack.noFields rfl

theorem EncodesBack.barWait (x0 : WOp) :
    EncodesBack.Statement (.barWait x0) := EncodesBack.noFields rfl

theorem EncodesBack.barExp (x0 : WOp) :
    EncodesBack.Statement (.barExp x0) := EncodesBack.noFields rfl

theorem EncodesBack.ceStart (x0 : WOp) :
    EncodesBack.Statement (.ceStart x0) := EncodesBack.noFields rfl

theorem EncodesBack.ceWait (x0 : WOp) :
    EncodesBack.Statement (.ceWait x0) := EncodesBack.noFields rfl

theorem EncodesBack.gthr (x0 : WOp) :
    EncodesBack.Statement (.gthr x0) := EncodesBack.noFields rfl

theorem EncodesBack.sctr (x0 : WOp) :
    EncodesBack.Statement (.sctr x0) := EncodesBack.noFields rfl

theorem EncodesBack.gatherUnitAccept (x0 : Nat) :
    EncodesBack.Statement (.gatherUnitAccept x0) := EncodesBack.noFields rfl

theorem EncodesBack.gatherSector (x0 : Nat) :
    EncodesBack.Statement (.gatherSector x0) := EncodesBack.noFields rfl

theorem EncodesBack.scatterSector (x0 : Nat) :
    EncodesBack.Statement (.scatterSector x0) := EncodesBack.noFields rfl

theorem EncodesBack.launch (x0 : WOp) :
    EncodesBack.Statement (.launch x0) := EncodesBack.noFields rfl

theorem EncodesBack.mldb (x0 : WOp) :
    EncodesBack.Statement (.mldb x0) := EncodesBack.noFields rfl

theorem EncodesBack.mma (x0 : WOp) :
    EncodesBack.Statement (.mma x0) := EncodesBack.noFields rfl

theorem EncodesBack.mst (x0 : WOp) :
    EncodesBack.Statement (.mst x0) := EncodesBack.noFields rfl

theorem EncodesBack.mz (x0 : WOp) :
    EncodesBack.Statement (.mz x0) := EncodesBack.noFields rfl

theorem EncodesBack.matrixArrayExecute (x0 : Nat) :
    EncodesBack.Statement (.matrixArrayExecute x0) := EncodesBack.noFields rfl

theorem EncodesBack.curOpen (x0 : WOp) :
    EncodesBack.Statement (.curOpen x0) := EncodesBack.noFields rfl

theorem EncodesBack.curNext (x0 : WOp) :
    EncodesBack.Statement (.curNext x0) := EncodesBack.noFields rfl

theorem EncodesBack.curSeek (x0 : WOp) :
    EncodesBack.Statement (.curSeek x0) := EncodesBack.noFields rfl

theorem EncodesBack.curDesc (x0 : WOp) :
    EncodesBack.Statement (.curDesc x0) := EncodesBack.noFields rfl

theorem EncodesBack.curGet (x0 : WOp) :
    EncodesBack.Statement (.curGet x0) := EncodesBack.noFields rfl

theorem EncodesBack.curTest (x0 : WOp) :
    EncodesBack.Statement (.curTest x0) := EncodesBack.noFields rfl

theorem EncodesBack.curCoit (x0 : WOp) :
    EncodesBack.Statement (.curCoit x0) := EncodesBack.noFields rfl

theorem EncodesBack.appOpen (x0 : WOp) :
    EncodesBack.Statement (.appOpen x0) := EncodesBack.noFields rfl

theorem EncodesBack.appPut (x0 : WOp) :
    EncodesBack.Statement (.appPut x0) := EncodesBack.noFields rfl

theorem EncodesBack.appClose (x0 : WOp) :
    EncodesBack.Statement (.appClose x0) := EncodesBack.noFields rfl

theorem EncodesBack.vld (x0 : WOp) :
    EncodesBack.Statement (.vld x0) := EncodesBack.noFields rfl

theorem EncodesBack.vst (x0 : WOp) :
    EncodesBack.Statement (.vst x0) := EncodesBack.noFields rfl

theorem EncodesBack.vprobe (x0 : WOp) :
    EncodesBack.Statement (.vprobe x0) := EncodesBack.noFields rfl

theorem EncodesBack.fgCfg (x0 : WOp) :
    EncodesBack.Statement (.fgCfg x0) := EncodesBack.noFields rfl

theorem EncodesBack.fgLoad (x0 : WOp) :
    EncodesBack.Statement (.fgLoad x0) := EncodesBack.noFields rfl

theorem EncodesBack.fgSeed (x0 : WOp) :
    EncodesBack.Statement (.fgSeed x0) := EncodesBack.noFields rfl

theorem EncodesBack.fgClamp (x0 : WOp) :
    EncodesBack.Statement (.fgClamp x0) := EncodesBack.noFields rfl

theorem EncodesBack.fgFree (x0 : WOp) :
    EncodesBack.Statement (.fgFree x0) := EncodesBack.noFields rfl

theorem EncodesBack.fgSweep (x0 : WOp) :
    EncodesBack.Statement (.fgSweep x0) := EncodesBack.noFields rfl

theorem EncodesBack.fgRead (x0 : WOp) :
    EncodesBack.Statement (.fgRead x0) := EncodesBack.noFields rfl

theorem EncodesBack.fgCnt (x0 : WOp) :
    EncodesBack.Statement (.fgCnt x0) := EncodesBack.noFields rfl

theorem EncodesBack.filExecCfg (x0 : Nat) :
    EncodesBack.Statement (.filExecCfg x0) := EncodesBack.noFields rfl

theorem EncodesBack.filExecLoad (x0 : Nat) :
    EncodesBack.Statement (.filExecLoad x0) := EncodesBack.noFields rfl

theorem EncodesBack.filExecSeed (x0 : Nat) :
    EncodesBack.Statement (.filExecSeed x0) := EncodesBack.noFields rfl

theorem EncodesBack.filExecClamp (x0 : Nat) :
    EncodesBack.Statement (.filExecClamp x0) := EncodesBack.noFields rfl

theorem EncodesBack.filExecFree (x0 : Nat) :
    EncodesBack.Statement (.filExecFree x0) := EncodesBack.noFields rfl

theorem EncodesBack.filSweepColour (x0 : Nat) :
    EncodesBack.Statement (.filSweepColour x0) := EncodesBack.noFields rfl

theorem EncodesBack.filExecRead (x0 : Nat) :
    EncodesBack.Statement (.filExecRead x0) := EncodesBack.noFields rfl

theorem EncodesBack.filExecCnt (x0 : Nat) :
    EncodesBack.Statement (.filExecCnt x0) := EncodesBack.noFields rfl

theorem EncodesBack.filCompletionPush (x0 : Nat) :
    EncodesBack.Statement (.filCompletionPush x0) := EncodesBack.noFields rfl

theorem EncodesBack.sysrd (x0 : WOp) :
    EncodesBack.Statement (.sysrd x0) := EncodesBack.noFields rfl

theorem EncodesBack.syswr (x0 : WOp) :
    EncodesBack.Statement (.syswr x0) := EncodesBack.noFields rfl

theorem EncodesBack.rtt (x0 : WOp) :
    EncodesBack.Statement (.rtt x0) := EncodesBack.noFields rfl

theorem EncodesBack.rttSkip (x0 : WOp) :
    EncodesBack.Statement (.rttSkip x0) := EncodesBack.noFields rfl

theorem EncodesBack.rttGo (x0 : WOp) :
    EncodesBack.Statement (.rttGo x0) := EncodesBack.noFields rfl

theorem EncodesBack.clbInv (x0 : WOp) :
    EncodesBack.Statement (.clbInv x0) := EncodesBack.noFields rfl

theorem EncodesBack.tlbInvVa (x0 : WOp) :
    EncodesBack.Statement (.tlbInvVa x0) := EncodesBack.noFields rfl

theorem EncodesBack.tlbInvCtx (x0 : WOp) :
    EncodesBack.Statement (.tlbInvCtx x0) := EncodesBack.noFields rfl

theorem EncodesBack.pmap (x0 : WOp) :
    EncodesBack.Statement (.pmap x0) := EncodesBack.noFields rfl

theorem EncodesBack.poolUnitRequest (x0 : Nat) :
    EncodesBack.Statement (.poolUnitRequest x0) := EncodesBack.noFields rfl

theorem EncodesBack.pmapRec (x0 : WOp) :
    EncodesBack.Statement (.pmapRec x0) := EncodesBack.noFields rfl

theorem EncodesBack.wcbEntryTimeout (x0 x1 : Nat) :
    EncodesBack.Statement (.wcbEntryTimeout x0 x1) := EncodesBack.noFields rfl

theorem EncodesBack.l2VictimWriteback (x0 x1 : Nat) :
    EncodesBack.Statement (.l2VictimWriteback x0 x1) := EncodesBack.noFields rfl

theorem EncodesBack.ceAdd (x0 : Ce3) :
    EncodesBack.Statement (.ceAdd x0) := by
  rintro h r ⟨⟩
  simp [Ce3.toRaw, rawC0, decodeRawC, ceArith, ceIf]

theorem EncodesBack.ceAddImm (x0 : CeI) :
    EncodesBack.Statement (.ceAddImm x0) := by
  rintro h r ⟨⟩
  simp [CeI.toRaw, decodeRawC, ceArith, ceIf]

theorem EncodesBack.ceAddExt (x0 : CeX) :
    EncodesBack.Statement (.ceAddExt x0) := by
  rintro h r ⟨⟩
  simp [CeX.toRaw, decodeRawC, ceArith, ceIf]

theorem EncodesBack.ceSub (x0 : Ce3) :
    EncodesBack.Statement (.ceSub x0) := by
  rintro h r ⟨⟩
  simp [Ce3.toRaw, rawC0, decodeRawC, ceArith, ceIf]

theorem EncodesBack.ceSubImm (x0 : CeI) :
    EncodesBack.Statement (.ceSubImm x0) := by
  rintro h r ⟨⟩
  simp [CeI.toRaw, decodeRawC, ceArith, ceIf]

theorem EncodesBack.ceSubExt (x0 : CeX) :
    EncodesBack.Statement (.ceSubExt x0) := by
  rintro h r ⟨⟩
  simp [CeX.toRaw, decodeRawC, ceArith, ceIf]

theorem EncodesBack.ceMul (x0 : Ce3) :
    EncodesBack.Statement (.ceMul x0) := by
  rintro h r ⟨⟩
  simp [Ce3.toRaw, rawC0, decodeRawC, ceArith, ceIf]

theorem EncodesBack.ceMulImm (x0 : CeI) :
    EncodesBack.Statement (.ceMulImm x0) := by
  rintro h r ⟨⟩
  simp [CeI.toRaw, decodeRawC, ceArith, ceIf]

theorem EncodesBack.ceMulExt (x0 : CeX) :
    EncodesBack.Statement (.ceMulExt x0) := by
  rintro h r ⟨⟩
  simp [CeX.toRaw, decodeRawC, ceArith, ceIf]

theorem EncodesBack.ceAnd (x0 : Ce3) :
    EncodesBack.Statement (.ceAnd x0) := by
  rintro h r ⟨⟩
  simp [Ce3.toRaw, rawC0, decodeRawC, ceArith, ceIf]

theorem EncodesBack.ceAndImm (x0 : CeI) :
    EncodesBack.Statement (.ceAndImm x0) := by
  rintro h r ⟨⟩
  simp [CeI.toRaw, decodeRawC, ceArith, ceIf]

theorem EncodesBack.ceAndExt (x0 : CeX) :
    EncodesBack.Statement (.ceAndExt x0) := by
  rintro h r ⟨⟩
  simp [CeX.toRaw, decodeRawC, ceArith, ceIf]

theorem EncodesBack.ceOr (x0 : Ce3) :
    EncodesBack.Statement (.ceOr x0) := by
  rintro h r ⟨⟩
  simp [Ce3.toRaw, rawC0, decodeRawC, ceArith, ceIf]

theorem EncodesBack.ceOrImm (x0 : CeI) :
    EncodesBack.Statement (.ceOrImm x0) := by
  rintro h r ⟨⟩
  simp [CeI.toRaw, decodeRawC, ceArith, ceIf]

theorem EncodesBack.ceOrExt (x0 : CeX) :
    EncodesBack.Statement (.ceOrExt x0) := by
  rintro h r ⟨⟩
  simp [CeX.toRaw, decodeRawC, ceArith, ceIf]

theorem EncodesBack.ceXor (x0 : Ce3) :
    EncodesBack.Statement (.ceXor x0) := by
  rintro h r ⟨⟩
  simp [Ce3.toRaw, rawC0, decodeRawC, ceArith, ceIf]

theorem EncodesBack.ceXorImm (x0 : CeI) :
    EncodesBack.Statement (.ceXorImm x0) := by
  rintro h r ⟨⟩
  simp [CeI.toRaw, decodeRawC, ceArith, ceIf]

theorem EncodesBack.ceXorExt (x0 : CeX) :
    EncodesBack.Statement (.ceXorExt x0) := by
  rintro h r ⟨⟩
  simp [CeX.toRaw, decodeRawC, ceArith, ceIf]

theorem EncodesBack.ceShl (x0 : Ce3) :
    EncodesBack.Statement (.ceShl x0) := by
  rintro h r ⟨⟩
  simp [Ce3.toRaw, rawC0, decodeRawC, ceArith, ceIf]

theorem EncodesBack.ceShlImm (x0 : CeI) :
    EncodesBack.Statement (.ceShlImm x0) := by
  rintro h r ⟨⟩
  simp [CeI.toRaw, decodeRawC, ceArith, ceIf]

theorem EncodesBack.ceShlExt (x0 : CeX) :
    EncodesBack.Statement (.ceShlExt x0) := by
  rintro h r ⟨⟩
  simp [CeX.toRaw, decodeRawC, ceArith, ceIf]

theorem EncodesBack.ceShr (x0 : Ce3) :
    EncodesBack.Statement (.ceShr x0) := by
  rintro h r ⟨⟩
  simp [Ce3.toRaw, rawC0, decodeRawC, ceArith, ceIf]

theorem EncodesBack.ceShrImm (x0 : CeI) :
    EncodesBack.Statement (.ceShrImm x0) := by
  rintro h r ⟨⟩
  simp [CeI.toRaw, decodeRawC, ceArith, ceIf]

theorem EncodesBack.ceShrExt (x0 : CeX) :
    EncodesBack.Statement (.ceShrExt x0) := by
  rintro h r ⟨⟩
  simp [CeX.toRaw, decodeRawC, ceArith, ceIf]

theorem EncodesBack.ceSar (x0 : Ce3) :
    EncodesBack.Statement (.ceSar x0) := by
  rintro h r ⟨⟩
  simp [Ce3.toRaw, rawC0, decodeRawC, ceArith, ceIf]

theorem EncodesBack.ceSarImm (x0 : CeI) :
    EncodesBack.Statement (.ceSarImm x0) := by
  rintro h r ⟨⟩
  simp [CeI.toRaw, decodeRawC, ceArith, ceIf]

theorem EncodesBack.ceSarExt (x0 : CeX) :
    EncodesBack.Statement (.ceSarExt x0) := by
  rintro h r ⟨⟩
  simp [CeX.toRaw, decodeRawC, ceArith, ceIf]

theorem EncodesBack.ceMin (x0 : Ce3) :
    EncodesBack.Statement (.ceMin x0) := by
  rintro h r ⟨⟩
  simp [Ce3.toRaw, rawC0, decodeRawC, ceArith, ceIf]

theorem EncodesBack.ceMinImm (x0 : CeI) :
    EncodesBack.Statement (.ceMinImm x0) := by
  rintro h r ⟨⟩
  simp [CeI.toRaw, decodeRawC, ceArith, ceIf]

theorem EncodesBack.ceMinExt (x0 : CeX) :
    EncodesBack.Statement (.ceMinExt x0) := by
  rintro h r ⟨⟩
  simp [CeX.toRaw, decodeRawC, ceArith, ceIf]

theorem EncodesBack.ceMax (x0 : Ce3) :
    EncodesBack.Statement (.ceMax x0) := by
  rintro h r ⟨⟩
  simp [Ce3.toRaw, rawC0, decodeRawC, ceArith, ceIf]

theorem EncodesBack.ceMaxImm (x0 : CeI) :
    EncodesBack.Statement (.ceMaxImm x0) := by
  rintro h r ⟨⟩
  simp [CeI.toRaw, decodeRawC, ceArith, ceIf]

theorem EncodesBack.ceMaxExt (x0 : CeX) :
    EncodesBack.Statement (.ceMaxExt x0) := by
  rintro h r ⟨⟩
  simp [CeX.toRaw, decodeRawC, ceArith, ceIf]

theorem EncodesBack.li (x0 : BitVec 5) (x1 : BitVec 9) :
    EncodesBack.Statement (.li x0 x1) := by
  rintro h r ⟨⟩
  simp [decodeRawC, ceIf]

theorem EncodesBack.liExt (x0 : BitVec 5) (x1 : BitVec 32) :
    EncodesBack.Statement (.liExt x0 x1) := by
  rintro h r ⟨⟩
  simp [decodeRawC, ceIf]

theorem EncodesBack.lih (x0 : BitVec 5) (x1 : BitVec 32) :
    EncodesBack.Statement (.lih x0 x1) := by
  rintro h r ⟨⟩
  simp [decodeRawC, ceIf]

theorem EncodesBack.getl (x0 : BitVec 5) (x1 : BitVec 2) :
    EncodesBack.Statement (.getl x0 x1) := by
  rintro h r ⟨⟩
  simp [decodeRawC, rawC0, low2of5, ceIf]

theorem EncodesBack.beq (x0 : CeBr) :
    EncodesBack.Statement (.beq x0) := by
  rintro h r ⟨⟩
  simp [CeBr.toRaw, decodeRawC, ceBranch, off14]

theorem EncodesBack.beqImm (x0 : CeBr) :
    EncodesBack.Statement (.beqImm x0) := by
  rintro h r ⟨⟩
  simp [CeBr.toRaw, decodeRawC, ceBranch, off14]

theorem EncodesBack.beqExt (x0 : CeBrX) :
    EncodesBack.Statement (.beqExt x0) := by
  rintro h r ⟨⟩
  simp [CeBrX.toRaw, decodeRawC, ceBranch, ceIf]

theorem EncodesBack.bne (x0 : CeBr) :
    EncodesBack.Statement (.bne x0) := by
  rintro h r ⟨⟩
  simp [CeBr.toRaw, decodeRawC, ceBranch, off14]

theorem EncodesBack.bneImm (x0 : CeBr) :
    EncodesBack.Statement (.bneImm x0) := by
  rintro h r ⟨⟩
  simp [CeBr.toRaw, decodeRawC, ceBranch, off14]

theorem EncodesBack.bneExt (x0 : CeBrX) :
    EncodesBack.Statement (.bneExt x0) := by
  rintro h r ⟨⟩
  simp [CeBrX.toRaw, decodeRawC, ceBranch, ceIf]

theorem EncodesBack.blt (x0 : CeBr) :
    EncodesBack.Statement (.blt x0) := by
  rintro h r ⟨⟩
  simp [CeBr.toRaw, decodeRawC, ceBranch, off14]

theorem EncodesBack.bltImm (x0 : CeBr) :
    EncodesBack.Statement (.bltImm x0) := by
  rintro h r ⟨⟩
  simp [CeBr.toRaw, decodeRawC, ceBranch, off14]

theorem EncodesBack.bltExt (x0 : CeBrX) :
    EncodesBack.Statement (.bltExt x0) := by
  rintro h r ⟨⟩
  simp [CeBrX.toRaw, decodeRawC, ceBranch, ceIf]

theorem EncodesBack.bge (x0 : CeBr) :
    EncodesBack.Statement (.bge x0) := by
  rintro h r ⟨⟩
  simp [CeBr.toRaw, decodeRawC, ceBranch, off14]

theorem EncodesBack.bgeImm (x0 : CeBr) :
    EncodesBack.Statement (.bgeImm x0) := by
  rintro h r ⟨⟩
  simp [CeBr.toRaw, decodeRawC, ceBranch, off14]

theorem EncodesBack.bgeExt (x0 : CeBrX) :
    EncodesBack.Statement (.bgeExt x0) := by
  rintro h r ⟨⟩
  simp [CeBrX.toRaw, decodeRawC, ceBranch, ceIf]

theorem EncodesBack.bltu (x0 : CeBr) :
    EncodesBack.Statement (.bltu x0) := by
  rintro h r ⟨⟩
  simp [CeBr.toRaw, decodeRawC, ceBranch, off14]

theorem EncodesBack.bltuImm (x0 : CeBr) :
    EncodesBack.Statement (.bltuImm x0) := by
  rintro h r ⟨⟩
  simp [CeBr.toRaw, decodeRawC, ceBranch, off14]

theorem EncodesBack.bltuExt (x0 : CeBrX) :
    EncodesBack.Statement (.bltuExt x0) := by
  rintro h r ⟨⟩
  simp [CeBrX.toRaw, decodeRawC, ceBranch, ceIf]

theorem EncodesBack.bgeu (x0 : CeBr) :
    EncodesBack.Statement (.bgeu x0) := by
  rintro h r ⟨⟩
  simp [CeBr.toRaw, decodeRawC, ceBranch, off14]

theorem EncodesBack.bgeuImm (x0 : CeBr) :
    EncodesBack.Statement (.bgeuImm x0) := by
  rintro h r ⟨⟩
  simp [CeBr.toRaw, decodeRawC, ceBranch, off14]

theorem EncodesBack.bgeuExt (x0 : CeBrX) :
    EncodesBack.Statement (.bgeuExt x0) := by
  rintro h r ⟨⟩
  simp [CeBrX.toRaw, decodeRawC, ceBranch, ceIf]

theorem EncodesBack.jmp (x0 : BitVec 14) :
    EncodesBack.Statement (.jmp x0) := by
  rintro h r ⟨⟩
  simp [decodeRawC, rawC0, off14, ceIf]

theorem EncodesBack.jmpExt (x0 : BitVec 32) :
    EncodesBack.Statement (.jmpExt x0) := by
  rintro h r ⟨⟩
  simp [decodeRawC, ceIf]

theorem EncodesBack.loop (x0 : BitVec 2) (x1 : BitVec 5) (x2 : BitVec 9) :
    EncodesBack.Statement (.loop x0 x1 x2) := by
  rintro h r ⟨⟩
  simp [decodeRawC, rawC0, low2of5, ceIf]

theorem EncodesBack.loopImm (x0 : BitVec 2) (x1 : BitVec 32) (x2 : BitVec 9) :
    EncodesBack.Statement (.loopImm x0 x1 x2) := by
  rintro h r ⟨⟩
  simp [decodeRawC, low2of5, ceIf]

theorem EncodesBack.endl (x0 : BitVec 2) (x1 : BitVec 9) :
    EncodesBack.Statement (.endl x0 x1) := by
  rintro h r ⟨⟩
  simp [decodeRawC, rawC0, low2of5, ceIf]

theorem EncodesBack.ld (x0 : CeMem) :
    EncodesBack.Statement (.ld x0) := by
  rintro h r ⟨⟩
  have hz := memImm x0.sp x0.sx x0.z
  obtain ⟨d, a, b, z, sx, sp, x⟩ := x0
  cases b <;> cases x <;> cases sx <;>
    simp_all [Instr.wf, Instr.wave?, CeMem.wf, CeMem.toRaw, RawC.mem, decodeRawC, ceMemory, ceIf]

theorem EncodesBack.ldBase (x0 : CeMem) :
    EncodesBack.Statement (.ldBase x0) := by
  rintro h r ⟨⟩
  have hz := memImm x0.sp x0.sx x0.z
  obtain ⟨d, a, b, z, sx, sp, x⟩ := x0
  cases b <;> cases x <;> cases sx <;>
    simp_all [Instr.wf, Instr.wave?, CeMem.wf, CeMem.toRaw, RawC.mem, decodeRawC, ceMemory, ceIf]

theorem EncodesBack.ldDisp (x0 : CeMem) :
    EncodesBack.Statement (.ldDisp x0) := by
  rintro h r ⟨⟩
  have hz := memImm x0.sp x0.sx x0.z
  obtain ⟨d, a, b, z, sx, sp, x⟩ := x0
  cases b <;> cases x <;> cases sx <;>
    simp_all [Instr.wf, Instr.wave?, CeMem.wf, CeMem.toRaw, RawC.mem, decodeRawC, ceMemory, ceIf]

theorem EncodesBack.st (x0 : CeMem) :
    EncodesBack.Statement (.st x0) := by
  rintro h r ⟨⟩
  have hz := memImm x0.sp x0.sx x0.z
  obtain ⟨d, a, b, z, sx, sp, x⟩ := x0
  cases b <;> cases x <;> cases sx <;>
    simp_all [Instr.wf, Instr.wave?, CeMem.wf, CeMem.toRaw, RawC.mem, decodeRawC, ceMemory, ceIf]

theorem EncodesBack.stBase (x0 : CeMem) :
    EncodesBack.Statement (.stBase x0) := by
  rintro h r ⟨⟩
  have hz := memImm x0.sp x0.sx x0.z
  obtain ⟨d, a, b, z, sx, sp, x⟩ := x0
  cases b <;> cases x <;> cases sx <;>
    simp_all [Instr.wf, Instr.wave?, CeMem.wf, CeMem.toRaw, RawC.mem, decodeRawC, ceMemory, ceIf]

theorem EncodesBack.stDisp (x0 : CeMem) :
    EncodesBack.Statement (.stDisp x0) := by
  rintro h r ⟨⟩
  have hz := memImm x0.sp x0.sx x0.z
  obtain ⟨d, a, b, z, sx, sp, x⟩ := x0
  cases b <;> cases x <;> cases sx <;>
    simp_all [Instr.wf, Instr.wave?, CeMem.wf, CeMem.toRaw, RawC.mem, decodeRawC, ceMemory, ceIf]

theorem EncodesBack.dld (x0 : CeDld) :
    EncodesBack.Statement (.dld x0) := by
  rintro h r ⟨⟩
  have hz := spImm x0.sp
  have hk := low3of5 x0.k
  obtain ⟨k, a, b, sp, x⟩ := x0
  cases b <;> cases x <;>
    simp_all [Instr.wf, Instr.wave?, CeDld.wf, CeDld.toRaw, RawC.dldOp, RawC.immOnly, decodeRawC, ceIf]

theorem EncodesBack.dldBase (x0 : CeDld) :
    EncodesBack.Statement (.dldBase x0) := by
  rintro h r ⟨⟩
  have hz := spImm x0.sp
  have hk := low3of5 x0.k
  obtain ⟨k, a, b, sp, x⟩ := x0
  cases b <;> cases x <;>
    simp_all [Instr.wf, Instr.wave?, CeDld.wf, CeDld.toRaw, RawC.dldOp, RawC.immOnly, decodeRawC, ceIf]

theorem EncodesBack.dldDisp (x0 : CeDld) :
    EncodesBack.Statement (.dldDisp x0) := by
  rintro h r ⟨⟩
  have hz := spImm x0.sp
  have hk := low3of5 x0.k
  obtain ⟨k, a, b, sp, x⟩ := x0
  cases b <;> cases x <;>
    simp_all [Instr.wf, Instr.wave?, CeDld.wf, CeDld.toRaw, RawC.dldOp, RawC.immOnly, decodeRawC, ceIf]

theorem EncodesBack.dset (x0 : BitVec 3) (x1 x2 : BitVec 5) :
    EncodesBack.Statement (.dset x0 x1 x2) := by
  rintro h r ⟨⟩
  simp [decodeRawC, rawC0, low3of5, low5of9, ceIf]

theorem EncodesBack.dsetExt (x0 : BitVec 3) (x1 : BitVec 5) (x2 : BitVec 32) :
    EncodesBack.Statement (.dsetExt x0 x1 x2) := by
  rintro h r ⟨⟩
  simp [decodeRawC, low3of5, low5of9, ceIf]

theorem EncodesBack.addr (x0 x1 : BitVec 5) (x2 : BitVec 3) (x3 : Bool) :
    EncodesBack.Statement (.addr x0 x1 x2 x3) := by
  rintro h r ⟨⟩
  cases x3 <;> simp [decodeRawC, rawC0, low3of5, RawC.immOnly, ceIf, bit1]

theorem EncodesBack.xfer (x0 : BitVec 5) (x1 : Bool) :
    EncodesBack.Statement (.xfer x0 x1) := by
  rintro h r ⟨⟩
  cases x1 <;> simp [decodeRawC, rawC0, RawC.immOnly, ceIf, bit1]

theorem EncodesBack.xferSector (x0 x1 x2 : Nat) :
    EncodesBack.Statement (.xferSector x0 x1 x2) := EncodesBack.noFields rfl

theorem EncodesBack.gsub (x0 : BitVec 5) (x1 : Bool) :
    EncodesBack.Statement (.gsub x0 x1) := by
  rintro h r ⟨⟩
  cases x1 <;> simp [decodeRawC, rawC0, RawC.immOnly, ceIf, bit1]

theorem EncodesBack.waitx (x0 : Ce3) :
    EncodesBack.Statement (.waitx x0) := by
  rintro h r ⟨⟩
  simp [decodeRawC, Ce3.toRaw, rawC0, RawC.immOnly, ceIf]

theorem EncodesBack.waitxCur (x0 x1 : BitVec 5) :
    EncodesBack.Statement (.waitxCur x0 x1) := by
  rintro h r ⟨⟩
  simp [decodeRawC, rawC0, RawC.immOnly, ceIf]

theorem EncodesBack.arrive (x0 x1 : BitVec 5) :
    EncodesBack.Statement (.arrive x0 x1) := by
  rintro h r ⟨⟩
  simp [decodeRawC, rawC0, RawC.immOnly, ceIf]

theorem EncodesBack.arriveN (x0 : Ce3) :
    EncodesBack.Statement (.arriveN x0) := by
  rintro h r ⟨⟩
  simp [decodeRawC, rawC0, RawC.immOnly, ceIf]

theorem EncodesBack.sig (x0 x1 : BitVec 5) :
    EncodesBack.Statement (.sig x0 x1) := by
  rintro h r ⟨⟩
  simp [decodeRawC, rawC0, ceIf]

theorem EncodesBack.ceFence :
    EncodesBack.Statement (.ceFence) := by
  rintro h r ⟨⟩
  simp [decodeRawC, rawC0, ceIf]

theorem EncodesBack.halt :
    EncodesBack.Statement (.halt) := by
  rintro h r ⟨⟩
  simp [decodeRawC, rawC0, ceIf]

theorem EncodesBack.nop :
    EncodesBack.Statement (.nop) := by
  rintro h r ⟨⟩
  simp [decodeRawC, rawC0, ceIf]

theorem EncodesBack.ceIllegal (x0 : CeCause) (x1 x2 : BitVec 32) (x3 : Nat) :
    EncodesBack.Statement (.ceIllegal x0 x1 x2 x3) := EncodesBack.noFields rfl

theorem EncodesBack.queueDoorbell (x0 x1 : Nat) :
    EncodesBack.Statement (.queueDoorbell x0 x1) := EncodesBack.noFields rfl

theorem EncodesBack.queueLineTaken (x0 x1 : Nat) (x2 : List Byte) :
    EncodesBack.Statement (.queueLineTaken x0 x1 x2) := EncodesBack.noFields rfl

theorem EncodesBack.bindWrite (x0 x1 : Nat) (x2 : BitVec 64) :
    EncodesBack.Statement (.bindWrite x0 x1 x2) := EncodesBack.noFields rfl

theorem EncodesBack.bindClearEffect (x0 x1 : Nat) :
    EncodesBack.Statement (.bindClearEffect x0 x1) := EncodesBack.noFields rfl

theorem EncodesBack.frontEndReadLaunch (x0 : Nat) :
    EncodesBack.Statement (.frontEndReadLaunch x0) := EncodesBack.noFields rfl

theorem EncodesBack.frontEndReadCancel (x0 : Nat) :
    EncodesBack.Statement (.frontEndReadCancel x0) := EncodesBack.noFields rfl

theorem EncodesBack.frontEndReadReplace (x0 : Nat) :
    EncodesBack.Statement (.frontEndReadReplace x0) := EncodesBack.noFields rfl

theorem EncodesBack.frontEndReadCopy (x0 : Nat) :
    EncodesBack.Statement (.frontEndReadCopy x0) := EncodesBack.noFields rfl

theorem EncodesBack.claspAdmit (x0 : Nat) :
    EncodesBack.Statement (.claspAdmit x0) := EncodesBack.noFields rfl

theorem EncodesBack.gangPlace (x0 : Nat) :
    EncodesBack.Statement (.gangPlace x0) := EncodesBack.noFields rfl

theorem EncodesBack.gangPreempt (x0 : Nat) :
    EncodesBack.Statement (.gangPreempt x0) := EncodesBack.noFields rfl

theorem EncodesBack.gangRestore (x0 : Nat) :
    EncodesBack.Statement (.gangRestore x0) := EncodesBack.noFields rfl

theorem EncodesBack.gangRetire (x0 : Nat) :
    EncodesBack.Statement (.gangRetire x0) := EncodesBack.noFields rfl

theorem EncodesBack.cancelTakeEffect (x0 : Nat) :
    EncodesBack.Statement (.cancelTakeEffect x0) := EncodesBack.noFields rfl

theorem EncodesBack.ctxCreate (x0 : BitVec 64) :
    EncodesBack.Statement (.ctxCreate x0) := EncodesBack.noFields rfl

theorem EncodesBack.ctxDestroy (x0 : BitVec 64) :
    EncodesBack.Statement (.ctxDestroy x0) := EncodesBack.noFields rfl

theorem EncodesBack.pmodeWrite (x0 : BitVec 64) :
    EncodesBack.Statement (.pmodeWrite x0) := EncodesBack.noFields rfl

theorem EncodesBack.pmodeChangeComplete :
    EncodesBack.Statement (.pmodeChangeComplete) := EncodesBack.noFields rfl

theorem EncodesBack.fgGrantWrite (x0 : Nat) (x1 : BitVec 64) :
    EncodesBack.Statement (.fgGrantWrite x0 x1) := EncodesBack.noFields rfl

theorem EncodesBack.fgGrantEffect (x0 : Nat) :
    EncodesBack.Statement (.fgGrantEffect x0) := EncodesBack.noFields rfl

theorem EncodesBack.hostTlbInvVa (x0 : Nat) :
    EncodesBack.Statement (.hostTlbInvVa x0) := EncodesBack.noFields rfl

theorem EncodesBack.hostTlbInvCtx (x0 : Nat) :
    EncodesBack.Statement (.hostTlbInvCtx x0) := EncodesBack.noFields rfl

theorem EncodesBack.engcmdResume (x0 : Nat) (x1 : BitVec 32) :
    EncodesBack.Statement (.engcmdResume x0 x1) := EncodesBack.noFields rfl

theorem EncodesBack.engcmdSkip (x0 : Nat) (x1 : BitVec 32) :
    EncodesBack.Statement (.engcmdSkip x0 x1) := EncodesBack.noFields rfl

theorem EncodesBack.engcmdDiscard (x0 : Nat) (x1 : BitVec 32) :
    EncodesBack.Statement (.engcmdDiscard x0 x1) := EncodesBack.noFields rfl

theorem EncodesBack.dbgHoldWrite (x0 : Nat) (x1 : BitVec 64) :
    EncodesBack.Statement (.dbgHoldWrite x0 x1) := EncodesBack.noFields rfl

theorem EncodesBack.watchdogExpiry (x0 : Nat) :
    EncodesBack.Statement (.watchdogExpiry x0) := EncodesBack.noFields rfl

theorem EncodesBack.eventRecordWrite (x0 : Nat) :
    EncodesBack.Statement (.eventRecordWrite x0) := EncodesBack.noFields rfl

theorem EncodesBack.dieLost (x0 : Nat) :
    EncodesBack.Statement (.dieLost x0) := EncodesBack.noFields rfl

theorem EncodesBack.hostBar2Read (x0 : Bar2) :
    EncodesBack.Statement (.hostBar2Read x0) := EncodesBack.noFields rfl

theorem EncodesBack.hostBar2Write (x0 : Bar2) :
    EncodesBack.Statement (.hostBar2Write x0) := EncodesBack.noFields rfl

theorem EncodesBack.peerRdmaRead (x0 : Rdma) :
    EncodesBack.Statement (.peerRdmaRead x0) := EncodesBack.noFields rfl

theorem EncodesBack.peerRdmaWrite (x0 : Rdma) :
    EncodesBack.Statement (.peerRdmaWrite x0) := EncodesBack.noFields rfl

theorem EncodesBack.peerRdmaAtomic (x0 : Rdma) :
    EncodesBack.Statement (.peerRdmaAtomic x0) := EncodesBack.noFields rfl

theorem EncodesBack.functionReady (x0 : Nat) (x1 : BitVec 64) :
    EncodesBack.Statement (.functionReady x0 x1) := EncodesBack.noFields rfl

theorem EncodesBack.islandWrite (x0 : Nat) (x1 : BitVec 64) :
    EncodesBack.Statement (.islandWrite x0 x1) := EncodesBack.noFields rfl

theorem EncodesBack.islandTransitionComplete (x0 : Nat) :
    EncodesBack.Statement (.islandTransitionComplete x0) := EncodesBack.noFields rfl

theorem EncodesBack.facetIdleGate (x0 : Nat) :
    EncodesBack.Statement (.facetIdleGate x0) := EncodesBack.noFields rfl

theorem EncodesBack.facetWakeComplete (x0 : Nat) :
    EncodesBack.Statement (.facetWakeComplete x0) := EncodesBack.noFields rfl

theorem EncodesBack.chainTokenPass (x0 : Nat) :
    EncodesBack.Statement (.chainTokenPass x0) := EncodesBack.noFields rfl

theorem EncodesBack.sgLoadFirmware :
    EncodesBack.Statement (.sgLoadFirmware) := EncodesBack.noFields rfl

theorem EncodesBack.sgReadCertificates :
    EncodesBack.Statement (.sgReadCertificates) := EncodesBack.noFields rfl

theorem EncodesBack.sgAttest :
    EncodesBack.Statement (.sgAttest) := EncodesBack.noFields rfl

theorem EncodesBack.pkgrst (x0 : BitVec 64) :
    EncodesBack.Statement (.pkgrst x0) := EncodesBack.noFields rfl

theorem EncodesBack.registerWrite (x0 : RegWrite) :
    EncodesBack.Statement (.registerWrite x0) := EncodesBack.noFields rfl

theorem EncodesBack.uncorrectableSoftError (x0 : Nat) :
    EncodesBack.Statement (.uncorrectableSoftError x0) := EncodesBack.noFields rfl

end Sys2Proof.Laws
end

