-- ==== Sys2Proof/Tests/Slice0.lean ====
section
/-! SUPPORT. Tests: ill-formed terms that the checks refuse, words of the spec's encodings, one step of some
instructions against results worked out by hand from the spec, and for every statement with hypotheses a
state and operands that meet them, clause by clause (`wit_…`). -/

set_option Elab.async false
set_option exponentiation.threshold 512

namespace Sys2Proof.Tests

open Sys2Proof Sys2Proof.Machine Sys2Proof.Claims

/-! ## A small state -/

/-- A vector instruction of INT32: D = 1, A = 2, B = 3, C = 4, unguarded. -/
def tO : WOp := ⟨false, false, .always, 0, 1, 2, 3, 4, 0, none⟩
/-- The same in group-wide form. -/
def tG : WOp := { tO with grp := true }
/-- A wave of 64 lanes at user privilege, in its trap handler, and in its lane handler. -/
def tW : Wave := placedWave 0 false false
def tTrapW : Wave := placedWave 0 true true
def tLaneW : Wave := placedWave 0 true false
/-- A state with a wave at its issue slot, on core 0. -/
def tWith (w : Wave) : State := { State.reset with
  cur := some 0, waves := [(0, w)], gangs := [(0, placedGang)], ctxs := [(1, placedCtx)],
  entries := [placedEntry] }
def tS : State := tWith tW

theorem at_tWith (w : Wave) : At (tWith w) 0 w := ⟨rfl, rfl⟩
theorem at_tS : At tS 0 tW := ⟨rfl, rfl⟩

/-- A wave with lanes of P1 true, and one with a stack. -/
def tP (m : W64) : Wave := { tW with regs := { tW.regs with p := [(1, m)] } }
def tStk (m : W64) (st : List StackEnt) : Wave := { tP m with stack := st }
/-- A wave of two active lanes. -/
def tTwo : Wave := { tW with exm := 3 }
/-- Guarded by P1, and by GP0 false. -/
def tOP : WOp := { tO with guard := .p 1 false }
def tGN : WOp := { tG with guard := .gp 0 false }
/-- A stack of 32 JOIN entries. -/
def tFull : List StackEnt := List.replicate 32 ⟨1, 0, 0⟩
/-! ## Witnesses: computing instructions -/

theorem wit_IntegerArithmetic : At tS 0 tW ∧ tO.ty ≤ 7 ∧ tO.m.getLsbD 5 = false ∧ Instr.iadd ∈ intOps :=
  ⟨at_tS, by decide, by decide, .head _⟩

theorem wit_IntegerArithmetic_packed :
    let o := { tG with m := 7 }
    At tS 0 tW ∧ o.ty = 7 ∧ o.m.getLsbD 5 = false := ⟨at_tS, by decide, by decide⟩

theorem wit_LogicBits : At tS 0 tW ∧ ({ tO with m := 3 } : WOp).ty ≤ 3 ∧ Instr.and ∈ logicOps :=
  ⟨at_tS, by decide, .head _⟩

theorem wit_ShiftAndFieldBits : At tS 0 tW ∧ ({ tO with m := 3 } : WOp).ty ≤ 3 ∧ Instr.shl ∈ shiftOps :=
  ⟨at_tS, by decide, .head _⟩

theorem wit_CountsAndMoves : At tS 0 tW ∧ tO.ty ≤ 3 ∧ ({ tO with m := 9, ext := some 1 } : WOp).ext.isSome = true :=
  ⟨at_tS, by decide, rfl⟩

theorem wit_Products_high : At tS 0 tW ∧ ({ tO with m := 0x20 } : WOp).ty ≤ 3
    ∧ ({ tO with m := 0x20 } : WOp).m.getLsbD 5 = true := ⟨at_tS, by decide, by decide⟩
theorem wit_Products_wide : At tS 0 tW ∧ ({ tO with m := 0x41 } : WOp).ty ≤ 1
    ∧ ({ tO with m := 0x41 } : WOp).m.getLsbD 6 = true := ⟨at_tS, by decide, by decide⟩
theorem wit_Products_dot : At tS 0 tW ∧ 4 ≤ ({ tO with m := 7 } : WOp).ty ∧ ({ tO with m := 7 } : WOp).ty ≤ 7 :=
  ⟨at_tS, by decide, by decide⟩

theorem wit_Predicates : At tS 0 tW ∧ predDst tO ∧ predDst { tG with d := 79 } ∧ noneEnabled tW :=
  ⟨at_tS, by unfold predDst; decide, by unfold predDst; decide, by unfold noneEnabled; decide⟩

/-- 2 < 3 under `lt`; V2 of lane 0 holds a signalling NaN under `eq`, the exception of an invalid operation
enabled. -/
theorem wit_Predicates_rel : intRel 2 2 3 ∧ ¬ intRel 2 3 2 := by unfold intRel; decide
theorem wit_Predicates_trap :
    let o := { tO with m := 8 }
    let w : Wave := { tW with exm := 1, regs := { tW.regs with v := [(128, 0x7F800001)], mode := 0x100 } }
    At (tWith w) 0 w ∧ w.regs.mode.getLsbD 8 = true ∧ o.fn.toNat % 16 ≤ 13
      ∧ ∃ c ∈ w.cells o, fcmpIv (o.fn.toNat % 16) (flOpnd o w (w.opA o c) 0) (flOpnd o w (w.opB o c) 0) :=
  ⟨at_tWith _, by decide, by decide, .lane 0, by decide, .inl (by decide)⟩
/-- 1 < 2 as floats. -/
theorem wit_Predicates_float : floatRel 2 (.fin false 1 0) (.fin false 2 0) := by
  right; right; left
  exact ⟨rfl, by norm_num [fltLess, flQ]⟩

theorem wit_FloatResults :
    let o := { tO with m := 8 }
    At tS 0 tW ∧ noneEnabled tW ∧ 8 ≤ o.ty ∧ o.ty ≤ 11 ∧ modeLegMm tW.regs.mode = false :=
  ⟨at_tS, by unfold noneEnabled; decide, by decide, by decide, by decide⟩

/-- V2 of lane 0 holds the NaN 0x7FC12345. -/
theorem wit_FloatResults_nan :
    nanAt { tO with m := 8 } (({ tW with regs := { tW.regs with v := [(128, 0x7FC12345)] } } : Wave).opA
      { tO with m := 8 } (.lane 0)) 0 ∧ ¬ nanAt { tO with m := 8 } (tW.opB { tO with m := 8 } (.lane 0)) 0 := by
  unfold nanAt; decide

/-- 1 + 1 = 2, the code 0x40000000; the square root of 4 is 2. -/
theorem wit_FloatResults_exact :
    let o := { tO with m := 8 }
    let w : Wave := { tW with exm := 1, regs := { tW.regs with v := [(128, 0x3F800000), (192, 0x3F800000)] } }
    noneEnabled w ∧ Machine.Cell.lane 0 ∈ w.cells o ∧ modeLegFma w.regs.mode = false
      ∧ floatFinite (.fadd o) (flOpnd o w (w.opA o (.lane 0)) 0) (flOpnd o w (w.opB o (.lane 0)) 0) (.nan false)
      ∧ flQ (decFl (tyFmt o.ty) 0x40000000)
        = floatExact (.fadd o) (flQ (flOpnd o w (w.opA o (.lane 0)) 0)) (flQ (flOpnd o w (w.opB o (.lane 0)) 0)) 0
      ∧ isSubnormal (tyFmt o.ty) 0x40000000 = false := by
  have h1 : flOpnd { tO with m := 8 } { tW with
      exm := 1, regs := { tW.regs with v := [(128, 0x3F800000), (192, 0x3F800000)] } }
      (({ tW with exm := 1, regs := { tW.regs with v := [(128, 0x3F800000), (192, 0x3F800000)] } } : Wave).opA
        { tO with m := 8 } (.lane 0)) 0 = .fin false 8388608 (-23) := by decide
  have h2 : flOpnd { tO with m := 8 } { tW with
      exm := 1, regs := { tW.regs with v := [(128, 0x3F800000), (192, 0x3F800000)] } }
      (({ tW with exm := 1, regs := { tW.regs with v := [(128, 0x3F800000), (192, 0x3F800000)] } } : Wave).opB
        { tO with m := 8 } (.lane 0)) 0 = .fin false 8388608 (-23) := by decide
  have h3 : decFl (tyFmt ({ tO with m := 8 } : WOp).ty) 0x40000000 = .fin false 8388608 (-22) := by decide
  refine ⟨by unfold noneEnabled; decide, by decide, by decide, ?_, ?_, by decide⟩
  · rw [h1, h2]; exact ⟨trivial, trivial⟩
  · rw [h1, h2, h3]; norm_num [flQ, floatExact]
theorem wit_FloatResults_root : isFin (.fin false 8388608 (-21)) ∧ 0 < flQ (.fin false 8388608 (-22))
    ∧ flQ (.fin false 8388608 (-22)) * flQ (.fin false 8388608 (-22)) = flQ (.fin false 8388608 (-21)) := by
  refine ⟨trivial, ?_, ?_⟩ <;> norm_num [flQ]

/-- Lane 0 divides 1 by 0, DZ enabled. -/
theorem wit_FloatSignAndDivision :
    let o := { tO with m := 8 }
    let w : Wave := { tW with regs := { tW.regs with v := [(128, 0x3F800000)], mode := 0x200 } }
    At (tWith w) 0 w ∧ 8 ≤ o.ty ∧ o.ty ≤ 11 ∧ Machine.Cell.lane 0 ∈ w.cells o ∧ 0 < tyCount o.ty
      ∧ w.regs.mode.getLsbD 9 = true
      ∧ (∃ n m x, m ≠ 0 ∧ flElem o.ty (modeDaz w.regs.mode) (w.opA o (.lane 0)) 0 = .fin n m x)
      ∧ (flElem o.ty (modeDaz w.regs.mode) (w.opB o (.lane 0)) 0).isZero = true :=
  ⟨at_tWith _, by decide, by decide, by decide, by decide, by decide,
    ⟨false, 8388608, -23, by decide, by decide⟩, by decide⟩
/-! ## Witnesses: control, lanes, the registers of a wave -/

theorem wit_GuardSkips : At tS 0 tW ∧ tW.guardGrp tGN.guard = false ∧ Instr.call ∈ groupOps :=
  ⟨at_tS, by decide, .head _⟩

theorem wit_Branches_whole : At tS 0 tW ∧ wholeGuard tG ∧ tW.guardGrp tG.guard = true :=
  ⟨at_tS, (by intro n neg h; cases h), by decide⟩
theorem wit_Branches_skip : At tS 0 tW ∧ wholeGuard tGN ∧ tW.guardGrp tGN.guard = false :=
  ⟨at_tS, (by intro n neg h; cases h), by decide⟩
theorem wit_Branches_none : At (tWith (tP 0)) 0 (tP 0) ∧ takenLanes (tP 0) tOP = 0 :=
  ⟨at_tWith _, by decide⟩
theorem wit_Branches_all : At (tWith (tP (BitVec.allOnes 64))) 0 (tP (BitVec.allOnes 64))
    ∧ takenLanes (tP (BitVec.allOnes 64)) tOP = (tP (BitVec.allOnes 64)).exm
    ∧ (tP (BitVec.allOnes 64)).exm ≠ 0 := ⟨at_tWith _, by decide, by decide⟩
theorem wit_Branches_diverge : takenLanes (tP 1) tOP ≠ 0 ∧ takenLanes (tP 1) tOP ≠ (tP 1).exm
    ∧ (tP 1).stack.length < 32 := by decide
theorem wit_Branches_full : takenLanes (tStk 1 tFull) tOP ≠ 0 ∧ takenLanes (tStk 1 tFull) tOP ≠ (tStk 1 tFull).exm
    ∧ 32 ≤ (tStk 1 tFull).stack.length := by decide
theorem wit_Branches_aligned : (tW.greg 2).toNat % 8 = 0 := by decide
theorem wit_Branches_unaligned :
    let w : Wave := { tW with regs := { tW.regs with g := [(2, 4)] } }
    At (tWith w) 0 w ∧ wholeGuard tG ∧ w.guardGrp tG.guard = true ∧ (w.greg tG.a.toNat).toNat % 8 ≠ 0 :=
  ⟨at_tWith _, (by intro n neg h; cases h), by decide, by decide⟩

theorem wit_CallsAndMasks : At tS 0 tW ∧ tW.guardGrp tG.guard = true ∧ (tW.greg tG.a.toNat).toNat % 8 = 0
    ∧ tG.ext = none ∧ ({ tG with ext := some 5 } : WOp).ext = some 5 :=
  ⟨at_tS, by decide, by decide, rfl, rfl⟩

theorem wit_Convergence : At tS 0 tW ∧ tW.guardGrp tG.guard = true ∧ tW.stack.length < 32 ∧ tW.stack = [] :=
  ⟨at_tS, by decide, by decide, rfl⟩
theorem wit_Convergence_full : 32 ≤ (tStk 0 tFull).stack.length := by decide
theorem wit_Convergence_path : ∃ e t, (tStk 0 [⟨3, 64, 1⟩]).stack = e :: t ∧ e.kind = 1 := ⟨_, _, rfl, rfl⟩
theorem wit_Convergence_join : ∃ e t, (tStk 0 [⟨3, 64, 0⟩]).stack = e :: t ∧ e.kind = 0 := ⟨_, _, rfl, rfl⟩
theorem wit_Convergence_rjoin : ∃ e t, (tStk 0 [⟨3, 64, 2⟩]).stack = e :: t ∧ e.kind ≠ 0 ∧ e.kind ≠ 1 :=
  ⟨_, _, rfl, by decide, by decide⟩

/-- Lane 0 of two lanes ends; then lane 0 of one; then the last. -/
theorem wit_Ends_some :
    let e := maskOf ((tP 1).active tOP.guard)
    (tP 1).live &&& ~~~e ≠ 0 ∧ (tP 1).exm &&& ~~~e ≠ 0 := by decide
theorem wit_Ends_pop : let w : Wave := { tStk 1 [⟨6, 64, 1⟩] with exm := 1, live := 7 }
    let e := maskOf (w.active tOP.guard)
    w.live &&& ~~~e ≠ 0 ∧ w.exm &&& ~~~e = 0 ∧ w.stack ≠ [] := by decide
theorem wit_Ends_all : maskOf (tW.active tG.guard) = tW.live ∧ tS.relBusy 0 = false := by decide

theorem wit_Traps : At tS 0 tW ∧ tW.guardGrp tG.guard = true ∧ tW.wait = none ∧ tW.sys.inTrap = false
    ∧ tS.gangs.find tW.gang = some placedGang ∧ tS.ctxs.find placedGang.ctx = some placedCtx
    ∧ placedCtx.tlen ≠ 0 := ⟨at_tS, by decide, rfl, rfl, rfl, rfl, by decide⟩
theorem wit_Traps_fails : At (tWith tTrapW) 0 tTrapW ∧ tTrapW.sys.inTrap = true := ⟨at_tWith _, rfl⟩
theorem wit_Traps_noHandler :
    let s : State := { tS with ctxs := [(1, { placedCtx with tlen := 0 })] }
    At s 0 tW ∧ s.gangs.find tW.gang = some placedGang
      ∧ s.ctxs.find placedGang.ctx = some { placedCtx with tlen := 0 } := ⟨⟨rfl, rfl⟩, rfl, rfl⟩

theorem wit_LaneMoves : At tS 0 tW ∧ tW.guardGrp tG.guard = true ∧ (tW.active tG.guard).head? = some 0 :=
  ⟨at_tS, by decide, by decide⟩
theorem wit_LaneMoves_none : (tP 0).active tOP.guard = [] := by decide

theorem wit_PollsAndReductions : At tS 0 tW ∧ tW.guardGrp tG.guard = true ∧ tG.fn = 0 ∧ tG.ty ≤ 3
    ∧ noneEnabled tW ∧ (false = true ↔ ∀ l ∈ tW.active tG.guard, tW.predAt tG.a.toNat l = true) :=
  ⟨at_tS, by decide, rfl, by decide, by unfold noneEnabled; decide, by decide⟩
theorem wit_PollsAndReductions_any :
    (true = true ↔ ∃ l ∈ (tP 4).active tG.guard, (tP 4).predAt 1 l = true) := by decide
theorem wit_PollsAndReductions_ballot :
    ∀ l < 64, (4#64).getLsbD l = (decide (l ∈ (tP 4).active tG.guard) && (tP 4).predAt 1 l) := by decide
theorem wit_PollsAndReductions_same : (true = true ↔ ∀ l ∈ tTwo.active tG.guard, ∀ l' ∈ tTwo.active tG.guard,
    tTwo.predAt 1 l = tTwo.predAt 1 l') := by decide
theorem wit_PollsAndReductions_alike : (true = true ↔ ∀ l ∈ tTwo.active tG.guard, ∀ l' ∈ tTwo.active tG.guard,
    tTwo.laneA tG l = tTwo.laneA tG l') := by decide

/-- A matrix instruction of wave 0 still in the order of core 0. -/
def tMat : State := { tS with cores := [(0, { Core.init with matq := [⟨0, 0, .mz tG, 0, 0, 0, 0⟩], claim := some 0 })] }

theorem wit_ModeFlagsIdentity : At tS 0 tW ∧ tW.guardGrp tG.guard = true ∧ tG.ext = none
    ∧ tS.matBusy 0 = false ∧ tMat.matBusy 0 = true ∧ tS.gangs.find tW.gang = some placedGang :=
  ⟨at_tS, by decide, rfl, by decide, by decide, rfl⟩
/-! ## Witnesses: memory, queues, barriers -/

/-- Two active lanes access scratch at V3 + 0, 4 bytes each. -/
def tM : WOp := { tO with c := 0, m := 2 }

theorem wit_LaneAccesses : ∀ x ∈ laneOps, At (tWith tTwo) 0 tTwo
    ∧ noWaits tM (tWith tTwo) 0 tTwo (x.sync tM) x.wr x.sp
    ∧ (x.con tM = .redgRedir tM → (tWith tTwo).matBusy 0 = false ∧ (tWith tTwo).redirHeld tTwo tM = none) := by
  intro x _
  refine ⟨at_tWith _, ⟨fun _ => by decide, by decide, fun _ => by decide, fun _ => by decide, ?_⟩, fun _ => by decide⟩
  cases x.wr <;> cases x.sp <;> decide
theorem wit_LaneAccesses_noFault : (lanesRun (ldsLane tM) tM (tWith tTwo) 0 tTwo true).faults = [] := by decide
/-- VA 0 has no page; in the lane handler the first lane's fault is LANE.DOUBLE. -/
theorem wit_LaneAccesses_double :
    let w : Wave := { tLaneW with exm := 1 }
    w.sys.sup = true ∧ (lanesRun (ldgLane tM) tM (tWith w) 0 w false).faults ≠ [] := by decide

theorem wit_Scratch : At (tWith tTwo) 0 tTwo ∧ inGang (tWith tTwo) tTwo placedGang
    ∧ (∀ l ∈ tTwo.active tM.guard, inScratch placedGang tTwo tM (tM.ord != 0) l) :=
  ⟨at_tWith _, rfl, by unfold inScratch; decide⟩
theorem wit_Scratch_hits : hits tTwo tM 1 3 ∧ ∀ m ∈ tTwo.active tM.guard, 1 < m → ¬ hits tTwo tM m 3 := by
  unfold hits; decide
theorem wit_Scratch_atomic :
    let w : Wave := { tW with exm := 4 }
    At (tWith w) 0 w ∧ inGang (tWith w) w placedGang ∧ w.active tM.guard = [2] ∧ inScratch placedGang w tM true 2
      ∧ noWaits tM (tWith w) 0 w true true true ∧ tM.fn.toNat ≤ 9 ∧ tM.ord = 0
      ∧ (w.atomOps tM 2).1 < 2 ^ (8 * tM.sz) :=
  ⟨at_tWith _, rfl, by decide, by unfold inScratch; decide, by unfold noWaits; decide, by decide, by decide,
    by decide⟩

theorem wit_WriteThenRead : 15 % 16 + [(7 : Byte)].length ≤ 16 := by decide

theorem wit_ConstantsAndPrefetch : At tS 0 tW ∧ inGang tS tW placedGang
    ∧ tS.entry? placedGang.ctx placedGang.launch = some placedEntry := ⟨at_tS, rfl, rfl⟩

theorem wit_FencesAndCaches : At tS 0 tW ∧ tW.guardGrp tG.guard = true ∧ tS.relBusy 0 = false
    ∧ tMat.relBusy 0 = true ∧ (tS.core 0).fused = none := ⟨at_tS, by decide, by decide, by decide, by decide⟩

/-- A write-combining entry of cycle 0 at cycle 1,024; a victim sector of line 2; an update of wave 0. -/
def tSec : Sector := ⟨0, 1, 1, 15, 0⟩
def tRedg : Redg := ⟨0, 0, 0, 1, 15, 0x1000, 4, 2, 1, 1, false, 1, none⟩
def tHeld : State := { tS with
  cores := [(0, { Core.init with cycle := 1024, wcb := [(5, tSec)] })]
  dies := [(0, { Die.init with victim := [(16, tSec)] })]
  redgs := [tRedg] }

theorem wit_FencesAndCaches_moves : (tHeld.core 0).wcb.find 5 = some tSec ∧ tSec.since + 1024 ≤ (tHeld.core 0).cycle
    ∧ (∃ p : Nat × Sector, p ∈ (tHeld.die 0).victim ∧ p.1 / 8 = 2) ∧ tHeld.redgs[0]? = some tRedg
    ∧ (∀ x ∈ tHeld.redgs.take 0, x.wave ≠ tRedg.wave)
    ∧ tHeld.islandOn (240 * coreDie 0 + 6 * corePhys 0 + 5) = true
    ∧ tHeld.paOn ⟨0, tSec.dev, coreDie 0, some 0, none⟩ (5 * 16) = true
    ∧ (∀ p : Nat × Sector, p ∈ (tHeld.die 0).victim → p.1 / 8 = 2 → tHeld.paOn ⟨0, p.2.dev, 0, none, none⟩ (2 * 128) = true) :=
  ⟨by decide, by decide, ⟨(16, tSec), by decide, by decide⟩, by decide, by decide, by decide, by decide, by decide⟩

theorem wit_WriteThenRead_memory : 0 % 16 + 16 ≤ 16 ∧ tS.paKind (0x40000000 / 16 * 16) = .hbm [0, 1, 2, 3]
    ∧ uncached tS ⟨1, 15, 0, some 0, none⟩ 0 (0x40000000 / 16) :=
  ⟨by decide, by decide, by unfold uncached; decide⟩

theorem wit_ConstantsAndPrefetch_on : (tWith tTwo).accBusy 0 tTwo (tTwo.constSpans tM placedEntry) = false := by decide

/-- The placed page at VA 0x10000; lane 0 alone accesses 4 bytes there. -/
def tMap (w : Wave) : State := (tWith w).placeCode []
def tOneW : Wave := { tW with exm := 1, regs := { tW.regs with g := [(2, 0x10000)] } }
def tPage : PageEnt := ⟨1, 1, 16385, true, true, true, 3, 1, false, false, true, 13⟩
def tPiece : Piece := ⟨0x40010000, 4, ⟨3, 1, false, false⟩, tPage⟩
def tChk (need : Need) (kind : Nat) (sync : Bool) (host : Piece → Bool) (fn : Nat) : LaneChk :=
  (tMap tOneW).laneChk ((tMap tOneW).waveObs 0 tOneW) none need kind sync 0x10000 4 host fn

theorem oneLane (need : Need) (kind : Nat) (sync : Bool) (host : Piece → Bool) (fn : Nat)
    (h : (tChk need kind sync host fn).res = .ok [tPiece])
    (hm : ((tChk need kind sync host fn).s.paKind 0x40010000).isMem = true) :
    OneLane (tMap tOneW) 0 tOneW tM 0 need kind sync host fn (tChk need kind sync host fn).s
      (tChk need kind sync host fn).page tPiece where
  lanes := by decide
  chk := by
    show tChk need kind sync host fn = _
    rw [← h]
  mem := hm
  size := rfl
  within := by decide

theorem at_tMap (w : Wave) : At (tMap w) 0 w := ⟨rfl, rfl⟩
theorem wit_GlobalValues_load : At (tMap tOneW) 0 tOneW ∧ tM.ord = 0
    ∧ noWaits tM (tMap tOneW) 0 tOneW false false false ∧ ∃ s1 page p,
      OneLane (tMap tOneW) 0 tOneW tM 0 .read 0 false noHost 0 s1 page p :=
  ⟨at_tMap _, by decide, ⟨by decide, by decide, fun _ => by decide +kernel, by decide, by decide +kernel⟩,
    _, _, _, oneLane .read 0 false noHost 0 (by decide +kernel) (by decide +kernel)⟩
theorem wit_GlobalValues_store : noWaits tM (tMap tOneW) 0 tOneW false true false ∧ (∃ s1 page p,
      OneLane (tMap tOneW) 0 tOneW tM 0 .write 1 false noHost 0 s1 page p
        ∧ s1.direct (s1.waveObs 0 tOneW) p.leaf (p.pa / 16 * 16) = false ∧ (s1.core 0).wcb.length < 32) :=
  ⟨⟨by decide, by decide, fun _ => by decide +kernel, by decide, by decide +kernel⟩,
    _, _, _, oneLane .write 1 false noHost 0 (by decide +kernel) (by decide +kernel), by decide +kernel,
      by decide +kernel⟩
theorem wit_GlobalValues_atomic : noWaits tM (tMap tOneW) 0 tOneW true true false
    ∧ (tOneW.atomOps tM 0).1 < 2 ^ (8 * tM.sz) ∧ (∃ s1 page p, OneLane (tMap tOneW) 0 tOneW tM 0 .atomic 2 true
      ((tMap tOneW).hostRefuses tM.fn.toNat tM.sz false) tM.fn.toNat s1 page p) :=
  ⟨⟨by decide, by decide, fun _ => by decide +kernel, by decide, by decide +kernel⟩, by decide,
    _, _, _, oneLane .atomic 2 true _ tM.fn.toNat (by decide +kernel) (by decide +kernel)⟩
theorem wit_GlobalValues_update : ∃ s1 page p, OneLane (tMap tOneW) 0 tOneW tM 0 .atomic 3 true
      ((tMap tOneW).hostRefuses (tM.fn.toNat % 16) tM.sz true) tM.fn.toNat s1 page p :=
  ⟨_, _, _, oneLane .atomic 3 true _ tM.fn.toNat (by decide +kernel) (by decide +kernel)⟩

/-- A die with a dirty sector of scope PART in its remote partition, and nothing else dirty. -/
def tDirty : State := { tS with dies := [(0, { Die.init with remote := [(0x4000000, { tSec with share := 3 })] })] }
theorem wit_FencesAndCaches_dirty : (tDirty.core 0).wcb = [] ∧ rising (tDirty.die 0).remote
    ∧ (tDirty.die 0).remote.find 0x4000000 = some { tSec with share := 3 } ∧ 1 < ({ tSec with share := 3 } : Sector).share
    ∧ tDirty.paKind (0x4000000 * 16) = .hbm [0, 1, 2, 3] ∧ soleIn (tDirty.die 0).remote 0x4000000
    ∧ notIn (tDirty.die 0).victim 0x4000000 ∧ notIn (tDirty.die 0).ddr 0x4000000 :=
  ⟨by decide, by unfold rising; decide, by decide, by decide, by decide, by unfold soleIn; decide,
    by unfold notIn; decide, by unfold notIn; decide⟩
theorem wit_FencesAndCaches_victim : (16 : Nat) / 8 = 2 ∧ rising (tHeld.die 0).victim
    ∧ (tHeld.die 0).victim.find 16 = some tSec ∧ soleIn (tHeld.die 0).victim 16 :=
  ⟨by decide, by unfold rising; decide, by decide, by unfold soleIn; decide⟩
theorem wit_FencesAndCaches_update : tHeld.paOn (redgObs tRedg) tRedg.pa = true ∧ tRedg.fn ≤ 9
    ∧ tRedg.val.toNat < 2 ^ (8 * tRedg.sz) ∧ tRedg.pa % 16 + tRedg.sz ≤ 16
    ∧ (tHeld.paKind tRedg.pa).isMem = true ∧ tRedg.redir = none := by decide
/-- A redirect to scratch offset 64, with the barrier at 0, of two arrivals pending. -/
theorem wit_FencesAndCaches_redirect :
    let g := placedGang.setBar 0 ⟨3, 2, 2, 0, 0, 0, 0, 0⟩
    ({ tRedg with redir := some (64, 0) } : Redg).redir = some (64, 0) ∧ (64 + tRedg.sz ≤ 0 ∨ 0 + 16 ≤ 64)
      ∧ g.barOk 0 = true ∧ 1 < (g.bar 0).pend := by decide

/-- A gang whose queue at 0 has room for four entries of 8 bytes: empty, and with two entries; Q3 bound to
it. -/
def tQue (tail allow : Nat) : Gang := placedGang.setQue 0 ⟨0, tail, 4, 0, 0, allow, 0, 0, 0⟩
def tQW : Wave := { tTwo with regs := { tTwo.regs with q := [(3, 0)] } }
def tQS (g : Gang) : State := { tWith tQW with gangs := [(0, g)] }

theorem wit_Queues_bind :
    let w : Wave := { tW with regs := { tW.regs with g := [(3, 4)] } }
    At (tWith w) 0 w ∧ inGang (tWith w) w placedGang ∧ w.guardGrp tG.guard = true ∧ w.off32 tG.a.toNat % 32 = 0
      ∧ placedGang.inBounds (w.off32 tG.a.toNat) 32 = true ∧ bindOperand (w.greg tG.b.toNat).toNat = some (4, 0, 4)
      ∧ placedGang.inBounds (w.off32 tG.a.toNat) (32 + 4 * 8) = true ∧ (tWith w).redgBusy 0 = false :=
  ⟨at_tWith _, rfl, by decide, by decide, by decide, by decide, by decide, by decide⟩
theorem wit_Queues_push : At (tQS (tQue 0 4)) 0 tQW ∧ inGang (tQS (tQue 0 4)) tQW (tQue 0 4)
    ∧ boundTo tQW (tQue 0 4) tO.b.toNat (some (tO.m.toNat % 2)) 0 ∧ tQW.qsources tO ≠ []
    ∧ (tQS (tQue 0 4)).relBusy 0 = false ∧ (tQW.qsources tO).length ≤ ((tQue 0 4).que 0).allow
    ∧ (tQS (tQue 0 4)).qblocked tQW.gang 0 true = [] :=
  ⟨⟨rfl, rfl⟩, rfl, ⟨0, by decide, by decide, by decide⟩, by decide, by decide, by decide, by decide⟩
theorem wit_Queues_pop : boundTo tQW (tQue 2 2) tO.b.toNat (some (tO.m.toNat % 2)) 0 ∧ tQW.qcount tO ≠ 0
    ∧ (tQS (tQue 2 2)).redgBusy 0 = false ∧ tQW.qcount tO ≤ ((tQue 2 2).que 0).count
    ∧ (tQS (tQue 2 2)).qblocked tQW.gang 0 false = [] :=
  ⟨⟨0, by decide, by decide, by decide⟩, by decide, by decide, by decide, by decide⟩
theorem wit_Queues_wait : boundTo tQW (tQue 1 3) tO.b.toNat (some (tO.m.toNat % 2)) 0
    ∧ ((tQue 1 3).que 0).count < tQW.qcount tO ∧ tQW.qcount tO ≤ ((tQue 1 3).que 0).allow + ((tQue 1 3).que 0).count :=
  ⟨⟨0, by decide, by decide, by decide⟩, by decide, by decide⟩
theorem wit_Queues_stat : boundTo tQW (tQue 1 3) tG.b.toNat none 0 ∧ tQW.guardGrp tG.guard = true :=
  ⟨⟨0, by decide, by decide, by decide⟩, by decide⟩
theorem wit_Queues_order : ((tQue 0 4).que 0).count = 0 ∧ [1, 2, 3, 4].length ≤ ((tQue 0 4).que 0).cap
    ∧ [1, 2, 3, 4].length ≤ ((tQue 0 4).que 0).allow := by decide

/-- A gang with a barrier at 0: one arrival pending of two; the same with an error. -/
def tBar (err : Nat) : Gang := placedGang.setBar 0 ⟨3, 1, 2, 0, 0, 0, err, 0⟩
def tBarS (w : Wave) (err : Nat) : State := { tWith w with gangs := [(0, tBar err)] }

theorem wit_Barriers_init :
    let w : Wave := { tW with regs := { tW.regs with g := [(3, 0xFFFF)] } }
    At (tWith w) 0 w ∧ inGang (tWith w) w placedGang ∧ w.guardGrp tG.guard = true
      ∧ placedGang.barOk (w.off32 tG.a.toNat) = true ∧ 0 < w.barVal tG ∧ w.barVal tG < 2 ^ 16
      ∧ (tWith w).redgBusy 0 = false :=
  ⟨at_tWith _, rfl, by decide, by decide, by decide, by decide, by decide⟩
theorem wit_Barriers_arrive : (tBar 0).barFull (tW.off32 tG.a.toNat) = true
    ∧ 1 = (if tG.m = 1 then (tW.greg tG.b.toNat).toNat % 2 ^ 16 else 1) ∧ (tBarS tW 0).relBusy 0 = false := by decide
theorem wit_Barriers_wait_error : (tBar 1).waitable (tW.off32 tG.a.toNat) = true ∧ ((tBar 1).bar 0).err ≠ 0 := by
  decide
theorem wit_Barriers_wait_over : (tBar 0).waitable (tW.off32 tG.a.toNat) = true ∧ ((tBar 0).bar 0).err = 0
    ∧ ((tBar 0).bar 0).gen ≠ (tW.greg tG.b.toNat).toNat % 16 := by decide
theorem wit_Barriers_wait : ((tBar 0).bar 0).err = 0
    ∧ ((tBar 0).bar 0).gen = (if ({ tG with m := 1 } : WOp).m = 1 then ((tBar 0).bar 0).gen else 0) := by decide
theorem wit_Barriers_expect : (tBar 0).barFull (tW.off32 tG.a.toNat) = true
    ∧ tW.barVal { tG with m := 2, ext := some 0xFFFF } < (if ({ tG with m := 2 } : WOp).m = 2 then 2 ^ 16 else 2 ^ 24) := by
  decide
theorem wit_Barriers_generation : (tBarS tW 0).gangs.find 0 = some (tBar 0) ∧ 0 < ((tBar 0).bar 0).pend
    ∧ ((tBar 0).bar 0).inn = 0 ∧ ((tBar 0).bar 0).out = 0 := ⟨rfl, by decide, by decide, by decide⟩
/-- A redirected old value of the wave has yet to reach the queue's header. -/
def tQBusy : State := { tQS (tQue 0 4) with redgs := [{ tRedg with redir := some (0, 1024) }] }
theorem wit_Queues_busy : At tQBusy 0 tQW ∧ inGang tQBusy tQW (tQue 0 4)
    ∧ tQBusy.queueBusy 0 tQW (tQue 0 4) tO.b.toNat = true := ⟨⟨rfl, rfl⟩, rfl, by decide⟩
theorem wit_Queues_free : (tQS (tQue 0 4)).queueBusy 0 tQW (tQue 0 4) tO.b.toNat = false
    ∧ placedGang.inBounds 0 (32 + 4 * 8) = true ∧ tS.queBusy 0 placedGang 0 = false := by decide

theorem wit_Barriers_busy : (tBar 0).barOk (tW.off32 tG.a.toNat) = true
    ∧ (let s : State := { tBarS tW 0 with redgs := [tRedg] }
       (s.redgBusy 0 || s.scrBusy 0 (tW.off32 tG.a.toNat) 16) = true ∧ s.relBusy 0 = true) := by decide
theorem wit_Barriers_over : ((tBar 0).bar 0).pend + (2 ^ 16 - 1) ≥ 2 ^ 16 ∧ ((tBar 0).bar 0).inn + 5 < 2 ^ 24 := by
  decide
theorem wit_Barriers_under : ((tBar 0).bar 0).pend < 2 ∧ 1 ≤ ((tBar 0).bar 0).pend := by decide
/-! ## Witnesses: copy engines -/

/-- A copy program of the gang in slot 0 of engine 0, at its turn. -/
def tProg : Prog := Prog.start ⟨1, 0, some 0, none, 1⟩ false (BitVec.ofNat 64 placedVa) [] 0xFFFFFFFF#32 0 0
  (BitVec.ofNat 64 placedVa) 16 0
def tEng (p : Prog) : State := { tS with
  engines := [(0, { starts := 1, slots := [(0, p)], last := 7 })], curE := some (0, 0) }
theorem at_tEng (p : Prog) : AtProg (tEng p) 0 0 p := ⟨rfl, rfl⟩

/-- G2 holds the program's address, G7 and G8 no barrier and no footprint block. -/
def tStartW : Wave := { tW with regs := { tW.regs with
  g := [(2, 0x10000), (7, 0xFFFFFFFF), (8, 0xFFFFFFFF)] } }

theorem wit_Engines_start : At (tWith tStartW) 0 tStartW ∧ inGang (tWith tStartW) tStartW placedGang
    ∧ tStartW.guardGrp tG.guard = true ∧ startCheck tStartW placedGang tG.a.toNat = .ok []
    ∧ (tWith tStartW).relBusy 0 = false ∧ (tWith tStartW).blockHeld tStartW 0xFFFFFFFF = none
    ∧ ((tWith tStartW).engine (slotCore 0)).freeSlot = some 0
    ∧ (tWith tStartW).fpRoom (slotCore 0) [] = true :=
  ⟨at_tWith _, rfl, by decide, rfl, by decide, by decide, by decide, by decide⟩
/-- A footprint of job 7 that writes the first 64 bytes of scratch; an update still to come. -/
def tFpS : State := { tS with cores := [(0, { Core.init with fps := [⟨7, 0, [⟨0, 64, true, true⟩]⟩] })] }
theorem wit_Engines_held : tFpS.relBusy 0 = false ∧ tFpS.blockHeld tW 0 = some 7
    ∧ ({ tS with redgs := [tRedg] } : State).relBusy 0 = true := by decide
/-- An address that is no multiple of 4; a barrier offset out of the allocation; a word in the eighth
register. -/
theorem wit_Engines_illegal :
    startCheck { tW with regs := { tW.regs with g := [(2, 2)] } } placedGang 2 = .error 2
    ∧ startCheck { tW with regs := { tW.regs with g := [(7, 65536)] } } placedGang 2 = .error 7
    ∧ startCheck { tW with regs := { tW.regs with
        g := [(7, 0xFFFFFFFF), (8, 0xFFFFFFFF), (9, 1)] } } placedGang 2 = .error 9 := ⟨rfl, rfl, rfl⟩

/-- The handle of program 0 of workgroup 0 is 0. -/
theorem wit_Engines_wait : At (tEng tProg) 0 tW ∧ inGang (tEng tProg) tW placedGang
    ∧ (tW.greg tG.a.toNat).toNat = 0 + 0 * 2 ^ 8 + 0 * 2 ^ 16 ∧ 0 < placedGang.cores.length
    ∧ (tEng tProg).prog? (nth placedGang.cores 0 0) 0 = some tProg ∧ tProg.seq = 0 ∧ tProg.st ∈ [1, 2, 5, 6] :=
  ⟨⟨rfl, rfl⟩, rfl, by decide, by decide, rfl, rfl, by decide⟩
theorem wit_Engines_ends : (tEng tProg).prog? 0 7 = none ∧ ({ tProg with seq := 1 } : Prog).seq ≠ 0
    ∧ ({ tProg with st := 4 } : Prog).st = 4 ∧ ({ tProg with st := 3 } : Prog).st = 3
    ∧ ({ tProg with st := 7 } : Prog).st = 7 := ⟨rfl, by decide, rfl, rfl, rfl⟩

theorem wit_CommandArithmetic : AtProg (tEng tProg) 0 0 tProg ∧ ceOps ≠ [] := ⟨at_tEng _, by simp [ceOps]⟩
theorem wit_CommandBranches : AtProg (tEng tProg) 0 0 tProg ∧ (1 : BitVec 9) ≠ 0 ∧ tProg.owner.gang.isSome = true :=
  ⟨at_tEng _, by decide, rfl⟩

/-- A 4-byte load at scratch offset 0; one at the end of the allocation; one misaligned. -/
def tMem (x : BitVec 32) : CeMem := ⟨1, 2, none, 2, false, true, some x⟩
theorem wit_CommandMemory : (0 : Int) = formsAddr tProg (tMem 0).a (tMem 0).b (tMem 0).x 4
    ∧ xferFree (tEng tProg) 0 tProg false true 0 4 ∧ xferFree (tEng tProg) 0 tProg true true 0 4
    ∧ (tEng tProg).progRead 0 tProg true 0 4 4 = (tEng tProg, .ok [0, 0, 0, 0])
    ∧ (∃ s1, (tEng tProg).progWrite 0 tProg true false 0 4 (bytesOf 4 (tProg.getE 1).toNat) = (s1, none)) :=
  ⟨by decide, by unfold xferFree; decide, by unfold xferFree; decide, rfl, ⟨_, rfl⟩⟩
theorem wit_CommandMemory_faults :
    (tEng tProg).progRead 0 tProg true 65536 4 4 = (tEng tProg, .error (.bound, 65536))
    ∧ (tEng tProg).progRead 0 tProg true 2 4 4 = (tEng tProg, .error (.align, 2))
    ∧ (tEng tProg).progWrite 0 tProg true false 65536 4 [0, 0, 0, 0] = (tEng tProg, some (.bound, 65536)) :=
  ⟨rfl, rfl, rfl⟩
theorem wit_CommandMemory_descriptor : (0 : Int) = formsAddr tProg 2 none (some 0) 64
    ∧ (∃ s1 bs, (tEng tProg).progRead 0 tProg true 0 64 16 = (s1, .ok bs)) ∧ (tEng tProg).progGang tProg = some placedGang :=
  ⟨by decide, ⟨_, _, rfl⟩, rfl⟩

/-- A descriptor of four FP32 elements at scratch offset 0. -/
def tDesc : BitVec 512 := 0x1a00000000000000000000000000000000000000000000000000000000000000000000000000000000000000000000400000000000000000000000000000000#512
def tDescP : Prog := { tProg with d := [(0, tDesc), (1, tDesc)] }
theorem wit_CommandDescriptors : AtProg (tEng tDescP) 0 0 tDescP ∧ 17 ≤ (17 : BitVec 5).toNat
    ∧ ((16 : BitVec 5).toNat, 510, 2) ∈ [(15, 507, 3), (16, 510, 2)] := ⟨at_tEng _, by decide +kernel, by decide +kernel⟩
theorem wit_CommandDescriptors_addr :
    let t := TDesc.ofNat (tDescP.d.getD 0 0).toNat
    t.valid = true ∧ (31 : BitVec 5).toNat + t.rank ≤ 32 ∧ t.ind = 0 ∧ t.fmt ≠ 0
      ∧ (∀ i < t.rank, nth ((List.range t.rank).map (fun i => (tDescP.getE (31 + i)).toNat)) i 0 < t.extent i) := by
  decide +kernel
theorem wit_CommandDescriptors_out :
    let p : Prog := { tDescP with e := [(31, 4)] }
    let t := TDesc.ofNat (p.d.getD 0 0).toNat
    ∃ i < t.rank, t.extent i ≤ nth ((List.range t.rank).map (fun i => (p.getE (31 + i)).toNat)) i 0 := by decide +kernel

/-- The transfer in flight of a program, and one that nothing holds. -/
def tXfer : Xfer := ⟨BitVec.ofNat 1024 tXBlock, tDesc, tDesc, none, 0, 0, [⟨true, 0, [0, 1, 2, 3]⟩], none, false,
  false, false, []⟩
where
  /-- Scratch to scratch, no count, a box of four elements. -/
  tXBlock : Nat := 0x400000000000000000000000000000000000000000000000000000000000000000000000000004098
def tXferP : Prog := { tDescP with xfers := [tXfer] }

/-- While it is in flight a load of its destination stands still. -/
theorem wit_CommandMemory_held : ¬ xferFree (tEng tXferP) 0 tXferP false true 0 4
    ∧ ¬ xferFree (tEng tXferP) 0 tXferP true true 0 4 := by unfold xferFree; decide +kernel

theorem wit_CommandSync : AtProg (tEng tProg) 0 0 tProg ∧ tProg.inFlight = false ∧ tXferP.inFlight = true
    ∧ tProg.owner.gang = some 0 ∧ (tEng tProg).gangs.find 0 = some placedGang :=
  ⟨at_tEng _, by decide +kernel, by decide +kernel, rfl, rfl⟩
/-- E2 names scratch words only to a program without SP, so `SIG` needs a mapped page: here its check is
stated on the placed code page. -/
def tMapped : State := State.placeCode (tEng { tProg with e := [(2, 0x10000)] }) []
theorem wit_CommandSync_sig : ∃ s1 m, tMapped.engCheck (tMapped.progObs 0 tProg) (tMapped.progGang tProg) false
    .write true 0x10000 8 8 = (s1, .ok m) := ⟨_, _, rfl⟩
/-- A program whose default barrier is the one at 0. -/
def tBarP : Prog := { tProg with dbar := 0, e := [(2, 0xFFFFFFFF), (3, 1)] }
def tBarE (err : Nat) : State := { tEng tBarP with gangs := [(0, tBar err)] }
theorem wit_CommandSync_bar :
    0 = (if (tBarP.getE 2).toNat % 2 ^ 32 = 0xFFFFFFFF then tBarP.dbar.toNat else (tBarP.getE 2).toNat % 2 ^ 32)
    ∧ (tBar 0).barOk 0 = true ∧ xferFree (tBarE 0) 0 tBarP false true 0 16 ∧ ((tBar 1).bar 0).err ≠ 0
    ∧ ((tBar 0).bar 0).err = 0 ∧ ((tBar 0).bar 0).gen ≠ (tBarP.getE 3).toNat % 16
    ∧ (tBarP.getE 3).toNat % 2 ^ 16 ≠ 0 := by unfold xferFree; decide +kernel
/-- The awaited generation is that of the object, 3; a transfer in flight holds the object. -/
theorem wit_CommandSync_blocks :
    let p : Prog := { tBarP with e := [(2, 0xFFFFFFFF), (3, 3)] }
    ((tBar 0).bar 0).gen = (p.getE 3).toNat % 16
      ∧ (tBarE 0).xferHolds 0 tBarP false (granules true 0 16) = false
      ∧ (tEng tXferP).xferHolds 0 tXferP false (granules true 0 16) = true := by decide +kernel
/-- Address 4 is no word of 8 bytes. -/
theorem wit_CommandSync_sig_stops : ∃ s1, tMapped.engCheck (tMapped.progObs 0 tProg) (tMapped.progGang tProg)
    false .write true 4 8 8 = (s1, .error (.align, 4)) := ⟨_, rfl⟩

/-- The block of the transfer stands at scratch offset 0. -/
def tXG : Gang := placedGang.scrWrite 0 (bytesOf 128 tXfer.tXBlock)
def tXS : State := { tEng tDescP with gangs := [(0, tXG)] }
/-- A pair by its parts. -/
theorem pairOf {α β : Type} {x : α × β} {b : β} (h : x.2 = b) : x = (x.1, b) := by rw [← h]
theorem okPair {α β ε : Type} (x : α × Except ε β) (h : x.2.isOk = true) : ∃ a b, x = (a, .ok b) := by
  obtain ⟨a, e | b⟩ := x
  · cases h
  · exact ⟨a, b, rfl⟩
theorem wit_Transfers : AtProg tXS 0 0 tDescP
    ∧ tXS.xferBusy 0 tDescP true (spAddr true (tDescP.getE 1).toNat) = false
    ∧ (∃ s1 bs, tXS.progRead 0 tDescP true (spAddr true (tDescP.getE 1).toNat) 128 16 = (s1, .ok bs)
        ∧ natOf bs = tXfer.tXBlock) :=
  ⟨⟨rfl, rfl⟩, by decide +kernel, ⟨_, _, rfl, by decide +kernel⟩⟩
/-- Four transfers are in flight; a block past the allocation cannot be read; a descriptor whose index vector
lies there gives no sectors. -/
theorem wit_Transfers_waits :
    let p : Prog := { tXferP with xfers := [tXfer, tXfer, tXfer, tXfer] }
    4 ≤ (p.xfers.filter (fun x => !x.faulted)).length ∧ tXS.xferBusy 0 p true 0 = true := by decide +kernel
theorem wit_Transfers_unread : tXS.xferBusy 0 tDescP true 65536 = false
    ∧ (∃ s1, tXS.progRead 0 tDescP true 65536 128 16 = (s1, .error (.bound, 65536))) :=
  ⟨by decide +kernel, _, pairOf (by decide +kernel)⟩
theorem wit_Transfers_starts :
    let b := tXfer.tXBlock
    xCheck b (TDesc.ofNat tDesc.toNat) (TDesc.ofNat tDesc.toNat) (some tXG) 0xFFFFFFFF = none
      ∧ b.testBit 15 = false ∧ (tXS.xSectors 0 tDescP b (TDesc.ofNat tDesc.toNat)).2
        = .ok [⟨true, 0, [0, 1, 2, 3]⟩] := by decide +kernel
/-- A compressing block of two FP32 elements that passes, and a reserved bit that does not. -/
theorem wit_Transfers_checks :
    let b := tXfer.tXBlock + 2 ^ 15 + 2 ^ 18
    xCheck b (TDesc.ofNat tDesc.toNat) (TDesc.ofNat tDesc.toNat) (some tXG) 0xFFFFFFFF = none
      ∧ b.testBit 15 = true
      ∧ xCheck (b + 2 ^ 19) (TDesc.ofNat tDesc.toNat) (TDesc.ofNat tDesc.toNat) (some tXG) 0xFFFFFFFF
        = some (.block, 0) := by decide +kernel
theorem wit_Transfers_sector : (tEng tXferP).prog? 0 0 = some tXferP ∧ tXferP.xfers[0]? = some tXfer
    ∧ tXfer.todo[0]? = some ⟨true, 0, [0, 1, 2, 3]⟩ ∧ tXfer.faulted = false ∧ tXferP.isFree = false
    ∧ (tEng tXferP).xHeld 0 tXferP 0 tXfer ⟨true, 0, [0, 1, 2, 3]⟩ = false
    ∧ (tEng tXferP).xOff 0 tXferP tXfer ⟨true, 0, [0, 1, 2, 3]⟩ = false ∧ tXfer.bar = none :=
  ⟨rfl, rfl, rfl, rfl, by decide +kernel, by decide +kernel, by decide +kernel, rfl⟩
theorem wit_Transfers_performed : ((tEng tXferP).xSector 0 tXferP tXfer ⟨true, 0, [0, 1, 2, 3]⟩).2 = .ok none := by
  decide +kernel
/-- The same transfer from scratch offset 64, with its barrier at 1,024. -/
def tPlain : Xfer := { tXfer with src := tDesc + 64#512, bar := some 1024 }
theorem wit_Transfers_plain : PlainXfer tPlain (TDesc.ofNat tPlain.src.toNat) (TDesc.ofNat tPlain.dst.toNat) where
  src := rfl
  dst := rfl
  rank := by decide +kernel
  ind := by decide +kernel
  fmt := by decide +kernel
  scratch := by decide +kernel
  plain := by decide +kernel
theorem wit_Transfers_places :
    let t := TDesc.ofNat tPlain.src.toNat
    let d := TDesc.ofNat tPlain.dst.toNat
    [0, 1, 2, 3].Nodup ∧ tXferP.st ≠ 3 ∧ tXferP.st ≠ 8 ∧ ∀ j ∈ [0, 1, 2, 3],
      j < xBox tPlain.block.toNat 0 ∧ plainDst tPlain d j = 4 * j ∧ plainFrom tPlain t j = some (64 + 4 * j)
        ∧ placedGang.inBounds (4 * j) 4 = true ∧ placedGang.inBounds (64 + 4 * j) 4 = true ∧ 4 * j + 4 ≤ 1024
        ∧ ∀ j' ∈ [0, 1, 2, 3], 4 * j' + 4 ≤ 64 + 4 * j := by decide +kernel
theorem wit_Transfers_count : ((tBar 0).bar 0).inn = 0 ∧ (({ (tBar 0).bar 0 with out := 2 } : Bar).out ≠ 0) := by
  decide +kernel

/-- A job of one row of 16 bytes into scratch, at scratch offset 0, no barrier. -/
def tJBlock (sctr : Bool) : Nat := (if sctr then 0xffffffff000000200000400000000000000000000000000000000000000000000000000000000000 else 0xffffffff000000000000400000000000000000000000000000000000000000000000000000000000)
def tJG (sctr : Bool) : Gang := placedGang.scrWrite 0 (bytesOf 64 (tJBlock sctr))
def tJS (sctr : Bool) : State := { tEng tProg with gangs := [(0, tJG sctr)] }
theorem wit_GatherJobs : At (tJS false) 0 tW ∧ inGang (tJS false) tW (tJG false) ∧ tW.wait = none
    ∧ tW.off32 tG.a.toNat % 16 = 0 ∧ (tJG false).inBounds (tW.off32 tG.a.toNat) 64 = true
    ∧ (tJS false).relBusy 0 = false ∧ (tJS false).blockHeld tW 0 = none ∧ (tJG false).scrNat 0 64 = tJBlock false
    ∧ gBlockOk (tJG false) (tJBlock false) false = true ∧ gBlockOk (tJG true) (tJBlock true) true = true
    ∧ jobRoom (tJS false) (slotCore 0) 0 (tJBlock false) false ∧ gBar (tJBlock false) = 0xFFFFFFFF :=
  ⟨⟨rfl, rfl⟩, rfl, rfl, by decide +kernel, by decide +kernel, by decide +kernel, by decide +kernel, by decide +kernel, by decide +kernel,
    by decide +kernel, ⟨by decide +kernel, by decide +kernel⟩, by decide +kernel⟩
/-- A job that a unit has accepted, and sixteen that take every unit of die 0. -/
def tJob (u : Nat) (sctr : Bool) : GJob :=
  ⟨u, BitVec.ofNat 512 (tJBlock sctr), sctr, ⟨1, 0, some 0, none, 1⟩, 0, u, true, false, 0, 0, [], [], none⟩
theorem wit_GatherJobs_full :
    ({ tJS false with gjobs := (List.range 16).map (fun u => tJob u false) } : State).freeUnit 0 = none := by decide +kernel
theorem wit_GatherJobs_gsub : AtProg (tJS false) 0 0 tProg ∧ tProg.owner.gang = some 0
    ∧ (tJS false).gangs.find 0 = some (tJG false) ∧ tProg.inFlight = false
    ∧ (tProg.getE 1).toNat % 2 ^ 32 = 0 := ⟨⟨rfl, rfl⟩, rfl, rfl, by decide +kernel, by decide +kernel⟩
theorem wit_GatherJobs_accept :
    let j := { tJob 0 false with accepted := false }
    let s : State := { tJS false with gjobs := [j] }
    s.gjobs[0]? = some j ∧ j.accepted = false ∧ s.freeUnit (coreDie j.core) = some 0
      ∧ s.fpRoom j.core (gRanges j.block.toNat j.sctr) = true ∧ (s.gangs.find ((j.owner.gang).getD 0)).isSome = true := by
  decide +kernel
/-- A footprint entry is missing: eight are taken; and a barrier whose IN cannot hold one sector more. -/
theorem wit_GatherJobs_room :
    let s : State := { tJS false with cores := [(0, { Core.init with fps := (List.range 8).map (fun i => ⟨i, 5, []⟩) })] }
    s.freeUnit 0 = some 0 ∧ s.fpRoom 0 (gRanges (tJBlock false) false) = false := by decide +kernel
theorem wit_GatherJobs_over : 2 ^ 24 ≤ (2 ^ 24 - 1) + gTotal (tJBlock false) ∧ 5 + gTotal (tJBlock false) < 2 ^ 24 := by
  decide +kernel

/-- Jobs of one row of one sector: INDEX in the placed page, then the row at VA 0x10100; data in scratch at
4,096, or at VA 0x10200. -/
def tGBlock (dsp opc ef : Nat) : Nat := 0x10100 + 0x10000 * 2 ^ 64 + (if dsp = 1 then 4096 else 0x10200) * 2 ^ 128
  + dsp * 2 ^ 238 + opc * 2 ^ 256 + ef * 2 ^ 259 + 0xFFFFFFFF * 2 ^ 288
def tGJob (dsp opc ef : Nat) (sctr : Bool) : GJob := { tJob 0 sctr with block := BitVec.ofNat 512 (tGBlock dsp opc ef) }
def tGS (j : GJob) (index : List Byte) : State := { (tEng tProg).placeCode index with gjobs := [j] }
def tGIndex (j : GJob) (index : List Byte) : State × Except XErr (List Byte) :=
  (tGS j index).readG ((tGS j index).jobObs j.owner (coreDie j.core)) .engine false
    ((gIndex j.block.toNat + jobPos j * gWidth j.block.toNat) % 2 ^ 64) (gWidth j.block.toNat)
theorem wit_GatherJobs_sector : AtJob (tGS (tGJob 1 0 0 false) []) 0 (tGJob 1 0 0 false) :=
  ⟨rfl, rfl, rfl, by decide +kernel⟩
theorem wit_GatherJobs_row : rowIs (tGS (tGJob 1 0 0 false) []) (tGJob 1 0 0 false)
    (tGIndex (tGJob 1 0 0 false) []).1 0 := by
  have h : (tGIndex (tGJob 1 0 0 false) []).2 = .ok [0, 0] := by decide +kernel
  unfold rowIs
  rw [if_pos (by decide +kernel)]
  exact ⟨[0, 0], by decide +kernel, pairOf h⟩
theorem wit_GatherJobs_read : gNull (tGBlock 1 0 0) 0 = false ∧ (jobRows (tGJob 1 0 0 false)).find 0 = none
    ∧ gDsp (tGBlock 1 0 0) = true ∧ gDsp (tGBlock 0 0 0) = false ∧ gBar (tGBlock 1 0 0) = 0xFFFFFFFF
    ∧ (let s1 := (tGIndex (tGJob 1 0 0 false) []).1
       (s1.gangs.find 0 = some placedGang) ∧ (s1.readG (s1.jobObs (tGJob 1 0 0 false).owner 0) .engine false
         0x10100 16).2 = .ok (rep 16 0)) := by decide +kernel
theorem wit_GatherJobs_write :
    ((tGS (tGJob 0 0 0 false) []).writeG ((tGS (tGJob 0 0 0 false) []).jobObs (tGJob 0 0 0 false).owner 0) .engine
      false 0x10200 (rep 16 0)).2 = none := by decide +kernel
/-- The index 0xFFFF is null; a sum of INT32 elements, and a plain store of elements. -/
theorem wit_GatherJobs_null : AtJob (tGS (tGJob 1 0 4 true) [0xFF, 0xFF]) 0 (tGJob 1 0 4 true)
    ∧ (tGIndex (tGJob 1 0 4 true) [0xFF, 0xFF]).2 = .ok [0xFF, 0xFF] ∧ gNull (tGBlock 1 0 4) 0xFFFF = true :=
  ⟨⟨rfl, rfl, rfl, by decide +kernel⟩, by decide +kernel, by decide +kernel⟩
theorem wit_GatherJobs_scatter : gNull (tGBlock 1 0 4) 0 = false ∧ gOpc (tGBlock 1 0 4) ≠ 3
    ∧ gOpc (tGBlock 0 3 0) = 3 ∧ gDsp (tGBlock 0 3 0) = false
    ∧ (let s := tGS (tGJob 1 0 4 true) []
       let o := s.jobObs (tGJob 1 0 4 true).owner 0
       (s.readG o .engine false 0x10100 16).2 = .ok (rep 16 0)
         ∧ (s.writeG o .engine false 0x10100 (gFoldSec 0 4 (rep 16 0) (rep 16 0))).2 = none) := by decide +kernel
/-- A barrier at 0 of which more than one count-down is left. -/
theorem wit_GatherJobs_counts :
    let g := placedGang.setBar 0 ⟨3, 2, 2, 0, 5, 5, 0, 0⟩
    g.barOk 0 = true ∧ 1 < (g.bar 0).inn ∧ 1 < (g.bar 0).out := by decide +kernel
/-- The placed code maps no page at VA 0x20000000000. -/
theorem wit_GatherJobs_fails :
    let j : GJob := { tJob 0 false with block := BitVec.ofNat 512 (0x20000000000 * 2 ^ 64) }
    jobSec j = 0 ∧ AtJob (tGS j []) 0 j ∧ ((tGS j []).readG ((tGS j []).jobObs j.owner 0) .engine false
      0x20000000000 2).2.isOk = false :=
  ⟨by decide +kernel, ⟨rfl, rfl, rfl, by decide +kernel⟩, by decide +kernel⟩
theorem wit_GatherJobs_fold : (rep 16 (1 : Byte)).length = 16 ∧ (0 : Nat) ≤ 3 := by decide


/-! ## Witnesses: the matrix array -/

/-- One row and column of INT8 at scratch offset 0: G2 = A, G3 = the format block at 256, G4 = 16 + 2³². -/
def tMatW : Wave := { tW with regs := { tW.regs with g := [(3, 256), (4, 0x100000010)] } }
def tMatO : WOp := { tG with m := 0 }
/-- The same as the leader of a pair. -/
def tPairO : WOp := { tG with m := 1 }
def tTwoCores : Gang := { placedGang with cores := [0, 1] }
def tFpM : State := { tWith tMatW with cores := [(0, { Core.init with fps := [⟨7, 0, [⟨0, 1024, true, true⟩]⟩] })] }
theorem wit_MatrixIssueAndArray : At (tWith tMatW) 0 tMatW ∧ inGang (tWith tMatW) tMatW placedGang
    ∧ tMatW.guardGrp tMatO.guard = true ∧ tMatO.m.getLsbD 0 = false
    ∧ matCheck (.mz tMatO) tMatO tMatW placedGang = .ok 0 ∧ ((tWith tMatW).core 0).claim = none
    ∧ (matBlockAt (.mz tMatO) tMatW tMatO).any (fun off => (tWith tMatW).scrBusy 0 off 32) = false
    ∧ (tWith tMatW).fmtHeld tMatW (matBlockAt (.mz tMatO) tMatW tMatO) = none
    ∧ (tWith tMatW).matStalls 0 (matJob (.mz tMatO) tMatO 0 tMatW 0) = false
    ∧ (tWith tMatW).matHeld tMatW (matJob (.mz tMatO) tMatO 0 tMatW 0) = none
    ∧ ((tWith tMatW).setCore 0 { Core.init with claim := some 5 }).core 0 = { Core.init with claim := some 5 } :=
  ⟨at_tWith _, rfl, by decide, by decide, rfl, rfl, by decide, by decide, by decide, by decide, rfl⟩
theorem wit_MatrixIssueAndArray_pair : tPairO.m.getLsbD 0 = true
    ∧ ¬ ((placedGang.cores.length = 2 ∨ placedGang.cores.length = 4) ∧ slotCore 0 % 2 = 0)
    ∧ ((tTwoCores.cores.length = 2 ∨ tTwoCores.cores.length = 4) ∧ slotCore 0 % 2 = 0)
    ∧ matCheck (.mz tPairO) tPairO tMatW tTwoCores = .ok 0
    ∧ ∀ d ∈ matPlaces tPairO 0, ((tWith tMatW).core d).claim = none := by decide +kernel
/-- The footprint of job 7 over the row of A alone. -/
def tFpA : State := { tWith tMatW with cores := [(0, { Core.init with fps := [⟨7, 0, [⟨0, 16, true, true⟩]⟩] })] }
/-- A stored old value has yet to reach the format block, and the row; a footprint of job 7 lies over the block, and
over the row. -/
theorem wit_MatrixIssueAndArray_waits :
    let s : State := { tWith tMatW with redgs := [{ tRedg with redir := some (256, 1024) }] }
    let q : State := { tWith tMatW with redgs := [{ tRedg with redir := some (0, 1024) }] }
    let at_ := matBlockAt (.mma tMatO) tMatW tMatO
    at_.any (fun off => s.scrBusy 0 off 32) = true
      ∧ at_.any (fun off => (tWith tMatW).scrBusy 0 off 32) = false
      ∧ at_.any (fun off => tFpM.scrBusy 0 off 32) = false ∧ tFpM.fmtHeld tMatW at_ = some 7
      ∧ tFpA.fmtHeld tMatW at_ = none
      ∧ q.matStalls 0 (matJob (.mma tMatO) tMatO 0 tMatW 0x21) = true
      ∧ tFpA.matStalls 0 (matJob (.mma tMatO) tMatO 0 tMatW 0x21) = false
      ∧ tFpA.matHeld tMatW (matJob (.mma tMatO) tMatO 0 tMatW 0x21) = some 7 := by decide +kernel
/-- A stride of 0 columns; a format block past the allocation. -/
theorem wit_MatrixIssueAndArray_illegal :
    matCheck (.mma tMatO) tMatO { tW with regs := { tW.regs with g := [(4, 16)] } } placedGang = .error 48
    ∧ matCheck (.mma tMatO) tMatO { tW with regs := { tW.regs with g := [(3, 65535), (4, 0x100000010)] } }
      placedGang = .error 40
    ∧ (matCheck (.mma tMatO) tMatO tMatW placedGang).isOk = true
    ∧ (matCheck (.mldb tMatO) tMatO tMatW placedGang).isOk = true := by decide +kernel
/-- The array of core 0 with one instruction at the head of its order, and one column of length 128. -/
def tMatJ (i : Instr) (blk : Nat) : MatJob := ⟨0, 0, i, 0, 256, 0x100000010, BitVec.ofNat 256 blk⟩
def tMatS (i : Instr) (blk fmt : Nat) : State := ({ tWith tMatW with
    dies := [(0, { Die.init with chainEn := 0 })] }).setCore 0 { Core.init with
  claim := some 0, matq := [tMatJ i blk], panel := ⟨fmt, 2, false, 1, [(0, ⟨[8], [0], [false], [[1], [2]]⟩)]⟩ }
theorem tMat_at (i : Instr) (blk fmt : Nat) (h : (tMatS i blk fmt).chainOk 0 = true) :
    AtArray (tMatS i blk fmt) 0 (tMatJ i blk) [] tMatO i :=
  ⟨rfl, rfl, by show slotCore 0 = 0; decide, rfl, rfl, h, fun h => absurd h (by decide),
    fun h => absurd h (by decide)⟩
theorem wit_MatrixIssueAndArray_array : AtArray (tMatS (.mz tMatO) 0 1) 0 (tMatJ (.mz tMatO) 0) [] tMatO (.mz tMatO)
    ∧ ((tMatS (.mz tMatO) 0 1).core 0).claim = some 0 ∧ (tMatS (.mz tMatO) 0 1).waves.find 0 = some tMatW
    ∧ tMatW.gang = 0 ∧ ∀ p ∈ (tMatS (.mz tMatO) 0 1).waves, p.2.wait = none :=
  ⟨tMat_at _ _ _ (by decide), rfl, rfl, rfl, by decide⟩
/-- INT8 in blocks of 128. -/
theorem wit_MatrixMultiply : AtArray (tMatS (.mma tMatO) 0x21 1) 0 (tMatJ (.mma tMatO) 0x21) [] tMatO (.mma tMatO)
    ∧ (let blk := (tMatJ (.mma tMatO) 0x21).blk.toNat
       let p := ((tMatS (.mma tMatO) 0x21 1).core 0).panel
       fld blk 0 4 = 1 ∧ fld blk 4 2 = 2 ∧ fld blk 64 64 = 0 ∧ p.fmt ≤ 2 ∧ p.len = 2 ∧ p.scaled = false
        ∧ rising p.cols ∧ (∀ q : Nat × PanelCol, q ∈ p.cols → q.1 < 512)
        ∧ rising ((tMatS (.mma tMatO) 0x21 1).core 0).z ∧ fld (tMatJ (.mma tMatO) 0x21).gc.toNat 32 7 = 1
        ∧ (p.cols.find 0).isSome = true) := by
  refine ⟨tMat_at _ _ _ (by decide), ?_⟩
  unfold rising; decide +kernel
/-- `MLDB` of one column of INT8, without scales, and with a table of them at 512. -/
theorem wit_MatrixValues_load : AtArray (tMatS (.mldb tMatO) 0x2100 1) 0 (tMatJ (.mldb tMatO) 0x2100) [] tMatO (.mldb tMatO)
    ∧ AtArray (tMatS (.mldb tMatO) (0x2100 + 512 * 2 ^ 128) 1) 0 (tMatJ (.mldb tMatO) (0x2100 + 512 * 2 ^ 128)) []
      tMatO (.mldb tMatO) ∧ fld 0x2100 8 4 = 1 ∧ fld 0x2100 12 2 = 2 ∧ fld 0x100000010 32 11 = 1
    ∧ fld (0x2100 + 512 * 2 ^ 128) 128 64 = 512 := ⟨tMat_at _ _ _ (by decide), tMat_at _ _ _ (by decide), by decide +kernel⟩
/-- `MMA` of FP8 formats of one limb: one row of zeros, whose sum is zero; a column marked special. -/
theorem wit_MatrixValues_multiply : AtArray (tMatS (.mma tMatO) 0x27 7) 0 (tMatJ (.mma tMatO) 0x27) [] tMatO (.mma tMatO)
    ∧ (let p := ((tMatS (.mma tMatO) 0x27 7).core 0).panel
       fld 0x27 0 4 = 7 ∧ fld 0x27 4 2 = 2 ∧ p.fmt = 7 ∧ p.len = 2 ∧ rising p.cols
        ∧ (∀ q : Nat × PanelCol, q ∈ p.cols → q.1 < 512) ∧ rising ((tMatS (.mma tMatO) 0x27 7).core 0).z
        ∧ nth ((p.cols.getD 0 default).special) 0 false = false)
    ∧ nth (({ exps := [], scales := [], special := [true], limbs := [] } : PanelCol).special) 0 false = true := by
  refine ⟨tMat_at _ _ _ (by decide), ?_⟩
  unfold rising; decide +kernel
/-- 1 + 1 × 1 × 2⁰ is the FP32 value 2. -/
theorem wit_MatrixValues_sum : isFin (decFl (fmtOf 10) 0x3F800000) ∧ isFin (decFl (fmtOf 10) 0x40000000)
    ∧ flQ (decFl (fmtOf 10) 0x40000000) ≠ 0
    ∧ flQ (decFl (fmtOf 10) 0x40000000) = flQ (decFl (fmtOf 10) 0x3F800000) + 1 * (2 : ℚ) ^ (0 : Int) := by
  have h1 : decFl (fmtOf 10) 0x3F800000 = .fin false 8388608 (-23) := by decide
  have h2 : decFl (fmtOf 10) 0x40000000 = .fin false 8388608 (-22) := by decide
  rw [h1, h2]
  refine ⟨trivial, trivial, ?_, ?_⟩ <;> norm_num [flQ]
/-- `MST` of one INT8 element from an integer tile, and of an FP32 element. -/
def tMstI : Instr := .mst { tMatO with m := 8 }
def tMstJ : MatJob :=
  ⟨0, 0, tMstI, 0, BitVec.ofNat 64 (2 ^ 32 + 0x3F800000), BitVec.ofNat 64 (16 + 2 ^ 32 + 2 ^ 40), 0⟩
theorem wit_MatrixValues_store :
    let s := (tMatS tMstI 0 1).setCore 0 { Core.init with claim := some 0, matq := [tMstJ] }
    AtArray s 0 tMstJ [] { tMatO with m := 8 } tMstI ∧ s.gangs.find tMstJ.gang = some placedGang
      ∧ fld tMstJ.gb.toNat 32 4 = 1 ∧ fld tMstJ.gc.toNat 40 11 = 1 ∧ fmtBytes 1 1 ≤ fld tMstJ.gc.toNat 0 32
      ∧ fld tMstJ.gb.toNat 0 32 = 0x3F800000 ∧ fld (10 * 2 ^ 32) 32 4 = 10 ∧ isFin (decFl (fmtOf 10) 0x3F800000) :=
  ⟨⟨rfl, rfl, rfl, rfl, rfl, by decide, fun h => absurd h (by decide), fun h => absurd h (by decide)⟩, rfl,
    by decide +kernel, by decide +kernel, by decide +kernel, by decide +kernel, by decide +kernel, by
      have h1 : decFl (fmtOf 10) 0x3F800000 = .fin false 8388608 (-23) := by decide
      rw [h1]; trivial⟩
/-- The FP8 code of 1.0, which is 128 × 2⁻⁷; and of a NaN. -/
theorem wit_MatrixValues_alignment : ¬ isFin (decFl (fmtOf 6) 0x7F) ∧ isFin (decFl (fmtOf 6) 0x38)
    ∧ flQ (decFl (fmtOf 6) 0x38) = (128 : Int) * (2 : ℚ) ^ ((0 : Int) - 7) ∧ isSubnormal (fmtOf 6) 0x38 = false
    ∧ (List.replicate 128 0x38).length = 128 ∧ ∀ x ∈ List.replicate 128 0x38, x < 2 ^ fmtW 6 := by
  have h1 : decFl (fmtOf 6) 0x7F = .nan false := by decide
  have h2 : decFl (fmtOf 6) 0x38 = .fin false 8 (-3) := by decide
  rw [h1, h2]
  refine ⟨id, trivial, ?_, by decide, by simp, by decide +kernel⟩
  norm_num [flQ]

/-! ## Witnesses: cursors, volumes -/

/-- The first cursor operand of `CUR.NEXT` in a wave form names a predicate GP0. -/
def tNextO : WOp := { tG with a := 64 }
theorem wit_NullCursors : At tS 0 tW ∧ nullCur tW tO tO.b.toNat 40 false false ∧ nullCur tW tNextO 3 40 false false
    ∧ nullCur tW tG tG.a.toNat 32 false true ∧ predDst tO ∧ nullCur tW tO tO.a.toNat 32 false false
    ∧ (∀ c ∈ tW.cells tO, daddr tW c tO.a.toNat = 0) ∧ (∃ c ∈ tW.cells tG, daddr tW c tG.d.toNat = 0)
    ∧ (tG.grp = true → 64 ≤ tNextO.a.toNat ∧ tNextO.a.toNat < 80) := by
  refine ⟨at_tS, ?_, ?_, ?_, ?_, ?_, ?_, ?_, ?_⟩ <;> (try unfold nullCur) <;> (try unfold predDst) <;> decide

/-- A DENSE level of dimension 4 at VA 0x20000, G2 its address, G3 = 1; C2 and C3 at POS 1 of END 4. -/
def tDenW : Wave := { tW with exm := 7, regs := { tW.regs with
  g := [(2, 0x20000), (3, 1), (4, 0x20000)]
  c := [(2, curBits 0 false 0x20000 1 4), (3, curBits 0 false 0x20000 1 4)] } }
/-- The tables of the placed code, with bytes at VA 0x20000. -/
def tAt (w : Wave) (x n : Nat) : State :=
  let s := (tWith w).placeCode []
  { s with mem := memWrite s.mem 0x40020000 (bytesOf n x) }
/-- A walker operation answers, and its value and what follows satisfy p; or it faults, having drawn on no heap. -/
def okX {α : Type} (m : Walk α) (x : WSt) (p : α → WSt → Bool) : Bool :=
  match m.run x with
  | .ok (a, y) => p a y
  | _ => false
theorem okX_iff {α : Type} (m : Walk α) (x : WSt) (p : α → WSt → Bool) :
    okX m x p = true ↔ ∃ a y, walksFrom m x a y ∧ p a y = true := by
  unfold okX walksFrom
  constructor
  · intro h
    split at h
    · exact ⟨_, _, by assumption, h⟩
    · cases h
  · rintro ⟨a, y, h, hp⟩
    rw [h]
    exact hp
def faultsW {α : Type} (m : Walk α) (s : State) : Bool :=
  match m.run ⟨s, [], []⟩ with
  | .error (.fault _ [] _) => true
  | _ => false
theorem faultsW_iff {α : Type} (m : Walk α) (s : State) :
    faultsW m s = true ↔ ∃ f sn, m.run ⟨s, [], []⟩ = .error (.fault f [] sn) := by
  unfold faultsW
  constructor
  · intro h
    split at h
    · exact ⟨_, _, by assumption⟩
    · cases h
  · rintro ⟨f, sn, h⟩
    rw [h]
/-- The words of `DenseSide`. -/
def denseB (l : Lvl) (c : Cur) : Bool :=
  decide (l.kind = 0) && !c.done && decide (c.fin ≤ c.pos + l.dim) && decide (l.dim ≤ c.fin)
    && decide (c.pos < c.fin) && decide (c.fin < 2 ^ 40)
theorem denseB_iff (l : Lvl) (c : Cur) : denseB l c = true ↔ DenseSide l c := by
  simp only [denseB, Bool.and_eq_true, decide_eq_true_eq, Bool.not_eq_true']
  exact ⟨fun ⟨⟨⟨⟨⟨h1, h2⟩, h3⟩, h4⟩, h5⟩, h6⟩ => ⟨h1, h2, h3, h4, h5, h6⟩,
    fun h => ⟨⟨⟨⟨⟨h.kind, h.open_⟩, h.low⟩, h.dim⟩, h.high⟩, h.fits⟩⟩
def tDen : State := tAt tDenW (0x40000000000000000) 64
def tU (w : Wave) : Walker := walkerOf 0 w .grp
theorem wit_Cursors : At tDen 0 tDenW ∧ tDenW.guardGrp tG.guard = true
    ∧ ∃ l x1, walksFrom ((tU tDenW).openLevel (tDenW.greg tG.a.toNat).toNat false) ⟨tDen, [], []⟩ l x1
      ∧ (decide (l.kind = 0) && decide (((tDenW.greg tG.b.toNat).toNat + 1) * l.dim < 2 ^ 40)) = true :=
  ⟨⟨rfl, rfl⟩, by decide, (okX_iff _ _ _).1 (by decide +kernel)⟩
/-- With G2 misaligned the walker faults. -/
theorem wit_Cursors_fault :
    (∃ f sn, ((tU tDenW).openLevel 0x20001 false).run ⟨tDen, [], []⟩ = .error (.fault f [] sn))
    ∧ tDenW.sys.sup = false := ⟨(faultsW_iff _ _).1 (by decide +kernel), rfl⟩
theorem wit_Cursors_next : (tNextO.b.toNat, 40) ∈ [(tNextO.a.toNat, 32), (tNextO.b.toNat, 40)]
    ∧ (let c := Cur.ofNat (tDenW.creg tNextO.b.toNat).toNat
       c.kind = 0 ∧ c.daddr ≠ 0 ∧ c.app = false
        ∧ (∃ l x1, walksFrom ((tU tDenW).levelOf c tNextO.b.toNat) ⟨tDen, [], []⟩ l x1 ∧ denseB l c = true))
    ∧ tNextO.m.getLsbD 0 = false ∧ tDenW.active tNextO.guard ≠ []
    ∧ 64 ≤ tNextO.a.toNat ∧ tNextO.a.toNat < 80 :=
  ⟨by decide, ⟨by decide, by decide, by decide, (okX_iff _ _ _).1 (by decide +kernel)⟩,
    by decide, by decide, by decide, by decide⟩
theorem wit_Cursors_seek :
    let c := Cur.ofNat (tDenW.creg tG.a.toNat).toNat
    c.kind = 0 ∧ c.daddr ≠ 0 ∧ c.app = false ∧ tG.m = 0
      ∧ (∃ l x1, walksFrom ((tU tDenW).levelOf c tG.a.toNat) ⟨tDen, [], []⟩ l x1 ∧ (denseB l c
        && decide ((tDenW.greg tG.b.toNat).toNat < l.dim)) = true) :=
  ⟨by decide, by decide, by decide, by decide, (okX_iff _ _ _).1 (by decide +kernel)⟩
/-- A level with COUNT 2, whose entries lead to the level itself. -/
def tDesS : State := tAt tDenW 0x200000000000000000000000000000000000000000000000000000000000000040000000000000000 64
theorem wit_Cursors_desc :
    let c := Cur.ofNat (tDenW.creg tG.a.toNat).toNat
    ∃ l x1, walksFrom ((tU tDenW).levelOf c tG.a.toNat) ⟨tDesS, [], []⟩ l x1 ∧ (denseB l c
      && decide ((tDenW.greg tG.b.toNat).toNat < l.count)
      && okX ((tU tDenW).level (tDenW.greg tG.c.toNat).toNat false) x1 (fun ch _ => decide (ch.kind = 0)
        && decide (((tDenW.greg tG.b.toNat).toNat + 1) * ch.dim < 2 ^ 40))) = true :=
  (okX_iff _ _ _).1 (by decide +kernel)
/-- Two cursors on DENSE levels, within their fibres. -/
def sideDense : Option (Lvl × Cur) → Bool
  | some (l, c) => denseB l c
  | none => false
def sideAt (x : Option (Lvl × Cur)) : Nat := (x.map (fun p => denseAt p.1 p.2)).getD 0
def sideDim (x : Option (Lvl × Cur)) : Nat := (x.map (fun p => p.1.dim)).getD 0
theorem wit_Cursors_coit : tDenW.curCheck [Machine.Cell.grp] [(tG.a.toNat, 32), (tG.b.toNat, 40)]
      false false false = none ∧ tDenW.active tG.guard ≠ [] ∧ tG.a ≠ tG.b
    ∧ ∃ a x1, walksFrom ((tU tDenW).side (tDenW.curAt .grp tG.a.toNat) tG.a.toNat) ⟨tDen, [], []⟩ a x1
      ∧ okX ((tU tDenW).side (tDenW.curAt .grp tG.b.toNat) tG.b.toNat) x1 (fun b x2 =>
        sideDense a && sideDense b && decide (sideAt b ≤ sideDim a) && decide (sideAt a ≤ sideDim b)
          && okX ((tU tDenW).coitLanes tG (tDenW.active tG.guard) a b tDenW) x2 (fun _ _ => true)) = true :=
  ⟨by decide, by decide, by decide, (okX_iff _ _ _).1 (by decide +kernel)⟩
/-- Both cursors done at END. -/
def tDoneW : Wave := { tDenW with regs := { tDenW.regs with
  c := [(2, curBits 0 true 0x20000 4 4), (3, curBits 0 true 0x20000 4 4)] } }
def isDone : Option (Lvl × Cur) → Bool
  | some (_, c) => c.done
  | none => false
theorem wit_Cursors_done : tDoneW.curCheck [Machine.Cell.grp] [(tG.a.toNat, 32), (tG.b.toNat, 40)]
      false false false = none
    ∧ ∃ a x1, walksFrom ((tU tDoneW).side (tDoneW.curAt .grp tG.a.toNat) tG.a.toNat)
        ⟨tAt tDoneW 0x40000000000000000 64, [], []⟩ a x1
      ∧ (isDone a && okX ((tU tDoneW).side (tDoneW.curAt .grp tG.b.toNat) tG.b.toNat) x1 (fun b _ => isDone b))
        = true :=
  ⟨by decide, (okX_iff _ _ _).1 (by decide +kernel)⟩
/-- C2 on a CMP level of dimension 8 at VA 0x20000, with its coordinates at VA 0x20080, C3 on a DENSE level of
dimension 8 at VA 0x20040; one lane. -/
def tCmpW : Wave := { tDenW with exm := 1, regs := { tDenW.regs with
  c := [(2, curBits 1 false 0x20000 0 2), (3, curBits 0 false 0x20040 0 8)] } }
def tCmp : State := tAt tCmpW
  (1 + 8 * 2 ^ 64 + 0x20100 * 2 ^ 128 + 0x20080 * 2 ^ 192 + 8 * 2 ^ 512 * 2 ^ 64 + 5 * 2 ^ 512 * 2 ^ 512) 320
theorem wit_Cursors_drive : tCmpW.active tG.guard = [0]
    ∧ ∃ a x1, walksFrom ((tU tCmpW).side (tCmpW.curAt .grp tG.a.toNat) tG.a.toNat) ⟨tCmp, [], []⟩ a x1
      ∧ okX ((tU tCmpW).side (tCmpW.curAt .grp tG.b.toNat) tG.b.toNat) x1 (fun b x2 =>
        match a, b with
        | some (la, ca), some (lb, cb) => !ca.done && decide (la.kind = 1) && decide (lb.kind = 0)
          && decide (lb.dim ≤ cb.fin) && decide (cb.fin < 2 ^ 40)
          && okX ((tU tCmpW).coord la ca true) x2 (fun x x3 => decide (x < lb.dim)
            && okX ((tU tCmpW).entryPos la ca false) x3 (fun p x4 => decide (p < 2 ^ 64)
              && okX ((tU tCmpW).advance la ca) x4 (fun _ _ => true)))
        | _, _ => false) = true :=
  ⟨by decide, (okX_iff _ _ _).1 (by decide +kernel)⟩

/-- An appendable CCH level at VA 0x20000 with its pos array at VA 0x21000, and its TAIL; a heap of one
block, at VA 0x30000; C1 an append cursor on the level. -/
def tAppW : Wave := { tDenW with exm := 1, regs := { tDenW.regs with
  c := [(1, BitVec.ofNat 128 (6 + 16 + 0x20000))] } }
def tApp (tail : Nat) : State :=
  let s := tAt tAppW 0x2100000000000000000040000000000000806 64
  let m1 := memWrite s.mem 0x40020030 (bytesOf 8 tail)
  { s with
    mem := memWrite m1 0x40050000 (bytesOf 8 0x30000)
    ctxs := [(1, { placedCtx with heaps := [(0, ⟨0x40050000, 0, 0, 0, 0, 1, 0, 0⟩)] })] }
theorem wit_AppendCursors : At (tApp 0) 0 tAppW ∧ tAppW.guardGrp tG.guard = true
    ∧ ∃ l x1, walksFrom ((tU tAppW).openLevel (tAppW.greg tG.a.toNat).toNat true) ⟨tApp 0, [], []⟩ l x1
      ∧ (decide (l.kind = 6) && l.appok && okX ((tU tAppW).draw l) x1 (fun ch x2 =>
        okX ((tU tAppW).write ch (chunkHeader 0)) x2 (fun _ x3 =>
        okX ((tU tAppW).casTail (l.addr + 48) ch) x3 (fun old x4 => decide (old = 0)
          && okX ((tU tAppW).write (l.addr + 24) (bytesOf 8 ch)) x4 (fun _ x5 =>
            okX ((tU tAppW).write l.a0 (bytesOf l.pw 0)) x5 (fun _ _ => true)))))) = true :=
  ⟨⟨rfl, rfl⟩, by decide, (okX_iff _ _ _).1 (by decide +kernel)⟩
/-- With TAIL set the compare-and-swap finds it. -/
theorem wit_AppendCursors_busy : tAppW.sys.sup = false
    ∧ ∃ l x1, walksFrom ((tU tAppW).openLevel (tAppW.greg tG.a.toNat).toNat true) ⟨tApp 0x30000, [], []⟩ l x1
      ∧ (decide (l.kind = 6) && l.appok && okX ((tU tAppW).draw l) x1 (fun ch x2 =>
        okX ((tU tAppW).write ch (chunkHeader 0)) x2 (fun _ x3 =>
        okX ((tU tAppW).casTail (l.addr + 48) ch) x3 (fun old _ => decide (old ≠ 0))))) = true :=
  ⟨rfl, (okX_iff _ _ _).1 (by decide +kernel)⟩
/-- One entry is appended to an empty chunk at VA 0x30000; and the level is closed. -/
theorem wit_AppendCursors_put :
    let c := Cur.ofNat (tAppW.creg tG.d.toNat).toNat
    c.app = true ∧ c.daddr ≠ 0
      ∧ ∃ l x1, walksFrom ((tU tAppW).levelOf c tG.d.toNat) ⟨tApp 0x30000, [], []⟩ l x1
        ∧ (okX ((tU tAppW).num (l.addr + 48) 8) x1 (fun tail x2 => decide (tail ≠ 0) &&
          okX ((tU tAppW).num (tail + 16) 4) x2 (fun used x3 => decide (used ≤ 252)
            && okX ((tU tAppW).putAll l 0 ((tAppW.active tG.guard).map (tAppW.vgrp 4 tG.b.toNat))
              ⟨tail, used, c.pos⟩) x3 (fun p x4 =>
                okX ((tU tAppW).write (l.a0 + (c.fin + 1) * l.pw) (bytesOf l.pw p.pos)) x4 (fun _ _ => true))))
          && okX (tU tAppW).settle x1 (fun _ x2 =>
            okX ((tU tAppW).write (l.addr + 40) (bytesOf 8 c.pos)) x2 (fun _ x3 =>
              okX ((tU tAppW).write (l.addr + 48) (bytesOf 8 0)) x3 (fun _ _ => true)))) = true :=
  ⟨by decide, by decide, (okX_iff _ _ _).1 (by decide +kernel)⟩

/-- A value of zero and one that is not; a lane's coordinate 1 below DIM; the writes of one entry into the
chunk, and of one that opens a new chunk. -/
theorem wit_AppendCursors_entry : dropsZero 1 (2 ^ 32) ∧ ¬ dropsZero 1 1 ∧ ¬ dropsZero 7 0
    ∧ (∃ q, (tAppW.active tG.guard).map (tAppW.vgrp 4 tG.b.toNat) = [q] ∧ q % 2 ^ 64 < 4)
    ∧ tG.m.getLsbD 3 = false
    ∧ okX ((tU tAppW).write (0x30000 + 64) (bytesOf 16 0)) ⟨tApp 0x30000, [], []⟩ (fun _ x =>
        okX ((tU tAppW).write (0x30000 + 16) (bytesOf 4 1)) x (fun _ _ => true)) = true
    ∧ okX ((tU tAppW).openLevel (tAppW.greg tG.a.toNat).toNat true) ⟨tApp 0x30000, [], []⟩ (fun l x1 =>
        okX ((tU tAppW).draw l) x1 (fun b y1 =>
        okX ((tU tAppW).write b (bytesOf 8 0 ++ bytesOf 8 0 ++ bytesOf 48 0)) y1 (fun _ y2 =>
        okX ((tU tAppW).write 0x30000 (bytesOf 8 b)) y2 (fun _ y3 =>
        okX ((tU tAppW).write (l.addr + 48) (bytesOf 8 b)) y3 (fun _ y4 =>
        okX ((tU tAppW).write (b + 64) (bytesOf 16 0)) y4 (fun _ y5 =>
        okX ((tU tAppW).write (b + 16) (bytesOf 4 1)) y5 (fun _ _ => true))))))) = true := by
  unfold dropsZero
  exact ⟨by decide, by decide, by decide, ⟨_, rfl, by decide⟩, by decide, by decide +kernel, by decide +kernel⟩

/-- A volume descriptor at VA 0x20000: its root node at VA 0x30000, all zero; 4-byte elements; BG 9; limits
7, 7, 7. -/
def tVolW : Wave := { tDenW with exm := 1 }
/-- The header and the brick's entry stand in L1 already. -/
def tVol : State :=
  let s := tAt tVolW 0x1c0003800070000000000000000000000000000000900000000000400000000000000030000 64
  s.modCore (slotCore 0) (fun k => { k with l1 :=
    [(0x4002000, ⟨0x400000000000000030000, 0, 1, 0, 0⟩), (0x4002001, ⟨0x9, 0, 1, 0, 0⟩),
     (0x4002002, ⟨0x1c000380007, 0, 1, 0, 0⟩), (0x4002003, ⟨0, 0, 1, 0, 0⟩),
     (0x4003000, ⟨0, 0, 1, 0, 0⟩)] })
def tV : Vol := ⟨0x20000, 0x30000, 0, 4, 0, 9, 7, 7, 7⟩
theorem wit_Volumes_empty : At (tWith { tW with exm := 0 }) 0 { tW with exm := 0 }
    ∧ ({ tW with exm := 0 } : Wave).active tO.guard = [] := ⟨at_tWith _, by decide⟩
def tVolO : WOp := { tO with b := 8 }
theorem wit_Volumes : At tVol 0 tVolW ∧ tVolW.active tVolO.guard ≠ []
    ∧ (tVolW.greg tVolO.a.toNat).toNat % 64 = 0
    ∧ tVol.heldBy tVolW.gang false false (tVolW.greg tVolO.a.toNat).toNat 64 = none
    ∧ (match tVol.readG (tVol.waveObs 0 tVolW) (pathOf 0 false false) false (tVolW.greg tVolO.a.toNat).toNat 64 with
      | (s1, .ok bs) =>
        let els := (tVolW.active tVolO.guard).filterMap (fun l =>
          (s1.volPeek 0 tVolW tV (tVolW.vgrp 2 tVolO.b.toNat l)).map (fun a => (a, tV.esize)))
        let r := (tVolW.active tVolO.guard).foldl (fun (x : VRun) l => x.lane 0 tVolW tVolO tV .load l)
          ⟨s1, tVolW, [], false, []⟩
        decide (Vol.parse (tVolW.greg tVolO.a.toNat).toNat (natOf bs) = some tV)
          && decide (tV.esize ≤ 4 * 2 ^ (tVolO.m.toNat % 4))
          && decide (tVol.fpHold tVolW els false false = none) && !tVol.accBusy 0 tVolW els
          && !tVol.accBusy 0 tVolW [((tVolW.greg tVolO.a.toNat).toNat, 64)]
          && !tVol.accBusy 0 tVolW (r.seen.map (fun p => (p.1, p.2.1))) && !tVol.redgBusy 0 && !r.held
          && r.faults.isEmpty
          && r.seen.all (fun p => (tVol.heldBy tVolW.gang p.2.2 false p.1 p.2.1).isNone)
      | (_, .error _) => false) = true := by
  refine ⟨⟨rfl, rfl⟩, by decide, by decide, by decide +kernel, ?_⟩
  decide +kernel
/-- Its coordinates are in the limits and their brick is absent; x = 8 is outside. -/
theorem wit_Volumes_lane : tV.outside (tVolW.vgrp 2 tVolO.b.toNat 0) = false
    ∧ (match tVol.volBrick (tVol.waveObs 0 tVolW) tV .load (slotCore 0) (tVolW.vgrp 2 tVolO.b.toNat 0) with
      | (_, .absent) => true
      | _ => false) = true
    ∧ (match tVol.volBrick (tVol.waveObs 0 tVolW) tV .probe (slotCore 0) (tVolW.vgrp 2 tVolO.b.toNat 0) with
      | (_, .absent) => true
      | _ => false) = true
    ∧ tV.limx < 8 % 2 ^ 19 ∧ tV.outside 8 = true ∧ tVolW.guardGrp tG.guard = true ∧ (tW.greg tG.a.toNat).toNat < 2 ^ 16 := by decide +kernel

/-- The CLB holds the brick of coordinate 0, at VA 0x20000, whose element can be read and written. -/
def tVolB : State := tVol.modCore (slotCore 0) (fun k => { k with clb := [(clbKey tV.vid 0, 0x20000)] })
theorem wit_Volumes_values : tV.outside (tVolW.vgrp 2 tVolO.b.toNat 0) = false
    ∧ (∃ s1, tVolB.volBrick (tVolB.waveObs 0 tVolW) tV .load (slotCore 0) (tVolW.vgrp 2 tVolO.b.toNat 0)
        = (s1, Step4.found 0x20000))
    ∧ (∃ s2 ps, tVolB.check (tVolB.waveObs 0 tVolW) none .read false 0x20000 tV.esize = (s2, .ok ps))
    ∧ (∃ s2 ps, tVolB.check (tVolB.waveObs 0 tVolW) none .write false 0x20000 tV.esize = (s2, .ok ps)) :=
  ⟨by decide, ⟨_, pairOf (by decide +kernel)⟩, okPair _ (by decide +kernel), okPair _ (by decide +kernel)⟩

/-! ## Witnesses: Filigree -/

/-- Q3 bound to a queue of 8-byte entries at 0; the die's Filigree of context 1, with n commands. -/
def tFil (f : Filigree) : State := { tQS (tQue 0 4) with dies := [(0, { Die.init with fil := f })] }
def tCmd (fn : Nat) (ga gc : W64) : FgCmd := ⟨fn, ga, gc, true, 0, 0, ⟨1, 0, some 0, none, 1⟩, none, 0, 0⟩
def tFilA (n : Nat) : State :=
  tFil { Filigree.init with owner := 1, cmds := List.replicate n (tCmd 0 0 0) }
theorem wit_FiligreeAppend : (Instr.fgCfg, 0, 1) ∈ fgOps ∧ (Instr.fgLoad, 1, 128) ∈ fgOps
    ∧ At (tFilA 0) 0 tQW ∧ inGang (tFilA 0) tQW (tQue 0 4) ∧ tQW.guardGrp tG.guard = true
    ∧ tS.fgOwns 0 tW = false ∧ (tFilA 0).fgOwns 0 tQW = true ∧ boundTo tQW (tQue 0 4) tG.b.toNat (some 0) 0
    ∧ (tQW.greg tG.a.toNat).toNat % 128 = 0 ∧ (tFilA 0).relBusy 0 = false ∧ (tFilA 16).fgOwns 0 tQW = true
    ∧ 16 ≤ ((tFilA 16).die 0).fil.cmds.length :=
  ⟨by simp [fgOps], by simp [fgOps], ⟨rfl, rfl⟩, rfl, by decide, by decide, by decide,
    ⟨0, rfl, rfl, by decide⟩, by decide, by decide, by decide, by decide⟩
/-- A store is not yet home. -/
theorem wit_FiligreeAppend_busy : ({ tFilA 0 with redgs := [tRedg] } : State).relBusy 0 = true
    ∧ (tFilA 16).relBusy 0 = false := by decide

/-- One command at the head of a list, with a configuration of nb bits. -/
def tFg (nb : Nat) (c : FgCmd) : State :=
  tFil { Filigree.init with owner := 1, nb := nb, ncol := 2, det := true, cmds := [c] }
theorem tFg_at (nb fn : Nat) (ga gc : W64)
    (h : (tFg nb (tCmd fn ga gc)).fgOn 0 (tCmd fn ga gc) = true) :
    AtFil (tFg nb (tCmd fn ga gc)) 0 fn (tCmd fn ga gc) [] := ⟨rfl, rfl, rfl, rfl, h⟩
/-- No configuration; a configuration of 8 bits and 3 colours; the clamp of bit 3; the reading of bits 2 to 5. -/
theorem wit_FiligreeCommands : AtFil (tFg 0 (tCmd 6 0 0)) 0 6 (tCmd 6 0 0) []
    ∧ ((tFg 0 (tCmd 6 0 0)).die 0).fil.nb = 0
    ∧ (Instr.filExecRead, 6) ∈ filOps ∧ AtFil (tFg 0 (tCmd 0 0x10000000240008 0)) 0 0 (tCmd 0 0x10000000240008 0) []
    ∧ (tCmd 0 0x0000100000240008 0).ga.toNat = 8 + 2 * 2 ^ 17 + (if true then 2 ^ 21 else 0)
        + (0x1000 : BitVec 16).toNat * 2 ^ 32
    ∧ AtFil (tFg 8 (tCmd 3 0x30003 0)) 0 3 (tCmd 3 0x30003 0) [] ∧ ((tFg 8 (tCmd 3 0x30003 0)).die 0).fil.nb = 8
    ∧ (tCmd 3 0x30003 0).ga.toNat = 3 + (if true then 2 ^ 16 else 0) + (if true then 2 ^ 17 else 0)
    ∧ (tCmd 6 0 0x40002).gc.toNat = 2 + 4 * 2 ^ 16 :=
  ⟨tFg_at _ _ _ _ (by decide), rfl, by simp [filOps], tFg_at _ _ _ _ (by decide), by decide, tFg_at _ _ _ _ (by decide), rfl, by decide, by decide⟩
/-- Two records of zeros at VA 0x20000 are a table of 2 colours; a record of colour 2 is not. READ and CNT
store at VA 0x20000. -/
def tFgMap (c : FgCmd) (x : Nat) : State :=
  let s := tAt tQW x 256
  { s with dies := (tFg 2 c).dies }
theorem wit_FiligreeCommands_memory :
    let c := tCmd 1 0x20000 0
    (match (tFgMap c 0).readG ((tFgMap c 0).fgObs 0 c) .die false c.ga.toNat 256 with
      | (_, .ok bs) => (fgTable 2 2 (fgRecords 2 bs)).isOk
      | _ => false) = true
    ∧ (match (tFgMap c 0x20000).readG ((tFgMap c 0x20000).fgObs 0 c) .die false c.ga.toNat 256 with
      | (_, .ok bs) => !(fgTable 2 2 (fgRecords 2 bs)).isOk
      | _ => false) = true
    ∧ ((tFgMap c 0).writeG ((tFgMap c 0).fgObs 0 c) .engine false c.ga.toNat [0, 0, 0, 0]).2 = none := by
  decide +kernel
/-- The last colour of the command's last sweep, and of one before it; ENTROPY mode. -/
def tFilLast (det : Bool) : State :=
  tFil { Filigree.init with owner := 1, nb := 2, ncol := 1, det := det, cmds := [tCmd 5 1 0] }
theorem wit_FiligreeColour_last : AtFil (tFilLast true) 0 5 (tCmd 5 1 0) []
    ∧ ((tFilLast true).die 0).fil.ncol = (tCmd 5 1 0).colour + 1 ∧ (tCmd 5 1 0).left ≤ 1
    ∧ ¬ ({ tCmd 5 2 0 with left := 2 } : FgCmd).left ≤ 1 :=
  ⟨⟨rfl, rfl, rfl, rfl, by decide⟩, by decide, by decide, by decide⟩
theorem wit_FiligreeColour_entropy :
    let s := tFil { Filigree.init with owner := 1, nb := 2, ncol := 2, det := false, cmds := [tCmd 5 1 0] }
    AtFil s 0 5 (tCmd 5 1 0) [] ∧ (s.die 0).fil.det = false ∧ (tCmd 5 1 0).colour + 1 < (s.die 0).fil.ncol :=
  ⟨⟨rfl, rfl, rfl, rfl, by decide⟩, by decide, by decide⟩
theorem wit_FiligreeColour : AtFil (tFg 2 (tCmd 5 1 0)) 0 5 (tCmd 5 1 0) []
    ∧ ((tFg 2 (tCmd 5 1 0)).die 0).fil.nb ≠ 0 ∧ ((tFg 2 (tCmd 5 1 0)).die 0).fil.det = true
    ∧ (tCmd 5 1 0).ga.toNat < 2 ^ 32 ∧ (tCmd 5 1 0).ga.toNat ≠ 0
    ∧ (tCmd 5 1 0).colour + 1 < ((tFg 2 (tCmd 5 1 0)).die 0).fil.ncol :=
  ⟨tFg_at _ _ _ _ (by decide), by decide, by decide, by decide, by decide, by decide⟩
theorem wit_FiligreeCompletion : ∃ c : FgCmd, c = { tCmd 4 0 0 with status := some (0, 0) }
    ∧ ((tFg 2 c).die 0).fil.cmds = [c] ∧ c.owner.gang = some 0 ∧ (tFg 2 c).gangs.find 0 = some (tQue 0 4)
    ∧ (tQue 0 4).queOk c.queue (some 0) = true ∧ 0 < ((tQue 0 4).que c.queue).allow
    ∧ (tFg 2 c).islandOn (filIsland 0) = true ∧ ∀ p ∈ (tFg 2 c).waves, p.2.wait = none :=
  ⟨_, rfl, rfl, rfl, rfl, by decide, by decide, by decide, by decide⟩

/-! ## Witnesses: system instructions, the host's queues -/

/-- A SYSRD or SYSWR of the register n, or of an array by an index in G3. -/
def tSysO (n : Nat) (ix : Bool) : WOp :=
  { tG with c := BitVec.ofNat 8 n, m := BitVec.ofNat 8 (n / 256 + if ix then 16 else 0) }
def tIxW (i : W64) : Wave := { tTrapW with regs := { tTrapW.regs with g := [(3, i)] } }
theorem wit_SystemRegisters : ∀ n ∈ [0x080, 0x081, 0x0E0, 0x0C3, 0x0D0, 0x047, 0x01B, 0x01C, 0x7FF, 0x800, 0x091],
    At (tWith tTrapW) 0 tTrapW ∧ inGang (tWith tTrapW) tTrapW placedGang
    ∧ tTrapW.guardGrp (tSysO n false).guard = true ∧ (tSysO n false).m.getLsbD 4 = false
    ∧ n = srnBase (tSysO n false) ∧ tTrapW.sys.inTrap = true ∧ (tWith tTrapW).ctxs.find placedGang.ctx = some placedCtx := by
  intro n h
  refine ⟨at_tWith _, rfl, rfl, ?_, ?_, rfl, rfl⟩ <;> revert n <;> decide
theorem wit_SystemRegisters_listed : sysListed 0x01B = true ∧ sysListed 0x01C = false ∧ sysListed 0x7FF = false
    ∧ sysListed 0x092 = true ∧ tW.sys.inTrap = false := by decide
/-- HARV.MAP by an index: 2 lies in the array, 4 does not. -/
theorem wit_SystemIndexes : At (tWith (tIxW 2)) 0 (tIxW 2) ∧ (tIxW 2).guardGrp (tSysO 0x088 true).guard = true
    ∧ (tSysO 0x088 true).m.getLsbD 4 = true ∧ ((tIxW 2).greg (tSysO 0x088 true).b.toNat).toNat < sysArray 0x088
    ∧ srnBase (tSysO 0x088 true) = 0x088 ∧ sysArray 0x088 ≤ ((tIxW 4).greg (tSysO 0x088 true).b.toNat).toNat
    ∧ tW.guardGrp (.gp 0 false) = false := ⟨at_tWith _, rfl, by decide, by decide, by decide, by decide, by decide⟩

/-- In the trap handler, with a stack as deep as the record says, and deeper; G2 a multiple of 8, and not. -/
def tDeepW : Wave := { tTrapW with stack := [⟨1, 0, 0⟩] }
theorem wit_Returns_trap : At (tWith tTrapW) 0 tTrapW ∧ tTrapW.guardGrp tG.guard = true ∧ tTrapW.sys.inTrap = true
    ∧ tTrapW.stack.length = (tTrapW.sys.trec.extractLsb' 48 6).toNat ∧ (tTrapW.greg tG.a.toNat).toNat % 8 = 0
    ∧ ({ tTrapW with regs := { tTrapW.regs with g := [(2, 4)] } } : Wave).greg 2 = 4
    ∧ tDeepW.stack.length ≠ (tDeepW.sys.trec.extractLsb' 48 6).toNat :=
  ⟨at_tWith _, rfl, rfl, by decide +kernel, by decide, by decide, by decide +kernel⟩
/-- In the lane handler: of 64 parked lanes two are in EXM; none; and a stack that is deeper. Lanes 0 and 1 have
faulted at PC 0x10000 and 0x10008; a wave with none to replay. -/
theorem wit_Returns_lanes :
    let w : Wave := { tLaneW with exm := 3 }
    At (tWith w) 0 w ∧ w.sys.inTrap = false ∧ w.stack.length = w.sys.hdepth ∧ w.stack ≠ []
      ∧ w.live &&& ~~~(w.park &&& ~~~(w.exm &&& w.park)) ≠ 0
      ∧ ({ w with exm := 0 } : Wave).live &&& ~~~(w.park &&& ~~~((0 : W64) &&& w.park)) = 0
      ∧ tW.stack.length = 0 ∧ tW.sys.hdepth ≠ ({ tW with stack := [⟨1, 0, 0⟩] } : Wave).stack.length :=
  ⟨at_tWith _, by decide, by decide, by decide, by decide, by decide, by decide, by decide⟩
theorem wit_Returns_replay :
    let w : Wave := { tLaneW with exm := 3, sys := { tLaneW.sys with frec := [(0, 0x10000), (1, 0x10008)] } }
    let v := toReplay w
    v.rpl.getLsbD 0 = true ∧ v.rpl.getLsbD 1 = true ∧ recPc v 0 = 0x10000 ∧ recPc v 1 = 0x10008
      ∧ (∀ l < v.width, v.rpl.getLsbD l = true → recPc v 0 ≤ recPc v l)
      ∧ (∀ l < v.width, ({ v with rpl := 0 } : Wave).rpl.getLsbD l = false) ∧ v.stack ≠ [] := by decide +kernel

theorem wit_InvalidationsAndPool : At tS 0 tW ∧ tW.guardGrp tG.guard = true ∧ tS.relBusy 0 = false
    ∧ canonical (tW.greg tG.a.toNat).toNat = true ∧ canonical 0x80000000000000 = false
    ∧ tS.ctxs.find 1 = some placedCtx ∧ (7 : BitVec 8).toNat ≤ 7 ∧ 7 < (8 : BitVec 8).toNat :=
  ⟨at_tS, rfl, by decide, by decide, by decide, rfl, by decide, by decide⟩
/-- The pool unit's oldest request, of lane 3. -/
def tReq (va : W64) : PoolReq := ⟨1, 0, 3, 1, va, false⟩
theorem wit_InvalidationsAndPool_unit : ({ tS with poolReqs := [tReq 0] } : State).poolReqs.find? (fun x => x.ctx = 1)
      = some (tReq 0) ∧ ({ tS with poolReqs := [tReq 0] } : State).waves.find (tReq 0).wave = some tW
    ∧ canonical (tReq 0x80000000000000).va.toNat = false := ⟨rfl, rfl, by decide⟩

/-- A reduction's update that is not yet performed; a host's command with nothing outstanding. -/
theorem wit_InvalidationsAndPool_busy : ({ tS with redgs := [tRedg] } : State).relBusy 0 = true
    ∧ (∀ r ∈ tS.redgs, r.ctx ≠ 1) ∧ ∀ n y, tS.cores.find n = some y → y.wcb = [] :=
  ⟨by decide, by decide, fun n y h => by cases h⟩
/-- VA 0x20000000 leads to a POOL entry, with a page of the pool left in the device's window, and with none. -/
def tPoolS (n : Nat) : State :=
  let s := tS.placeCode []
  { s with
    mem := memWrite (memWrite s.mem (placedTable + 8) (bytesOf 8 0x20020003)) 0x20020000 (bytesOf 8 0x117C)
    ctxs := [(1, { placedCtx with pool := 0x50000000, pooln := n })]
    poolReqs := [tReq 0x20000000] }
theorem wit_InvalidationsAndPool_map :
    let s := tPoolS 1
    let ob : Obs := ⟨1, dieMask (s.devDies 1 0), 4 + s.servingIo 1 0, none, none⟩
    s.waves.find (tReq 0).wave = some tW ∧ s.gangs.find tW.gang = some placedGang
      ∧ s.poolOn 1 0 ob 0x20000000 = true ∧ canonical 0x20000000 = true
      ∧ (match ({ s with poolReqs := [] } : State).poolWalk ob 0x20000000 [0, 1, 2] placedRoot with
        | .pool pa e => decide (pa = 0x20020000) && decide (e = 0x117C)
        | _ => false) = true
      ∧ s.inWindow 1 0 0x50000000 65536 = true ∧ (tPoolS 0).inWindow 1 0 0x50000000 65536 = true :=
  ⟨rfl, rfl, by decide +kernel, by decide, by decide +kernel, by decide +kernel, by decide +kernel⟩

/-- A kernel table at VA 0x20000 whose entry 0 names the descriptor at 0x20100: version 4, 256 registers,
64 KiB of scratch, code and copy programs of 16 bytes at 0x10000; a record at VA 0x20200. -/
def tKd : Nat := 0x10000000000000000001000000000000100000000000000000000000000000001000000000010000000000000004020000004
def tLaunchRec : Nat := 0x10000000000000000
def tKit (s : State) (r : Nat) : State :=
  let s1 := s.placeCode []
  { s1 with
    mem := memWrite (memWrite (memWrite s1.mem 0x40020000 (bytesOf 8 0x20100)) 0x40020100 (bytesOf 128 tKd))
      0x40020200 (bytesOf 128 r)
    ctxs := [(1, { placedCtx with kit := 0x20000, kitn := 1 })] }
/-- G2 the record's address; VA 2³² has no page. -/
def tLauW (a : W64) : Wave := { tW with regs := { tW.regs with g := [(2, a)] } }
def tLauS : State := tKit (tWith (tLauW 0x20200)) tLaunchRec
def tLauS0 : State := tLauS.releasePoint 0 (tLauW 0x20200) false
theorem wit_Launches : At tLauS 0 (tLauW 0x20200) ∧ inGang tLauS (tLauW 0x20200) placedGang
    ∧ (tLauW 0x20200).guardGrp tG.guard = true ∧ tLauS.relBusy 0 = false
    ∧ tLauS.slicesOn (tLauS.waveObs 0 (tLauW 0x20200)) (tLauS0.launchReads (tLauS0.waveObs 0 (tLauW 0x20200)) 0x20200) = true
    ∧ (∀ p ∈ tLauS0.launchReads (tLauS0.waveObs 0 (tLauW 0x20200)) 0x20200,
        tLauS.heldBy 0 false false p.1 p.2 = none)
    ∧ ((tLauW 0x20200).greg tG.a.toNat).toNat % 64 = 0 ∧ ((tLauW 0x20210).greg tG.a.toNat).toNat % 64 ≠ 0
    ∧ (match tLauS0.readG (tLauS0.waveObs 0 (tLauW 0x20200)) .die false 0x20200 128 with
      | (s1, .ok bs) =>
        let r := natOf bs
        decide (r = tLaunchRec) && decide (rKind r = 0) && !rEG r && !rEP r && !rEJ r && recOk r
          && (match s1.resolve (tLauS0.waveObs 0 (tLauW 0x20200)) .die false placedGang.dev r with
            | (s2, .ok _) => (s2.ctxs.find placedGang.ctx).any (fun c =>
                decide ((c.devq.filter (fun e => e.dev = placedGang.dev)).length < 1024))
            | _ => false)
          && (s1.entry? placedGang.ctx placedGang.launch).isSome
      | _ => false) = true
    ∧ (match tLauS0.readG (tLauS0.waveObs 0 (tLauW 0x20200)) .die false 0x100000000 128 with
      | (_, .error _) => true
      | _ => false) = true := by
  refine ⟨⟨rfl, rfl⟩, rfl, rfl, ?_, ?_, ?_, ?_, ?_, ?_, ?_⟩ <;> decide +kernel
def tOff : Map Island := (List.range 960).map (fun i => (i, { Island.init i with stNow := 1 }))
/-- An update not yet performed; the islands of the slices are off; a footprint of job 7 over the record. -/
theorem wit_Launches_waits : ({ tLauS with redgs := [tRedg] } : State).relBusy 0 = true
    ∧ (let s : State := { tLauS with pkg := { tLauS.pkg with islands := tOff } }
       s.relBusy 0 = false ∧ s.slicesOn (s.waveObs 0 (tLauW 0x20200))
         (tLauS0.launchReads (tLauS0.waveObs 0 (tLauW 0x20200)) 0x20200) = false)
    ∧ (let s := tLauS.modCore 0 (fun c => { c with fps := [⟨7, 0, [⟨0x20200, 64, true, false⟩]⟩] })
       (tLauS0.launchReads (tLauS0.waveObs 0 (tLauW 0x20200)) 0x20200).findSome?
         (fun p => s.heldBy 0 false false p.1 p.2) = some 7) := by decide +kernel
/-- Malformed records; a cancel of every launch, and of launch 1; an entry beyond the table. -/
theorem wit_Launches_records : recOk (tLaunchRec + 0x1000) = false ∧ 2 ≤ rKind 3 ∧ rEG (2 ^ 250 * 64) = false
    ∧ (recOk 0x101 = true ∧ rKind 0x101 = 1 ∧ rDone 0x101 = 0 ∧ rEG 0x101 = false ∧ rEP 0x101 = false ∧ rEJ 0x101 = false)
    ∧ covered placedEntry 0 0 ∧ ¬ covered placedEntry 1 77
    ∧ (match tLauS0.resolve (tLauS0.waveObs 0 (tLauW 0x20200)) .die false 0 (tLaunchRec + 2 ^ 32) with
      | (_, .error st) => decide (st = 3)
      | _ => false) = true := by
  refine ⟨by decide +kernel, by decide, by decide +kernel, by decide +kernel, .inl rfl, ?_, by decide +kernel⟩
  unfold covered
  decide +kernel

/-- A bound queue with one record, at its ring in HBM. -/
def tHq : Queue := ⟨true, 0x50010000, false, 0, 0x50000000, 2, 1, 0, 0, 0, 0, 0⟩
def tHqS (x : Queue) (r : Nat) : State :=
  let s := tKit State.reset 0
  { s with
    mem := memWrite s.mem 0x50000000 (bytesOf 128 r)
    entries := []
    ctxs := [(1, { placedCtx with kit := 0x20000, kitn := 1, queues := [(0, x)] })] }
theorem wit_HostQueues : (tHqS tHq 0).ctxs.find 1 = some { placedCtx with kit := 0x20000, kitn := 1, queues := [(0, tHq)] }
    ∧ 0 < 64 * ((tHqS tHq 0).devs placedCtx).length ∧ (1 : BitVec 64).getLsbD 0 = true
    ∧ (placedCtx.queues.find 0) = none ∧ tHq.v = true ∧ (2 : BitVec 64).getLsbD 0 = false
    ∧ ({ tHq with unbind := true } : Queue).unbind = true ∧ (tHqS { tHq with unbind := true } 0).entries = [] :=
  ⟨rfl, by decide, by decide, rfl, rfl, by decide, rfl, rfl⟩
/-- On a CXL link the front end takes the descriptor's line. -/
theorem wit_HostQueues_line :
    let s : State := { tHqS tHq 0 with pkg := { Pkg.init with cxl := [true, true] } }
    nth s.pkg.cxl (s.servingIo 1 0) false = true
      ∧ (List.replicate 64 (0 : Byte)).length = 64 ∧ descAt s tHq.daddr
      ∧ fld (natOf (List.replicate 64 (0 : Byte))) 256 3 = 0 :=
  ⟨by decide, by decide, ⟨by decide, by
    have h : ∃ ds, State.paKind { tHqS tHq 0 with pkg := { Pkg.init with cxl := [true, true] } } tHq.daddr = .hbm ds := ⟨_, rfl⟩
    exact h⟩, by decide⟩

def tIo : Nat := (tHqS tHq 0).servingIo 1 0
def tCand (r : Nat) : Cand := ⟨1, 0, 0, false, rPrio r, rKind r, 256, r⟩
/-- A copy record of the program at 0x10000, a cancel of a queue's launches, and a replacement of entry 0; the
ill-formed ones set a reserved bit. -/
def tCopyRec : Nat := 0x1000000000000000000000000000000000003
def tCancelRec : Nat := 1 + 0x100
def tReplRec (i : Nat) : Nat := 2 + i * 2 ^ 32
theorem wit_HostQueues_next : ∀ r ∈ [tLaunchRec, tCopyRec, tCancelRec, tReplRec 0, tReplRec 1, tLaunchRec + 0x1000,
      tCopyRec + 0x1000, tCancelRec + 0x1000, tReplRec 0 + 0x1000],
    NextRecord (tHqS tHq r) tIo (rKind r) (tCand r) tHq
    ∧ (taken (tHqS tHq r) tIo (tCand r) tHq).deadQueue 1 0 = none := by
  intro r h
  refine ⟨⟨?_, rfl, rfl, ?_, ?_⟩, ?_⟩ <;> revert r <;> decide +kernel
theorem wit_HostQueues_forms : recOk tLaunchRec = true ∧ recOk tCopyRec = true ∧ recOk tCancelRec = true
    ∧ recOk (tReplRec 0) = true ∧ recOk (tLaunchRec + 0x1000) = false ∧ recOk (tCopyRec + 0x1000) = false
    ∧ recOk (tCancelRec + 0x1000) = false ∧ recOk (tReplRec 0 + 0x1000) = false
    ∧ rKind tLaunchRec = 0 ∧ rKind tCancelRec = 1 ∧ rKind (tReplRec 0) = 2 ∧ rKind tCopyRec = 3
    ∧ (1 ≤ rKidx (tReplRec 1)) ∧ rKidx (tReplRec 0) < 1 := by decide +kernel
/-- A child at the head of a device-side queue. -/
theorem wit_HostQueues_child :
    let e : Entry := { placedEntry with child := true }
    let c : Cand := ⟨1, 0, 0, true, e.prio, 0, 0, 0⟩
    let s : State := { tHqS tHq 0 with ctxs := [(1, { placedCtx with devq := [e] })] }
    (match s.feChoose tIo with
      | some x => x.child && decide (x.kind = 0) && decide (x.ctx = 1)
          && decide ((placedCtx.devq ++ [e]).find? (fun y => y.dev = x.dev) = some e)
      | none => false) = true ∧ c.child = true ∧ (∀ l, s.level? 1 e.id = some l → l.stopped = false) :=
  ⟨by decide +kernel, rfl, fun l h => by cases h⟩
/-- A record that resolves, in the state after its levels are opened. -/
def tResolves (r : Nat) : Bool :=
  let s1 := taken (tHqS tHq r) tIo (tCand r) tHq
  let q := s1.levelsFor 1 0 0
  match q.1.resolve (q.1.frontObs 1 0) .engine true 0 r with
  | (s2, .ok _) => (s2.queue? 1 0).isSome
  | _ => false
theorem wit_HostQueues_resolves : tResolves tLaunchRec = true ∧ tResolves tCopyRec = true
    ∧ (let s1 := taken (tHqS tHq (tReplRec 0)) tIo (tCand (tReplRec 0)) tHq
       (s1.replaceEntry (s1.frontObs 1 0) 0x20000 (bytesOf 8 0)).2 = none) := by decide +kernel

/-! ## Witnesses: Clasp, contexts -/

/-- A launch that waits for admission; one that asks for its gang; a copy. -/
def tWaitE : Entry := { placedEntry with admitted := false, nextGang := 0, live := 0 }
def tWantE : Entry := { placedEntry with nextGang := 0, live := 0 }
def tEntS (e : Entry) : State := { State.reset with ctxs := [(1, placedCtx)], entries := [e] }
theorem wit_ClaspMoves_admit : hasEntry (tEntS tWaitE) 0 tWaitE ∧ tWaitE.admitted = false ∧ tWaitE.held = false
    ∧ tWaitE.cancelled = false ∧ tWaitE.edges.all (tEntS tWaitE).edgeMet = true ∧ (tEntS tWaitE).claspOn tWaitE = true
    ∧ (tEntS { tWaitE with copy := true }).claspOn { tWaitE with copy := true } = true ∧ tWaitE.copy = false
    ∧ minBy (tEntS { tWaitE with copy := true }).running
        (ioEngines ((tEntS { tWaitE with copy := true }).servingIo 1 0)) = some (1024 + 32 * tIo)
    ∧ ((tEntS { tWaitE with copy := true }).engine (1024 + 32 * tIo)).freeSlot = some 0 :=
  ⟨rfl, rfl, rfl, rfl, rfl, rfl, by decide +kernel, rfl, by decide +kernel, by decide +kernel⟩
theorem wit_ClaspMoves_place : hasEntry (tEntS tWantE) 0 tWantE ∧ (tEntS tWantE).wants tWantE = true
    ∧ (tEntS tWantE).imagesOf tWantE = [] ∧ (tEntS tWantE).turn tWantE = true ∧ tWantE.coop = false
    ∧ tWantE.order = 0 ∧ (tEntS tWantE).gangPos tWantE tWantE.nextGang (fun _ => List.range tWantE.wgw) (fun _ => true) = some (0, [0])
    ∧ (tEntS tWantE).gangOn [0] (((tEntS tWantE).images.find (tEntS tWantE).nextGang).any (·.fil.isSome)) = true
    ∧ tWantE.wgw = 1
    ∧ (tEntS tWantE).waves.find (0 * 64 + 0) = none :=
  ⟨rfl, by decide +kernel, rfl, by decide +kernel, rfl, rfl, by decide +kernel, by decide +kernel, rfl, rfl⟩
/-- On a device of one die, a gang on every core that takes all its scratch, and a launch of a higher priority
that wants a core. -/
def tFullS : State :=
  let c : Ctx := { placedCtx with view := 2, regs := { CtxRegs.init with
    lkSlot := 1000, lkSlots := 200, lkBase := 0x60000000 } }
  let e : Entry := { placedEntry with prio := 1, nextGang := 0, live := 0, id := 2, order := 1 }
  { State.reset with
    ctxs := [(1, c)]
    gangs := (List.range 36).map (fun i => (i, { placedGang with cores := [i], scr := 393216 }))
    entries := [placedEntry, e] }
theorem wit_ClaspMoves_preempt : (tFullS.gangs.find 0).any (fun g => g.phase = .resident) = true
    ∧ (tFullS.entries.map tFullS.victims).find? (fun vs => vs.contains 0) = some [0] := by decide +kernel
theorem wit_ClaspMoves_retire : tS.gangs.find 0 = some placedGang ∧ placedGang.phase ≠ .saved
    ∧ ({ tS with waves := [] } : State).gangWaves 0 = [] ∧ ({ tS with waves := [] } : State).gangBusy 0 = false
    ∧ ({ tS with waves := [] } : State).cancelAsked placedGang = false := ⟨rfl, by decide, rfl, by decide, by decide⟩
/-- A gang asked to stop whose wave has stopped, in a context with an arena of one slot. -/
def tStopG : Gang := { placedGang with phase := .stopping }
def tArena : Ctx := { placedCtx with regs := { CtxRegs.init with lkBase := 0x60000000, lkSlot := 1000, lkSlots := 1 } }
def tStopS : State := { tWith { tW with stopped := true } with gangs := [(0, tStopG)], ctxs := [(1, tArena)] }
theorem wit_ClaspMoves_save : tStopS.gangs.find 0 = some tStopG ∧ tStopG.phase = .stopping
    ∧ tStopS.quiet 0 tStopG = true ∧ tStopS.freeArena 1 = [0] ∧ tStopS.ctxs.find 1 = some tArena :=
  ⟨rfl, rfl, by decide +kernel, by decide, rfl⟩
/-- A cancel of launch 1, which gang 0 is of, is to come. -/
theorem wit_ClaspMoves_asked : ({ tS with cancels := [⟨0, 1, 1, 1, none⟩] } : State).gangs.find 0 = some placedGang
    ∧ ({ tS with cancels := [⟨0, 1, 1, 1, none⟩] } : State).cancelAsked placedGang = true := ⟨rfl, by decide⟩
/-- The gang saved, and its launch at the head of Clasp's window. -/
def tImage : Image := tStopS.imageOf 0 tStopG 0
def tSavedS : State := { tEntS { placedEntry with live := 1 } with
  gangs := [(0, { placedGang with phase := .saved })], images := [(0, tImage)], ctxs := [(1, tArena)] }
theorem wit_ClaspMoves_restore : tSavedS.images.find 0 = some tImage
    ∧ tSavedS.entry? tImage.gang.ctx tImage.gang.launch = some placedEntry
    ∧ hasEntry tSavedS placedEntry.order placedEntry ∧ tSavedS.wants placedEntry = true
    ∧ (tSavedS.imagesOf placedEntry).head? = some (0, tImage) ∧ tSavedS.turn placedEntry = true
    ∧ placedEntry.coop = false ∧ tSavedS.gangPos placedEntry tImage.gang.gangId
        (fun n => (tImage.waves.filter (fun w => w.wg = n)).map (·.wid)) (tSavedS.restoreOk 0 tImage) = some (0, [0])
    ∧ tSavedS.gangOn [0] tImage.fil.isSome = true :=
  ⟨rfl, rfl, rfl, by decide +kernel, rfl, by decide +kernel, rfl, by decide +kernel, by decide +kernel⟩
/-- A cancel of a launch that is complete, one by a record of queue 0, and one of launch 1, which runs. -/
def tCanS (r : CancelReq) (l : Level) : State :=
  { tS with
    cancels := [r]
    ctxs := [(1, { placedCtx with levels := [(1, l)], queues := [(0, tHq)] })] }
def tLevel : Level := ⟨1, 0, 0, 0, false, false, false, false, false, 0, none, 0⟩
theorem wit_ClaspMoves_cancel :
    let r : CancelReq := ⟨0, 1, 1, 1, none⟩
    let q : CancelReq := ⟨0, 1, 1, 1, some 0⟩
    let l : Level := { tLevel with complete := true }
    let s := tCanS q l
    (tCanS r l).cancels.find? (fun x => x.io = 0 && !(tCanS r l).cancelHeld x) = some r
      ∧ s.cancels.find? (fun x => x.io = 0 && !s.cancelHeld x) = some q
      ∧ r.level ≠ 0 ∧ r.queue = none ∧ (tCanS r l).level? 1 1 = some l ∧ l.complete = true
      ∧ s.queue? 1 0 = some tHq ∧ tHq.v = true ∧ descAt s tHq.daddr :=
  ⟨rfl, rfl, by decide, rfl, rfl, rfl, rfl, rfl, ⟨by decide, _, rfl⟩⟩
theorem wit_ClaspMoves_stops :
    let r : CancelReq := ⟨0, 1, 1, 1, none⟩
    let s := { tCanS r tLevel with ctxs := [(1, { placedCtx with levels := [(1, tLevel)] })] }
    s.cancels.find? (fun x => x.io = 0 && !s.cancelHeld x) = some r
      ∧ s.ctxs.find 1 = some { placedCtx with levels := [(1, tLevel)] } ∧ tLevel.level = r.level ∧ tLevel.complete = false
      ∧ belongsTo { placedCtx with levels := [(1, tLevel)] } 1 1
      ∧ placedEntry ∈ s.entries ∧ covered placedEntry 1 1 ∧ s.waves.find 0 = some tW
      ∧ s.gangs.find tW.gang = some placedGang ∧ placedGang.launch = placedEntry.id ∧ placedGang.ctx = placedEntry.ctx :=
  ⟨rfl, rfl, rfl, rfl, .inl rfl, .head _, .inr (.inl ⟨rfl, .inl rfl⟩), rfl, rfl, rfl, rfl⟩

/-- A context record at PA 0x50000000: identifier 5, view 0 of partition 0, and the CTXCMD values that name it. -/
def tRec : Nat := 0x1000000000000100000000000000000001000000000002000000000000200000000000000000000005
def tRecS (x : Nat) (cs : Map Ctx) : State :=
  { State.reset with mem := memWrite [] 0x50000000 (bytesOf 64 x), ctxs := cs, pkg := { Pkg.init with ready := 0x3FFFFFFF } }
theorem wit_Contexts_cmd : isCmd 1 0x50000000 0x50000001 ∧ isCmd 2 0x50000000 0x50000002
    ∧ ({ tRecS tRec [] with pkg := { Pkg.init with busy := true } } : State).pkg.busy = true
    ∧ (tRecS tRec []).pkg.busy = false ∧ (tRecS tRec []).cmdOn 0x50000001 = true
    ∧ (tRecS tRec []).cmdOn 0x50000002 = true
    ∧ recordAt (tRecS tRec []) 0x50000000 = tRec := by unfold isCmd; decide +kernel
theorem wit_Contexts_create : (tRecS tRec []).recordBad tRec = false ∧ (tRecS 0 []).recordBad 0 = true
    ∧ recordAt (tRecS 0 []) 0x50000000 = 0
    ∧ tRec / 2 ^ 34 % 4 < parts 0 ∧ (viewDevs 0 (tRec / 2 ^ 34 % 4) (tRec / 2 ^ 32 % 4)).isSome = true
    ∧ (partDies 0 (tRec / 2 ^ 34 % 4)).all (tRecS tRec []).dieReady = true ∧ tRec % 2 ^ 32 = 5
    ∧ (tRecS tRec []).ctxs.find 5 = none ∧ ((tRecS tRec [(5, placedCtx)]).ctxs.find 5).isSome = true
    ∧ (tRecS tRec []).ctxs.length < 1024 ∧ (tRecS tRec []).pkg.cur = 0 := by decide +kernel
/-- A create under way; partition 1, which is absent, and a partition of a die that is not ready; view 1 in
PMODE 2, which does not offer it; 1,024 contexts. -/
theorem wit_Contexts_refuse : ({ tRecS tRec [] with pkg := { Pkg.init with ctxBusy := true } } : State).pkg.ctxBusy = true
    ∧ (tRecS tRec []).pkg.ctxBusy = false ∧ parts 0 ≤ 1 ∧ (partDies 0 1).all (tRecS tRec []).dieReady = true
    ∧ (partDies 0 0).all State.reset.dieReady = false ∧ viewDevs 2 0 1 = none
    ∧ (let s : State := { tRecS (tRec + 2 ^ 32) [] with pkg := { Pkg.init with cur := 2, ready := 0x3FFFFFFF } }
       s.recordBad (tRec + 2 ^ 32) = false ∧ 0 < parts s.pkg.cur)
    ∧ 1024 ≤ ((tRecS tRec ((List.range 1024).map (fun i => (i + 6, placedCtx)))).ctxs).length := by decide +kernel
theorem wit_Contexts_destroy : (tRecS tRec [(5, placedCtx)]).ctxs.find 5 = some placedCtx
    ∧ (tRecS tRec [(5, placedCtx)]).hasWork 5 placedCtx = false
    ∧ ({ tRecS tRec [(5, placedCtx)] with entries := [{ placedEntry with ctx := 5 }] } : State).hasWork 5 placedCtx = true
    ∧ (tRecS tRec []).ctxs.find 5 = none ∧ (tRecS tRec []).pkg.ready.getLsbD 0 = true ∧ formBad tRec = false
    ∧ recordAt (tRecS 0 []) 0x50000000 = 0 ∧ formBad 0 = true ∧ State.reset.pkg.ready.getLsbD 0 = false :=
  ⟨rfl, by decide +kernel, by decide +kernel, rfl, by decide, by decide +kernel, by decide +kernel, by decide,
    by decide⟩
theorem wit_Contexts_partitions : (tRecS 0 []).ctxs = [] ∧ (tRecS 0 []).pkg.busy = false ∧ (tRecS 0 []).pkg.cur = 0
    ∧ (1 : BitVec 64).toNat % 4 ≠ 3 ∧ (1 : BitVec 64).toNat % 4 ≠ 0
    ∧ (∀ c < 4, (tRecS 0 []).pkg.ready.getLsbD (2 + c) = true) ∧ (tRecS 0 [(5, placedCtx)]).ctxs ≠ []
    ∧ (tRecS 0 [(5, placedCtx)]).pkg.ready.getLsbD (26 + 3) = true ∧ 3 ∈ partDies 0 placedCtx.part := by
  decide +kernel
theorem wit_Contexts_grant :
    let f : Filigree := { Filigree.init with pendOwner := some 5 }
    let s : State := { State.reset with
      dies := [(0, { Die.init with fil := f })]
      ctxs := [(7, { placedCtx with part := 1 })]
      pkg := { Pkg.init with cur := 1 } }
    (s.die 0).fil.pendOwner = some 5 ∧ s.waveOn 5 0 = false ∧ s.waveOn (s.die 0).fil.owner 0 = false
      ∧ (∀ c, s.ctxs.find 7 = some c → 0 ∉ partDies s.pkg.cur c.part) :=
  ⟨rfl, by decide +kernel, by decide +kernel, fun c h => by cases h; decide⟩

theorem wit_Contexts_change :
    let s : State := { tRecS 0 [] with pkg := { Pkg.init with busy := true } }
    s.pkg.busy = true ∧ State.reset.pkg.ready.getLsbD 0 = false ∧ State.reset.pkg.ready.getLsbD (2 + 0) = false
      ∧ (tRecS 0 []).pkg.ready.getLsbD 0 = true := by decide +kernel

/-! ## Witnesses: the context's events, the host, power -/

/-- A copy program that has faulted under token 9. -/
def tFaultP : Prog := { tProg with st := 3, token := 9 }
theorem wit_ContextEvents_commands : (tEng tFaultP).ctxs.find 1 = some placedCtx
    ∧ ((tEng tFaultP).faulted 1 9).any (fun x => x.1 = 0 && x.2.1 = 0 && x.2.2.token = 9) = true :=
  ⟨rfl, by decide +kernel⟩
/-- The one wave waits at a barrier. -/
def tWaitW : Wave := { tW with wait := some ⟨.barrier, 0, 1, 0, .yield tG, 0, 0, false⟩ }
theorem wit_ContextEvents_watchdog : (tWith tWaitW).ctxs.find 1 = some placedCtx ∧ rising (tWith tWaitW).waves
    ∧ placedCtx.regs.wdog ≠ 0 ∧ (∃ q : Nat × Wave, q ∈ (tWith tWaitW).waves ∧ (tWith tWaitW).ctxOf q.2 = 1)
    ∧ (∀ q : Nat × Wave, q ∈ (tWith tWaitW).waves → (tWith tWaitW).ctxOf q.2 = 1 → q.2.wait.isSome = true)
    ∧ (∀ e ∈ (tWith tWaitW).entries, e.ctx = 1 → (tWith tWaitW).wants e = false)
    ∧ (tWith tWaitW).images = [] ∧ (tWith tWaitW).holding 1 placedCtx = false
    ∧ (tWith tWaitW).waves.find 0 = some tWaitW ∧ tWaitW.sys.inTrap = false ∧ placedCtx.tlen ≠ 0 := by
  refine ⟨rfl, by unfold rising; decide, by decide, ⟨(0, tWaitW), List.mem_cons_self, rfl⟩, ?_, ?_, rfl,
    by decide, rfl, rfl, by decide⟩
  · intro q h _
    rcases List.mem_singleton.1 h with rfl
    rfl
  · intro e h _
    rcases List.mem_singleton.1 h with rfl
    decide
def tHost0 : State := { State.reset with pkg := { Pkg.init with ready := 0x3FFFFFFF } }
/-- One record waits for an event ring of four. -/
def tEvC : Ctx := { placedCtx with
  events := [⟨4, 0, 0, 0, 0, 0, []⟩], regs := { CtxRegs.init with evBase := 0x50000000, evLog := 2 } }
theorem wit_ContextEvents_ring : ({ tS with ctxs := [(1, tEvC)] } : State).ctxs.find 1 = some tEvC
    ∧ tEvC.events = [⟨4, 0, 0, 0, 0, 0, []⟩] ∧ tEvC.regs.evBase ≠ 0
    ∧ (tEvC.regs.evTail - tEvC.regs.evHead).toNat < 2 ^ tEvC.regs.evLog.toNat
    ∧ ({ tS with ctxs := [(1, tEvC)] } : State).paOn (({ tS with ctxs := [(1, tEvC)] } : State).frontObs 1 0) 0x50000000 = true
    ∧ descAt { tS with ctxs := [(1, tEvC)] } 0x50000000 ∧ tEvC.regs.evEn = false
    ∧ tHost0.hostLink 0 = true :=
  ⟨rfl, rfl, by decide, by decide, by decide +kernel, ⟨by decide, _, rfl⟩, rfl, by decide⟩
theorem wit_ContextEvents_losses : (tS.die 0).lost = false ∧ nth tS.pkg.ioLost 1 false = false
    ∧ (tS.paKind 0x50000000).isMem = true ∧ tS.ctxs.find 1 = some placedCtx
    ∧ tS.concerns 0 1 placedCtx = true := by decide +kernel

/-- Every function ready; inbound RDMA under key 7 of 64 KiB at 0x50000000, by queue pair 0. -/
def tHost : State := { State.reset with pkg := { Pkg.init with
  ready := 0x3FFFFFFF, apBase := 0x50000000, qps := [(0, 1)]
  inbound := [(0, BitVec.ofNat 256 (15 + 7 * 0x100000000 + 0x50000000 * 0x10000000000000000
    + 0x10000 * 0x100000000000000000000000000000000))] } }
theorem tHost_status : tHost.hostStatus 0x50000000 8 = 0 := by
  have h : ∀ a, tHost.isReady (8 + 2 * 0 + Config.stackOf a % 2) = true := by
    intro a
    rcases Nat.mod_two_eq_zero_or_one (Config.stackOf a) with e | e <;> rw [e] <;> decide
  have h1 : tHost.paKind 0x50000000 = .hbm [0, 1, 2, 3] := by decide
  have h3 : homeAmong [0, 1, 2, 3] 0x50000000 = 0 := by decide
  have h5 : (tHost.die 0).lost = false := by decide
  have h6 : blocksOf 4096 0x50000000 8 = [0x50000000] := by decide
  have h7 : tHost.ddrWaits 0x50000000 = false := by decide
  simp [State.hostStatus, h6, h7, h1, h3, h5, h]
/-- An access of 8 bytes through BAR2 at offset 0, and a peer's at the window's base, may come. -/
theorem tHost_on : tHost.hostOn 0x50000000 8 = true := by
  have h : blocksOf 128 0x50000000 8 = [0x50000000] := by decide
  simp only [State.hostOn, h]
  rfl
theorem wit_HostAccesses_comes (o : Bar2) (h : o.fn = 0) (h0 : o.off = 0) (q : Rdma) (hq : q.qp = 0)
    (hp : q.pa = 0x50000000) : bar2Comes tHost o 8 ∧ peerComes tHost q 8 := by
  refine ⟨⟨?_, by decide, ?_, ?_, ?_⟩, ⟨?_, ?_, ?_⟩⟩
  · rw [h]; decide
  · rw [h0]; decide
  · rw [h]; decide
  · rw [h0, show tHost.pkg.apBase.toNat + 0 = 0x50000000 from by decide]; exact tHost_on
  · rw [hq]; decide +kernel
  · rw [hq]; decide +kernel
  · rw [hp]; exact tHost_on
theorem wit_HostAccesses_misaligned (o : Rdma) (h : o.qp = 0) (hp : o.pa = 0x50000004) : tHost.peerOn o = true
    ∧ o.pa % 8 ≠ 0 := by
  refine ⟨?_, by rw [hp]; decide⟩
  unfold State.peerOn
  rw [h]
  decide +kernel
/-- The writes of a context's window. -/
theorem wit_HostAccesses_regs : ({ tHost with ctxs := [(1, placedCtx)] } : State).ctxs.find 1 = some placedCtx
    ∧ placedCtx.regs.dbg.bp.length = 4 ∧ ({ tHost with ctxs := [(1, placedCtx)] } : State).images = []
    ∧ (∃ m ∈ tSavedS.images, m.2.gang.ctx = 1) ∧ ownCtx 0x680 0 = false
    ∧ 0x9000 + 32 * 15 + 8 * 3 < 0xA000 ∧ 0xC000 + 64 * 15 + 8 * 7 < 0x10000 ∧ 0x21000 + 64 * 31 + 8 * 7 < 0x22000 :=
  ⟨rfl, rfl, rfl, ⟨_, List.mem_cons_self, rfl⟩, by decide, by decide, by decide, by decide⟩
theorem wit_HostAccesses : (0x8008 : Nat) < 0x200000 ∧ tHost.pkg.ready.getLsbD 0 = true
    ∧ State.reset.pkg.ready.getLsbD 0 = false ∧ ownPkg 0x8008 0 = false
    ∧ tHost.hostStatus (tHost.pkg.apBase.toNat + 0) 8 = 0 ∧ tHost.hostStatus 0x4000000000000000 8 ≠ 0
    ∧ tHost.poisonAt 0x50000000 8 = none ∧ 0x50000000 % 16 + 8 ≤ 16 :=
  ⟨by decide, by decide, by decide, by decide, tHost_status, by decide, by decide, by decide⟩
theorem wit_HostAccesses_peer : tHost.admits 7 1 0x50000000 8 = true ∧ tHost.admits 7 2 0x50000000 8 = true
    ∧ tHost.admits 7 3 0x50000000 8 = true ∧ tHost.admits 8 1 0x50000000 8 = false
    ∧ tHost.hostStatus 0x50000000 8 = 0 ∧ 0x50000000 % 8 = 0 := by
  refine ⟨?_, ?_, ?_, ?_, tHost_status, by decide⟩ <;> decide +kernel

theorem wit_Power_ready : (2 : Nat) < 30 ∧ ({ State.reset with pkg := { Pkg.init with ready := 3 } } : State).pkg.ready.getLsbD 0 = true
    ∧ ({ State.reset with pkg := { Pkg.init with ready := 3 } } : State).pkg.ready.getLsbD 2 = false
    ∧ ({ State.reset with pkg := { Pkg.init with ready := 3 } } : State).bitLost 2 = false := by decide +kernel
/-- Every island has a cap of 0. -/
def tIsland (n : Nat) : Island := { Island.init n with cap := 0 }
def tIslands (l : List Nat) : Map Island := l.map (fun n => (n, tIsland n))
def tPowOf (l : List Nat) : State := { State.reset with pkg := { Pkg.init with ready := 1, islands := tIslands l } }
def tPow : State := tPowOf (List.range 1024)
/-- Island 0 on, at operating point 1, with a cap of 65,535: no rule forbids it. -/
theorem wit_Power_change : islandKind 0 = some 0 ∧ tPow.pkg.ready.getLsbD 0 = true
    ∧ (0xFFFF00000001 : BitVec 64).toNat / 16 % 4 = 0 ∧ (0xFFFF00000001 : BitVec 64).toNat / 2 ^ 32 % 2 ^ 16 = 65535
    ∧ ¬ 65535 < (Config.oppTab 0 ((0xFFFF00000001 : BitVec 64).toNat % 16)).toNat
    ∧ (tPow.island 0).busy = false ∧ onlyOn 0 = false :=
  ⟨rfl, rfl, by decide, by decide, by have := (Config.oppTab 0 ((0xFFFF00000001 : BitVec 64).toNat % 16)).isLt; omega,
    by decide +kernel, by decide⟩
theorem tPow_find (i : Nat) : ∀ l : List Nat, i ∈ l → (tIslands l).find i = some (tIsland i)
  | [], h => by cases h
  | a :: t, h => by
    by_cases e : a = i
    · subst e; simp [Map.find, tIslands]
    · rcases List.mem_cons.1 h with h | h
      · exact absurd h.symm e
      · have := tPow_find i t h
        simp [Map.find, e, tIslands] at this ⊢
        exact this
theorem tPow_sum (s : State) (h : ∀ i < 1024, (s.island i).cap = 0) : s.capSum 0 65535 = 65535 := by
  unfold State.capSum
  rw [List.map_congr_left (g := fun i => if (islandKind i).isNone then 0 else if i = 0 then 65535 else 0)]
  · decide +kernel
  · intro i hi
    rw [h i (List.mem_range.1 hi)]
    rfl
theorem tPow_get (s : State) (i : Nat) (x : Island) (h : s.pkg.islands.find i = some x) : s.island i = x := by
  unfold State.island Map.getD
  rw [h]
  rfl
theorem tPow_all (l : List Nat) (h : ∀ i < 1024, i ∈ l) : (tPowOf l).capSum 0 65535 = 65535 :=
  tPow_sum (tPowOf l) (fun i hi => congrArg Island.cap (tPow_get (tPowOf l) i (tIsland i) (tPow_find i l (h i hi))))
theorem wit_Power_change_sum : tPow.capSum 0 65535 = 65535 := tPow_all _ (fun _ h => List.mem_range.2 h)
/-- An island that is only ever on is refused another state. -/
theorem wit_Power_refused : islandKind 237 = some 5 ∧ onlyOn 237 = true
    ∧ (0x10 : BitVec 64).toNat / 16 % 4 ≠ 0 ∧ (0x10 : BitVec 64).toNat / 16 % 4 ≠ 3 := by decide
def tSlotOf (q : Nat) : Slot := ⟨0, q, false, 1⟩
def tBusyS : State := { State.reset with pkg := { Pkg.init with islands := [(4, { Island.init 4 with busy := true, fgate := true })] } }
def tIdle (g : Bool) (m : List MatJob) : Core := { Core.init with cycle := 256, fgated := g, matq := m }
theorem wit_Power_moves : (tBusyS.island 4).busy = true ∧ arrayIsland 0 = 4 ∧ (tBusyS.island 4).fgate = true
    ∧ (tIdle false []).fgated = false ∧ (tIdle false []).matq = []
    ∧ ((tBusyS.island 4).idle.toNat + 1) * 256 ≤ (tIdle false []).cycle - (tIdle false []).lastMat
    ∧ (tBusyS.setCore 0 (tIdle false [])).core 0 = tIdle false []
    ∧ (tBusyS.setCore 0 (tIdle false [])).arrayJobs 0 = []
    ∧ (tBusyS.setCore 0 (tIdle true [tMatJ (.mz tMatO) 0])).arrayJobs 0 ≠ [] ∧ (tIdle true []).fgated = true
    ∧ (tBusyS.setCore 0 (tIdle true [tMatJ (.mz tPairO) 0])).arrayJobs 1 ≠ [] :=
  ⟨by decide, by decide, by decide, rfl, rfl, by decide, rfl, by decide, by decide, rfl, by decide⟩
/-- Islands 4 and 232, an array's and a Filigree's, under a change to off; the base of core 0 off. -/
theorem wit_Power_gated : islandKind 4 = some 1 ∧ islandCore 4 = 0 ∧ islandKind 232 = some 4
    ∧ ({ Island.init 4 with st := 2 } : Island).st = 2
    ∧ (let s : State := { State.reset with pkg := { Pkg.init with islands := [(5, { Island.init 5 with stNow := 1 })] } }
       (slotStart s (tSlotOf 0)).islandOn (240 * coreDie 0 + 6 * corePhys 0 + 5) = false) := by decide +kernel
/-- Cluster 2 holds the token, and every cluster is in Chain mode. -/
theorem wit_Power_chain :
    let s : State := { State.reset with dies := [(0, { Die.init with chainTok := 2 })] }
    (s.die 0).chainTok < 9 ∧ ∃ i < 9, (s.die 0).chainEn.getLsbD i = true := ⟨by decide, 5, by decide, by decide⟩

/-- A mailbox with a buffer of 4 KiB at host address 0, and of 16 bytes. -/
def tSg (len : BitVec 32) : State := { State.reset with pkg := { Pkg.init with signet := { Pkg.init.signet with len := len } } }
theorem wit_SignetAndReset : (tSg 4096).pkg.signet.busy = false ∧ 3501 ≤ (tSg 4096).pkg.signet.len.toNat
    ∧ (tSg 4096).sgOk 3501 = true ∧ (tSg 16).pkg.signet.busy = false ∧ (tSg 16).pkg.signet.len.toNat < 3501
    ∧ (0 : BitVec 64) ≠ 0x00000000C0DE0001 := by decide +kernel

/-! ## Witnesses: the machine as a whole -/

/-- `IMUL` of V1 and V2 into V0 at a wave's PC, and a word of zeros there. -/
def tRun (w : Nat) : State := { State.reset.placeInstr w with agenda := [] }
def tSlot (w : Nat) : Slot := ⟨0, 0, !(BitVec.ofNat 64 w).getLsbD 9, 1⟩
def tRunW (w : Nat) : Wave :=
  placedWave 0 (placedPriv (BitVec.ofNat 64 w) 0).1 (placedPriv (BitVec.ofNat 64 w) 0).2
def tFetched (w : Nat) : State × Except FetchTrap (W64 × W64) :=
  ((slotStart (tRun w) (tSlot w)).setWave 0 (atFetch (tRun w) (tSlot w) (tRunW w))).fetchAt 0
    (atFetch (tRun w) (tSlot w) (tRunW w))

/-- The slot reaches the fetch, and the fetch answers the words. -/
theorem tOk {σ ε α : Type} (p : σ × Except ε α) (a : α) (h : p.2.toOption = some a) : p = (p.1, .ok a) := by
  obtain ⟨x, y⟩ := p
  cases y with
  | error e => cases h
  | ok b => cases h; rfl
def tIcmp : Nat := 0x00C100080393F90A
theorem wit_StepRunsDecoded_free (w : Nat) (h : w = tIcmp ∨ w = 0) : slotFree (tRun w) (tSlot w) := by
  have e : ((tRun w).core (tSlot w).core).slots.find (2 * (tSlot w).quarter + (if (tSlot w).vec then 1 else 0)) = none := by
    rcases h with rfl | rfl <;> decide +kernel
  refine ⟨by rcases h with rfl | rfl <;> decide +kernel, by rcases h with rfl | rfl <;> decide +kernel, fun x hx => ?_⟩
  rw [e] at hx
  cases hx
theorem wit_StepRunsDecoded (w : Nat) (h : w = tIcmp ∨ w = 0) : Fetches (tRun w) (tSlot w) 0 (tRunW w) (tFetched w).1
    (BitVec.ofNat 64 w, 0) :=
  ⟨wit_StepRunsDecoded_free w h, by rcases h with rfl | rfl <;> decide +kernel, rfl, rfl, rfl, rfl,
    by rcases h with rfl | rfl <;> decide +kernel, .inl rfl,
    tOk _ _ (by rcases h with rfl | rfl <;> decide +kernel)⟩
/-- `ICMP` decodes and no convergence point holds it; a word of zeros decodes to nothing. -/
theorem wit_StepRunsDecoded_decodes :
    (match decodeWave ((tFetched tIcmp).1.decodeCtx (atFetch (tRun tIcmp) (tSlot tIcmp) (tRunW tIcmp)))
        (BitVec.ofNat 64 tIcmp) 0 with
      | .ok i => ((tFetched tIcmp).1.converge 0 (atFetch (tRun tIcmp) (tSlot tIcmp) (tRunW tIcmp)) i
          (BitVec.ofNat 64 tIcmp, 0)).isNone
      | .error _ => false) = true
    ∧ (decodeWave ((tFetched 0).1.decodeCtx (atFetch (tRun 0) (tSlot 0) (tRunW 0))) 0 0).isOk = false
    ∧ (tFetched 0).1.issued = none ∧ ({ tRun tIcmp with agenda := [.ev (.waveIssue (tSlot tIcmp))] } : State).agenda
      = .ev (.waveIssue (tSlot tIcmp)) :: [] := by
  refine ⟨by decide +kernel, by decide +kernel, by decide +kernel, rfl⟩
/-- A wave to be discarded, at the issue slot of its quarter. -/
theorem tFree (s : State) (x : Slot) (a : (slotStart s x).islandOn (240 * coreDie x.core + 6 * corePhys x.core + x.quarter) = true)
    (b : (slotStart s x).islandOn (240 * coreDie x.core + 6 * corePhys x.core + 5) = true)
    (c : ((s.core x.core).slots.find (2 * x.quarter + (if x.vec then 1 else 0))).isNone = true) : slotFree s x := by
  refine ⟨a, b, fun h e => ?_⟩
  rw [e] at c
  cases c
theorem wit_ClaspMoves_discard :
    let w := { tRunW tIcmp with cancel := true }
    let s := (tRun tIcmp).setWave 0 w
    slotFree s (tSlot tIcmp) ∧ s.issued = none
      ∧ (slotStart s (tSlot tIcmp)).pick (tSlot tIcmp) ((s.core (tSlot tIcmp).core).cycle + (tSlot tIcmp).dt) = some (0, w)
      ∧ w.preempt = false :=
  ⟨tFree _ _ (by decide +kernel) (by decide +kernel) (by decide +kernel), by decide +kernel, by decide +kernel, rfl⟩
/-- A user wave at a `FENCE.rel`, a convergence point: with a lane parked; in a replay at STOP, with a PATH entry
on the stack and with the RJOIN entry alone; in a replay elsewhere. The kernel's handler is at VA 0x10000. -/
def tFence : Nat := 260777
def tCvg (w : Wave) : State := (tRun tFence).setWave 0 w
def tCvgF (w : Wave) : State × Except FetchTrap (W64 × W64) :=
  ((slotStart (tCvg w) (tSlot tFence)).setWave 0 (atFetch (tCvg w) (tSlot tFence) w)).fetchAt 0
    (atFetch (tCvg w) (tSlot tFence) w)
def tParkW : Wave := { tRunW tFence with park := 1, exm := 2 }
def tPathW : Wave := { tRunW tFence with stop := 0x10000, stack := [⟨4, 0, 1⟩, ⟨6, 0, 2⟩] }
def tRjoinW : Wave := { tRunW tFence with stop := 0x10000, stack := [⟨6, 0, 2⟩] }
def tStrayW : Wave := { tRjoinW with stop := 0 }
theorem wit_Returns_cvg : ∀ w ∈ [tParkW, tPathW, tRjoinW, tStrayW],
    Fetches (tCvg w) (tSlot tFence) 0 w (tCvgF w).1 (BitVec.ofNat 64 tFence, 0)
    ∧ (tCvgF w).1.issued = none ∧ w.sys.sup = false
    ∧ (match decodeWave ((tCvgF w).1.decodeCtx (atFetch (tCvg w) (tSlot tFence) w)) (BitVec.ofNat 64 tFence) 0 with
      | .ok i => cvgPoint i
      | .error _ => false) = true
    ∧ ((tCvgF w).1.gangs.find w.gang).any (fun g => (((tCvgF w).1.entry? g.ctx g.launch).map (fun e => e.kd.handler))
        = some 0x10000) = true := by
  intro w h
  refine ⟨⟨tFree _ _ ?_ ?_ ?_, ?_, ?_, ?_, ?_, ?_, ?_, .inl ?_, tOk _ _ ?_⟩, ?_, ?_, ?_, ?_⟩
  all_goals revert w
  all_goals decide +kernel
theorem wit_Returns_replaying : (∃ e ∈ tPathW.stack, e.kind = 2) ∧ tPathW.pc = tPathW.stop ∧ tStrayW.pc ≠ tStrayW.stop
    ∧ (∃ e ∈ tStrayW.stack, e.kind = 2) ∧ (∀ e ∈ tParkW.stack, e.kind ≠ 2) ∧ tParkW.park ≠ 0 ∧ tParkW.stack.length < 32
    ∧ tFull.length = 32 := by decide +kernel
/-- `HALT` is the word that engine 0 fetches next. -/
def tHaltS : State := { State.reset.placeCommand 0x34 with agenda := [] }
theorem wit_StepRunsDecoded_engine : (State.reset.placeCommand 0x34).agenda = [.engine 0]
    ∧ tHaltS.islandOn (engineIsland 0) = true
    ∧ (match (tHaltS.engine 0).nextSlot (tHaltS.ceReady 0) with
      | some (slot, p) => (match ({ tHaltS.setEngine 0 { tHaltS.engine 0 with last := slot } with
            curE := some (0, slot) } : State).ceWord 0 p p.cpc.toNat with
        | (_, some w0) => decide (w0 = 0x34#32) && !w0.getLsbD 6 && decide (decodeCe w0 0 = .ok .halt)
        | _ => false)
      | none => false) = true := ⟨rfl, by decide +kernel, by decide +kernel⟩
theorem wit_WaveRoundTrip : Instr.wave? (.iadd { tO with c := 0 }) = some (0x01, { tO with c := 0 })
    ∧ WOp.acceptedAs 0x01 { tO with c := 0 } (.iadd { tO with c := 0 }) ⟨256, true, false, false⟩ = true ∧ isSystemOp 0x01 = false
    ∧ (decodeWave ⟨256, true, false, false⟩ (BitVec.ofNat 64 tIcmp) 0).isOk = true := by decide +kernel
theorem wit_CommandRoundTrip : Instr.wf .halt = true ∧ encodeCe .halt = some (0x34, 0)
    ∧ decodeCe 0x34 0 = .ok .halt := by decide +kernel
def tNext (x : Host.Outcome State Fault Refusal) : Bool :=
  match x with
  | .next _ => true
  | _ => false
theorem wit_StepKeepsMemory : State.Inv State.reset
    ∧ tNext (step { State.reset with agenda := [.ev (.pkgrst 0)] }) = true := ⟨by unfold State.Inv; decide, by decide⟩

/-! ## Words of the spec's encodings -/

/-- R25, R162, R172, R143: GETID with a number, ICMP with an immediate and `!GP1`, CVT.sat, LDG under `!GP2`. -/
theorem test_decode_alu :
  decodeTableWord 64 0x000600000503FA9E
    = some (.getid ⟨true, false, .always, 0, 5, 0, 0, 6, 0, none⟩)
  ∧ decodeTableWord 128 0x6400C100080393F90A
    = some (.icmp ⟨false, false, .always, 18, 3, 8, 0, 193, 0, (some 100)⟩)
  ∧ decodeTableWord 64 0xA600000B0A43F845
    = some (.cvt ⟨false, false, .always, 8, 10, 11, 0, 0, 0xa6, none⟩)
  ∧ decodeTableWord 64 0x020409040C0610A0
    = some (.ldg ⟨false, false, .gp 2 true, 0, 12, 4, 9, 4, 2, none⟩) := by decide +kernel
/-- R177, R191: CVG.PUSH, CVG.JOIN, RDFIRST and LPERM.higher. -/
theorem test_decode_control :
  decodeTableWord 64 0x000008000003FA82
    = some (.cvgPush ⟨true, false, .always, 0, 0, 0, 8, 0, 0, none⟩)
  ∧ decodeTableWord 64 0x00000000000BFA82
    = some (.cvgJoin ⟨true, false, .always, 1, 0, 0, 0, 0, 0, none⟩)
  ∧ decodeTableWord 64 0x000000030103FA87
    = some (.rdfirst ⟨true, false, .always, 0, 1, 3, 0, 0, 0, none⟩)
  ∧ decodeTableWord 128 0x1000000030413F988
    = some (.lperm ⟨false, false, .always, 2, 4, 3, 0, 0, 0, (some 1)⟩) := by decide +kernel
/-- R199-R204: ATG.add, REDG with a redirect, FENCE.AR and ICINV. -/
theorem test_decode_memory :
  decodeTableWord 64 0x020001020613F8A2
    = some (.atg ⟨false, false, .always, 2, 6, 2, 1, 0, 2, none⟩)
  ∧ decodeTableWord 64 0x420001020893F8A3
    = some (.redgRedir ⟨false, false, .always, 18, 8, 2, 1, 0, 0x42, none⟩)
  ∧ decodeTableWord 64 0x000000000013FAA9
    = some (.fenceAr ⟨true, false, .always, 2, 0, 0, 0, 0, 0, none⟩)
  ∧ decodeTableWord 64 0x00000000001BFAA9
    = some (.icinv ⟨true, false, .always, 3, 0, 0, 0, 0, 0, none⟩) := by decide +kernel
/-- R217, R238: BAR.ARR, BAR.WAIT, and the matrix instructions of the example. -/
theorem test_decode_units :
  decodeTableWord 64 0x0000000A050BFAC1
    = some (.barArr ⟨true, false, .always, 1, 5, 10, 0, 0, 0, none⟩)
  ∧ decodeTableWord 64 0x0000050A0613FAC1
    = some (.barWait ⟨true, false, .always, 2, 6, 10, 5, 0, 0, none⟩)
  ∧ decodeTableWord 64 0x000C150A0003FAD0
    = some (.mldb ⟨true, false, .always, 0, 0, 10, 21, 12, 0, none⟩)
  ∧ decodeTableWord 64 0x001615140003FAD1
    = some (.mma ⟨true, false, .always, 0, 0, 20, 21, 22, 0, none⟩)
  ∧ decodeTableWord 64 0x0E201F1E0003FAD2
    = some (.mst ⟨true, false, .always, 0, 0, 30, 31, 32, 0xe, none⟩)
  ∧ decodeTableWord 64 0x000000000003FAD3
    = some (.mz ⟨true, false, .always, 0, 0, 0, 0, 0, 0, none⟩) := by decide +kernel
/-- R317, R350, R354, R362: SYSRD, the returns, TLB.INV and PMAP. -/
theorem test_decode_system :
  decodeTableWord 64 0x000000070003FAFB
    = some (.tlbInvVa ⟨true, false, .always, 0, 0, 7, 0, 0, 0, none⟩)
  ∧ decodeTableWord 64 0x00000000000BFAFB
    = some (.tlbInvCtx ⟨true, false, .always, 1, 0, 0, 0, 0, 0, none⟩)
  ∧ decodeTableWord 64 0x000B00000503FAF8
    = some (.sysrd ⟨true, false, .always, 0, 5, 0, 0, 11, 0, none⟩)
  ∧ decodeTableWord 64 0x00000000000BFAF9
    = some (.rttSkip ⟨true, false, .always, 1, 0, 0, 0, 0, 0, none⟩)
  ∧ decodeTableWord 64 0x000000050013FAF9
    = some (.rttGo ⟨true, false, .always, 2, 0, 5, 0, 0, 0, none⟩)
  ∧ decodeTableWord 64 0x000014001603F8FC
    = some (.pmap ⟨false, false, .always, 0, 22, 0, 20, 0, 0, none⟩)
  ∧ decodeTableWord 64 0x00020000140BF8FC
    = some (.pmapRec ⟨false, false, .always, 1, 20, 0, 0, 2, 0, none⟩) := by decide +kernel
/-- The program of the Filigree example: FG.CFG, FG.LOAD, FG.SWEEP and FG.READ. -/
theorem test_decode_filigree :
  decodeTableWord 64 0x000000030003FAF0
    = some (.fgCfg ⟨true, false, .always, 0, 0, 3, 0, 0, 0, none⟩)
  ∧ decodeTableWord 64 0x00000002000BFAF0
    = some (.fgLoad ⟨true, false, .always, 1, 0, 2, 0, 0, 0, none⟩)
  ∧ decodeTableWord 64 0x00000006002BFAF0
    = some (.fgSweep ⟨true, false, .always, 5, 0, 6, 0, 0, 0, none⟩)
  ∧ decodeTableWord 64 0x000A000E0033FAF0
    = some (.fgRead ⟨true, false, .always, 6, 0, 14, 0, 10, 0, none⟩) := by decide +kernel

/-! ## Ill-formed terms: one for each check of R135, and of the commands' three forms (R280) -/

theorem test_wf_accepts : Instr.wf (.iadd { tO with c := 0 }) = true := by decide +kernel
/-- M[7:5] of IADD must be zero; SYSRD has no vector form; a group-wide form takes no P guard; IADD does not use
C; fp64 needs an even register; lane 64 of RDLANE does not exist. -/
theorem test_wf_refuses : Instr.wf (.iadd { tO with c := 0, m := 0x20 }) = false
    ∧ Instr.wf (.sysrd { tO with a := 0, b := 0 }) = false
    ∧ Instr.wf (.iadd { tG with c := 0, guard := .p 1 false }) = false
    ∧ Instr.wf (.iadd { tO with c := 5 }) = false
    ∧ Instr.wf (.fadd { tO with d := 3, a := 2, b := 4, c := 0, m := 9 }) = false
    ∧ Instr.wf (.rdlane { tG with fn := 1, b := 0, c := 64 }) = false := by decide +kernel
/-- A vector form in the trap handler is ILLEGAL with DETAIL 10, a system instruction at user privilege with
DETAIL 7 (R135). -/
theorem test_decode_context :
    (match decodeWave ⟨256, true, true, true⟩ 0x00C100080393F90A 0x64 with
      | .error f => !f.unimpl && decide (f.detail = 10)
      | .ok _ => false) = true
    ∧ (match decodeWave ⟨256, true, false, false⟩ 0x000B00000503FAF8 0 with
      | .error f => !f.unimpl && decide (f.detail = 7)
      | .ok _ => false) = true := by decide +kernel
theorem test_wf_commands : Instr.wf (.ld ⟨1, 2, some 3, 2, false, true, none⟩) = true
    ∧ Instr.wf (.ld ⟨1, 2, none, 2, false, true, none⟩) = false
    ∧ Instr.wf (.ldDisp ⟨1, 2, none, 2, false, true, none⟩) = false
    ∧ Instr.wf (.stBase ⟨1, 2, none, 2, true, true, none⟩) = false
    ∧ Instr.wf (.dldBase ⟨1, 2, some 3, true, none⟩) = false := by decide +kernel

/-! ## One step of some instructions

The results are those that the spec's examples print, or are worked out by hand from the rule named. -/

/-- What a step leaves of the wave, as f reads it. -/
def tAfter {α : Type} (x : Out) (f : Wave → α) : Option α :=
  match x with
  | .next t => (t.waves.find 0).map f
  | _ => none
/-- A wave of 32 lanes with V1, V2, V3, V4 of lane 0. -/
def tV4 (a b c d : W32) : Wave := { tW with
  w64 := false, exm := 1, live := 0xFFFFFFFF
  regs := { tW.regs with v := [(64, a), (128, b), (192, c), (256, d)] } }
def tX (mk : WOp → Instr) (o : WOp) (a b c d : W32) (r : Nat) : Option W32 :=
  tAfter (exec (mk o) (tWith (tV4 a b c d))) (fun w => w.vreg r 0)

/-- R151: a sum wraps; `.sat` clamps it; the magnitude of the most negative number. -/
theorem test_iadd_wraps : tX .iadd tO 0 0x7FFFFFFF 1 0 1 = some 0x80000000
    ∧ tX .iadd { tO with m := 0x10 } 0 0x7FFFFFFF 1 0 1 = some 0x7FFFFFFF := by decide +kernel
theorem test_iabs : tX .iabs tO 0 0x80000000 0 0 1 = some 0x80000000 := by decide +kernel
theorem test_isub_packed : tX .isub { tO with m := 4 } 0 0x00010000 0x00020001 0 1 = some 0xFFFFFFFF := by decide +kernel
/-- R152: the high half of −1 × 2 is −1, of the unsigned product 1. -/
theorem test_imul_hi : tX .imul { tO with m := 0x20 } 0 0xFFFFFFFF 2 0 1 = some 0xFFFFFFFF
    ∧ tX .imul { tO with m := 0x21 } 0 0xFFFFFFFF 2 0 1 = some 1 := by decide +kernel
/-- R155: the per-bit multiplexer takes bits of V3 where V2 holds ones. -/
theorem test_bool3_mux : tX .bool3 { tO with fn := 0x18, m := 0xC0 } 0 0x0000FFFF 0x12345678 0xAABBCCDD 1
    = some 0xAABB5678 := by decide +kernel
/-- R156: an amount of 32. -/
theorem test_shift_full : tX .shl tO 0 1 32 0 1 = some 0 ∧ tX .sar tO 0 0x80000000 32 0 1 = some 0xFFFFFFFF := by
  decide +kernel
/-- R157: `.r` by 8 of V3:V2. -/
theorem test_shf : tX .shf tO 0 0x11223344 0xAABBCCDD 8 1 = some 0xDD112233 := by decide +kernel
/-- R158: bits 11 to 4 are F0, sign-extended; two FP16 codes packed. -/
theorem test_bfe : tX .bfe tO 0 0x00000F00 0x0804 0 1 = some 0xFFFFFFF0 := by decide +kernel
theorem test_bfi : tX .bfi tO 0 0x3C00 0x1010 0x12345678 1 = some 0x3C005678 := by decide +kernel
theorem test_clz_zero : tX .clz tO 0 0 0 0 1 = some 32 := by decide +kernel
/-- R162: 200 < 100 fails and GP1 is clear, so its negation holds. -/
theorem test_icmp_or : tAfter (exec (.icmp ⟨false, false, .always, 0x12, 3, 8, 0, 0xC1, 0, some 0x64⟩)
    (tWith { tV4 0 0 0 0 with regs := { tW.regs with v := [(512, 200)] } })) (fun w => w.preg 3) = some 1 := by decide +kernel
/-- R165's example. -/
theorem test_idp4_mixb : tX .idp4 { tO with m := 0x27 } 0 0x00FF0280 0xFF7F0102 10 1 = some 32653 := by decide +kernel
/-- R166: 1.5 + 2.5; 2 × 3 + 1; R62: 1 ÷ 4 and the root of 2, rounded. -/
theorem test_fadd : tX .fadd { tO with m := 8 } 0 0x3FC00000 0x40200000 0 1 = some 0x40800000 := by decide +kernel
theorem test_ffma : tX .ffma { tO with m := 8 } 0 0x40000000 0x40400000 0x3F800000 1 = some 0x40E00000 := by decide +kernel
theorem test_frcp : tX .frcp { tO with m := 8 } 0 0x40800000 0 0 1 = some 0x3E800000 := by decide +kernel
theorem test_fsqrt : tX .fsqrt { tO with m := 8 } 0 0x40000000 0 0 1 = some 0x3FB504F3 := by decide +kernel
/-- R172's example: 300, 500, the tie at 2⁻¹⁰, and a signalling NaN, to FP8 with `.sat`. -/
theorem test_cvt_fp8 :
    let f := fun (x : W32) => tX .cvt ⟨false, false, .always, 8, 1, 2, 0, 0, 0xA6, none⟩ 0 x 0 0 1
    f 0x43960000 = some 0x79 ∧ f 0x43FA0000 = some 0x7E ∧ f 0x3A800000 = some 0 ∧ f 0x3B400000 = some 2
      ∧ f 0x7F800001 = some 0x7F := by decide +kernel

/-- The wave of R191's example: 32 lanes, EXM 0xF6, V3 = 10 × lane, P0 in lanes 2, 5 and 9. -/
def tCross : Wave := { tW with
  w64 := false, exm := 0xF6, live := 0xFFFFFFFF
  regs := { tW.regs with v := (List.range 32).map (fun l => (192 + l, BitVec.ofNat 32 (10 * l))), p := [(0, 0x224)] } }
theorem test_rdfirst : tAfter (exec (.rdfirst ⟨true, false, .always, 0, 1, 3, 0, 0, 0, none⟩) (tWith tCross))
    (fun w => w.greg 1) = some 10 := by decide +kernel
theorem test_lred_add : tAfter (exec (.lred ⟨true, false, .always, 4, 2, 3, 0, 0, 0, none⟩) (tWith tCross))
    (fun w => w.greg 2) = some 250 := by decide +kernel
theorem test_lperm_higher : tAfter (exec (.lperm ⟨false, false, .always, 2, 4, 3, 0, 0, 0, some 1⟩) (tWith tCross))
    (fun w => [1, 2, 4, 5, 6, 7].map (w.vreg 4)) = some [20, 20, 50, 60, 70, 70] := by decide +kernel
theorem test_poll_mask : tAfter (exec (.poll ⟨true, false, .always, 2, 3, 0, 0, 0, 0, none⟩) (tWith tCross))
    (fun w => w.greg 3) = some 0x24 := by decide +kernel
/-- R173: PC + 8 × 4. -/
theorem test_bra_taken : tAfter (exec (.bra ⟨true, false, .always, 0, 0, 0, 4, 0, 0, none⟩) tS)
    (fun w => w.pc) = some 0x10020 := by decide +kernel

/-- R199: two lanes store at offset 0 of scratch, the higher lane stands, little-endian. -/
theorem test_sts : (match exec (.sts tM) (tWith { tTwo with regs := { tTwo.regs with v := [(65, 0x11223344)] } }) with
    | .next t => (t.gangs.find 0).map (fun g => g.scrNat 0 4)
    | _ => none) = some 0x11223344 := by decide +kernel
/-- R315: CUR of PMODE is 0 after reset, and CAP.MWAKE 160. -/
theorem test_sysrd_mwake : tAfter (exec (.sysrd (tSysO 0x00B false)) (tWith tTrapW)) (fun w => w.greg 1) = some 160 := by
  decide +kernel
/-- R360: TRAP saves the PC and takes the wave to its handler in supervisor privilege. -/
theorem test_trap : tAfter (exec (.trap ⟨true, false, .always, 0, 0, 0, 0, 5, 0, none⟩) (tWith { tW with pc := 0x10008 }))
    (fun w => (w.pc, w.sys.sup, w.sys.inTrap, w.sys.trec.extractLsb' 64 64)) = some (0x10000, true, true, 0x10008) := by
  decide +kernel

/-- A copy program with E1 = 5 and E2 = 7. -/
def tE (i : Instr) (r : Nat) : Option W64 :=
  match exec i (tEng { tProg with e := [(1, 5), (2, 7)] }) with
  | .next t => (t.prog? 0 0).map (fun p => p.getE r)
  | _ => none
/-- R276: 5 − 7 wraps; an immediate of −1; an arithmetic shift by more than 63. -/
theorem test_ce_sub : tE (.ceSub ⟨3, 1, 2⟩) 3 = some 0xFFFFFFFFFFFFFFFE := by decide +kernel
theorem test_ce_add_imm : tE (.ceAddImm ⟨3, 1, 511⟩) 3 = some 4 := by decide +kernel
theorem test_ce_min : tE (.ceMinImm ⟨3, 1, 256⟩) 3 = some 0xFFFFFFFFFFFFFF00 := by decide +kernel
/-- R277: LIH keeps the low half. -/
theorem test_lih : tE (.lih 1 0x80000000) 1 = some 0x8000000000000005 := by decide +kernel
/-- R278: 5 < 7, so CPC goes back by two words; R289: HALT ends the program. -/
theorem test_blt : (match exec (.blt ⟨1, 2, 0x3FFE⟩) (tEng { tProg with e := [(1, 5), (2, 7)] }) with
    | .next t => (t.prog? 0 0).map (fun p => p.cpc)
    | _ => none) = some (tProg.cpc - 8) := by decide +kernel

/-! ## Witnesses: forms and waits -/

/-- A vector form with no active lane on an empty queue. -/
def tNoW : Wave := { tQW with exm := 0 }
def tNoS : State := { tWith tNoW with gangs := [(0, tQue 0 4)] }
theorem wit_Queues_none : At tNoS 0 tNoW ∧ inGang tNoS tNoW (tQue 0 4)
    ∧ boundTo tNoW (tQue 0 4) tO.b.toNat (some (tO.m.toNat % 2)) 0 ∧ tO.grp = false ∧ tNoW.active tO.guard = []
    ∧ tNoS.queueBusy 0 tNoW (tQue 0 4) tO.b.toNat = false ∧ tNoS.relBusy 0 = false ∧ tNoS.redgBusy 0 = false :=
  ⟨⟨rfl, rfl⟩, rfl, ⟨0, by decide, by decide, by decide⟩, rfl, by decide, by decide, by decide, by decide⟩

/-- Lane 0 reads the constant section at VA 0x10000, where an update of the wave is pending. -/
def tConE : Entry := { placedEntry with kd := { placedKernel with const := 0x1000 } }
def tConS : State := { tMap tOneW with entries := [tConE], redgs := [{ tRedg with pa := 0x40010000 }] }
theorem wit_ConstantsAndPrefetch_busy : At tConS 0 tOneW ∧ inGang tConS tOneW placedGang
    ∧ tConS.entry? placedGang.ctx placedGang.launch = some tConE
    ∧ tConS.accBusy 0 tOneW (tOneW.constSpans tM tConE) = true := ⟨⟨rfl, rfl⟩, rfl, rfl, by decide +kernel⟩

/-- A program of a COPY record; the islands on the way of a `SIG` on, and off. -/
def tCopyP : Prog := { tProg with owner := { tProg.owner with gang := none } }
theorem wit_CommandSync_copy : AtProg (tEng tCopyP) 0 0 tCopyP ∧ tCopyP.owner.gang = none ∧ tCopyP.inFlight = false :=
  ⟨at_tEng _, rfl, by decide +kernel⟩
def tOffS : State := { tMapped with pkg := { tMapped.pkg with
  islands := (List.range 1024).map (fun n => (n, { Island.init n with stNow := 2 })) } }
theorem wit_CommandSync_slices : tMapped.slicesOn (tMapped.progObs 0 tProg) [(0x10000, 8)] = true
    ∧ tOffS.slicesOn (tOffS.progObs 0 tProg) [(0x10000, 8)] = false := by decide +kernel

/-- The wave that issued the array's one instruction was discarded. -/
def tLateS : State := { (tMatS (.mz tMatO) 0 1).modCore 0 (fun c => { c with claim := some (lateClaim 0) }) with waves := [] }
theorem wit_MatrixIssueAndArray_late : (tLateS.core 0).matq = [tMatJ (.mz tMatO) 0] ∧ tLateS.chainOk 0 = true
    ∧ tLateS.islandOn (arrayIsland 0) = true ∧ (tLateS.core 0).fgated = false
    ∧ (tLateS.core 0).claim = some (lateClaim (tMatJ (.mz tMatO) 0).wave)
    ∧ (∀ w, tLateS.waves.find (tMatJ (.mz tMatO) 0).wave = some w → w.gang ≠ (tMatJ (.mz tMatO) 0).gang)
    ∧ ∀ p ∈ tLateS.waves, ∀ x, p.2.wait = some x → x.kind ≠ .claim :=
  ⟨rfl, by decide, by decide, rfl, rfl, fun w h => (by cases h), by decide⟩

/-- C3 on a DENSE level of dimension 4 at POS 1; C2 null; one lane. -/
def tNulW : Wave := { tDenW with exm := 1, regs := { tDenW.regs with c := [(3, curBits 0 false 0x20000 1 4)] } }
def tNulS : State := tAt tNulW 0x40000000000000000 64
theorem wit_NullCursors_isect : At tNulS 0 tNulW ∧ tG.m.getLsbD 0 = false
    ∧ (∀ c ∈ tNulW.cells tG, daddr tNulW c tG.a.toNat = 0 ∨ daddr tNulW c tG.b.toNat = 0) ∧ actsGrp tNulW tG
    ∧ tNulW.curCheck (tNulW.cells tG) [(tG.a.toNat, 32), (tG.b.toNat, 40)] false false false = none
    ∧ ∃ a x1, walksFrom ((tU tNulW).side (tNulW.curAt .grp tG.a.toNat) tG.a.toNat) ⟨tNulS, [], []⟩ a x1
      ∧ okX ((tU tNulW).side (tNulW.curAt .grp tG.b.toNat) tG.b.toNat) x1 (fun b _ => a.isNone && b.isSome) = true :=
  ⟨⟨rfl, rfl⟩, by decide, by decide, by unfold actsGrp; decide, by decide, (okX_iff _ _ _).1 (by decide +kernel)⟩
theorem wit_NullCursors_lanes : tO.m.getLsbD 0 = false ∧ tO.grp = false
    ∧ (∀ c ∈ tNulW.cells tO, daddr tNulW c tO.a.toNat = 0 ∨ daddr tNulW c tO.b.toNat = 0)
    ∧ tNulW.curCheck (tNulW.cells tO) [(tO.a.toNat, 32), (tO.b.toNat, 40)] false false false = none
    ∧ ∃ w' x, walksFrom (coitEach 0 tNulW tO (tNulW.active tO.guard) tNulW) ⟨tNulS, [], []⟩ w' x ∧ true = true :=
  ⟨by decide, rfl, by decide, by decide, (okX_iff _ _ (fun _ _ => true)).1 (by decide +kernel)⟩
def tUniO : WOp := { tG with m := 1 }
theorem wit_NullCursors_union : tUniO.m.getLsbD 0 = true ∧ tNulW.active tUniO.guard = [0]
    ∧ tNulW.curCheck [Machine.Cell.grp] [(tUniO.a.toNat, 32), (tUniO.b.toNat, 40)] false false true = none
    ∧ (tUniO.b.toNat, tUniO.a.toNat) ∈ [(tUniO.a.toNat, tUniO.b.toNat), (tUniO.b.toNat, tUniO.a.toNat)]
    ∧ daddr tNulW .grp tUniO.a.toNat = 0 ∧ daddr tNulW .grp tUniO.b.toNat ≠ 0
    ∧ (let c := Cur.ofNat (tNulW.curAt .grp tUniO.b.toNat)
       c.done = false ∧ ∃ l x1, walksFrom ((tU tNulW).levelOf c tUniO.b.toNat) ⟨tNulS, [], []⟩ l x1
        ∧ okX ((tU tNulW).coord l c true) x1 (fun _ x2 => okX ((tU tNulW).entryPos l c false) x2 (fun p x3 =>
          decide (p < 2 ^ 64) && okX ((tU tNulW).advance l c) x3 (fun _ _ => true))) = true) :=
  ⟨by decide, by decide, by decide, by decide, by decide, by decide, by decide, (okX_iff _ _ _).1 (by decide +kernel)⟩

/-- An update of the wave is pending on the volume's descriptor, and on a pointer of its root. -/
theorem wit_Volumes_busy : ({ tVol with redgs := [{ tRedg with pa := 0x40020000 }] } : State).accBusy 0 tVolW
      [((tVolW.greg tVolO.a.toNat).toNat, 64)] = true
    ∧ ({ tVol with redgs := [{ tRedg with pa := 0x40030000 }] } : State).accBusy 0 tVolW
      [((tVolW.greg tVolO.a.toNat).toNat, 64)] = false
    ∧ ({ tVol with redgs := [{ tRedg with pa := 0x40030000 }] } : State).accBusy 0 tVolW [(0x30000, 8)] = true
    ∧ (let r := (⟨tVol, tVolW, [], false, []⟩ : VRun).lane 0 tVolW tVolO tV .load 0
       r.seen = [(0x30000, 8, false)]) := by decide +kernel
/-- A store that installs a pointer, while an update of another address is pending. -/
def tGrowV : Vol := ⟨0x20000, 0x30000, 0, 1, 0, 0, 15, 7, 7⟩
def tGrowW : Wave := { tVolW with regs := { tVolW.regs with v := [(512, 8)] } }
def tGrowS : State :=
  let m1 := memWrite tVol.mem 0x40030000 (bytesOf 8 0x30000)
  { tVol with
    mem := memWrite m1 0x40050000 (bytesOf 8 0x34000), redgs := [tRedg]
    ctxs := [(1, { placedCtx with heaps := [(0, ⟨0x40050000, 0, 0, 0, 0, 1, 0, 0⟩)] })] }
theorem wit_Volumes_grow : tGrowS.redgBusy 0 = true
    ∧ (let r := (⟨tGrowS, tGrowW, [], false, []⟩ : VRun).lane 0 tGrowW tVolO tGrowV .store 0
       (∃ p ∈ r.seen, p.2.2 = true) ∧ ∀ p ∈ r.seen, tGrowS.heldBy tGrowW.gang p.2.2 false p.1 p.2.1 = none) := by
  decide +kernel

/-- The wave's next word is `BOOL3` with D = V1; the pool unit owes lane 3 of V1, or of V9. -/
def tPoolW (dst : Nat) : State := { tS.placeCode (bytesOf 8 0xC004030201C3F805) with
  poolReqs := [{ tReq 0 with dst := dst }] }
theorem wit_InvalidationsAndPool_pick : ((tPoolW 9).pick ⟨0, 0, true, 1⟩ 1).isSome = true
    ∧ ((tPoolW 9).nextWord 0 tW).isOk = true
    ∧ (tPoolW 2).pick ⟨0, 0, true, 1⟩ 1 = none ∧ (tPoolW 2).poolHolds 0 tW = true
    ∧ ((tPoolW 1).pick ⟨0, 0, true, 1⟩ 1).isSome = true ∧ (tReq 0).late = false
    ∧ ({ tReq 0 with late := true } : PoolReq).late = true := by decide +kernel

/-! ## Small steps of the rules on caches, caps and conversions -/

/-- R53: the background nibble 1000b of an INT4S destination is written as −7, 1001b; R285: that of INT8 as it is. -/
theorem test_xfer_background : xBack (8 * 2 ^ 768) (TDesc.ofNat 0) = xBack (9 * 2 ^ 768) (TDesc.ofNat 0) := by decide +kernel
/-- R118: an instruction fetch sees what the core itself has stored and not yet drained. -/
theorem test_fetch_forward : ({ Core.init with wcb := [(1, ⟨0xAB, 2, 1, 15, 0⟩)] } : Core).forward 16 [1, 2] = [1, 0] := by
  decide +kernel

/-! ## Witnesses: levels of every kind (O38) -/

theorem nums_iff {u : Walker} {rs : List (Nat × Nat)} {x : WSt} (l : List Nat) (p : WSt → Bool)
    (h : okX (nums u rs) x (fun vs y => decide (vs = l) && p y) = true) :
    ∃ y, walksFrom (nums u rs) x l y ∧ p y = true := by
  obtain ⟨vs, y, hw, hp⟩ := (okX_iff _ _ _).1 h
  simp only [Bool.and_eq_true, decide_eq_true_eq] at hp
  exact ⟨y, hp.1 ▸ hw, hp.2⟩
theorem lvl_iff {u : Walker} {c : Cur} {r : Nat} {x : WSt} (l : Lvl) (h : okX (u.levelOf c r) x (fun a y =>
    decide (a = l) && (decide (y.s = x.s) && (decide (y.drawn = x.drawn) && decide (y.seen = x.seen)))) = true) :
    walksFrom (u.levelOf c r) x l x := by
  obtain ⟨a, ⟨s, d, n⟩, hw, hp⟩ := (okX_iff _ _ _).1 h
  obtain ⟨x1, x2, x3⟩ := x
  simp only [Bool.and_eq_true, decide_eq_true_eq] at hp
  obtain ⟨rfl, rfl, rfl, rfl⟩ := hp
  exact hw
/-- A level of dimension 8 and COUNT 2 at VA 0x20000, its A0 at 0x20040. -/
def tLvD (kind blk a1 a2 : Nat) : Nat :=
  kind + blk * 2 ^ 16 + 8 * 2 ^ 64 + 0x20040 * 2 ^ 128 + a1 * 2 ^ 192 + a2 * 2 ^ 256 + 2 ^ 161 * 2 ^ 160
/-- A wave of one lane that has opened C2 and C3 on the level, and the arrays that stand after its descriptor. -/
def tLvW (d : Nat) (x : W128) (g3 : W64) : Wave := { tW with
  exm := 1
  regs := { tW.regs with g := [(2, 0x20000), (3, g3), (4, 0x20000)], c := [(2, x), (3, x)] }
  sys := { tW.sys with levels := [(2, BitVec.ofNat 512 d), (3, BitVec.ofNat 512 d)], starts := [(2, 0), (3, 0)] } }
def tUp (n : Nat) : Nat := n * 2 ^ 256 * 2 ^ 256
def tLvS (w : Wave) (d a0 a1 a2 : Nat) : State := tAt w (d + tUp (a0 + tUp (a1 + tUp a2))) 256
/-- CMP: pos 0, 2; crd 3, 5. BMP: bits 1 and 3. HSH: one bucket, entries 0 and 1 of parent 0 at 3 and 5. RLE: runs of
1 to 2 and of 4. BLK of two: blocks 0 and 2. CCH: a chunk at VA 0x21000 of slots 3 and 5. -/
def tDc : Nat := tLvD 1 0 0x20080 0
def tDb : Nat := tLvD 2 0 0x20080 0
def tDh : Nat := tLvD 3 0 0x20080 0
def tDr : Nat := tLvD 4 0 0x20080 0x200C0
def tDk : Nat := tLvD 5 1 0x20080 0
def tDq : Nat := tLvD 6 0 0x21000 0
def tWc (t : W64) : Wave := tLvW tDc (curBits 1 false 0x20000 0 2) t
def tWb : Wave := tLvW tDb (curBits 2 false 0x20000 1 8) 3
def tWh (t : W64) : Wave := tLvW tDh (curBits 3 false 0x20000 0 0) t
def tWr : Wave := tLvW tDr (curBits 4 false 0x20000 0 131072) 4
def tWk : Wave := tLvW tDk (curBits 5 false 0x20000 0 4) 4
def tWq : Wave := tLvW tDq (curBits 6 false 0x20000 0 2) 5
def tSc (t : W64) : State := tLvS (tWc t) tDc (2 * 2 ^ 32) (3 + 5 * 2 ^ 16) 0
def tSb : State := tLvS tWb tDb 10 0 0
def tSh (t : W64) : State := tLvS (tWh t) tDh 0 (3 * 2 ^ 40 + 2 ^ 80 + (5 * 2 ^ 40 + (2 ^ 40 - 1) * 2 ^ 80) * 2 ^ 128) 0
def tSr : State := tLvS tWr tDr (2 * 2 ^ 32) (1 + 4 * 2 ^ 16) (2 + 1 * 2 ^ 16)
def tSk : State := tLvS tWk tDk (2 * 2 ^ 32) (0 + 2 * 2 ^ 16) 0
def tSq : State :=
  let s := tLvS tWq tDq (2 * 2 ^ 32) 0 0
  { s with mem := memWrite s.mem 0x40021000 (bytesOf 96 (2 * 2 ^ 128 + tUp (3 + 5 * 2 ^ 128))) }
/-- The level of C2, as its open found it. -/
def tLvl (d : Nat) : Lvl := { (Lvl.parse 0x20000 d false).getD default with start := some 0 }
def tWX (s : State) : WSt := ⟨s, [], []⟩
def tCu (w : Wave) : Cur := Cur.ofNat (w.creg 2).toNat
theorem wit_Cursors_levels : ∀ p ∈ [(tWc 5, tSc 5, tDc), (tWb, tSb, tDb), (tWh 5, tSh 5, tDh), (tWr, tSr, tDr),
      (tWk, tSk, tDk), (tWq, tSq, tDq)],
    At p.2.1 0 p.1 ∧ p.1.guardGrp tG.guard = true ∧ (tCu p.1).daddr ≠ 0 ∧ (tCu p.1).app = false
    ∧ (tCu p.1).done = false ∧ walksFrom ((tU p.1).levelOf (tCu p.1) 2) (tWX p.2.1) (tLvl p.2.2) (tWX p.2.1)
    ∧ (tLvl p.2.2).kind ≤ 6 := by
  intro p h
  fin_cases h <;> exact ⟨⟨rfl, rfl⟩, rfl, by decide +kernel, by decide +kernel, by decide +kernel,
    lvl_iff _ (by decide +kernel), by decide +kernel⟩
/-- The first entry of each level: its coordinate and its entry position. -/
theorem wit_Cursors_get_cmp : ∃ y, coordIs (tU (tWc 5)) (tLvl tDc) (tCu (tWc 5)) false (tWX (tSc 5)) 3 y
    ∧ placeIs (tU (tWc 5)) (tLvl tDc) (tCu (tWc 5)) false y 0 y := by
  obtain ⟨y, h, -⟩ := nums_iff (u := tU (tWc 5)) (rs := [(0x20080, 2)]) (x := tWX (tSc 5)) [3] (fun _ => true)
    (by decide +kernel)
  exact ⟨y, ⟨by decide +kernel, by decide +kernel, y, h, .inl ⟨.inl rfl, rfl⟩⟩, rfl, rfl⟩
theorem wit_Cursors_get_bmp : ∃ y, coordIs (tU tWb) (tLvl tDb) (tCu tWb) false (tWX tSb) 1 (tWX tSb)
    ∧ placeIs (tU tWb) (tLvl tDb) (tCu tWb) false (tWX tSb) 0 y := by
  obtain ⟨y, h, -⟩ := nums_iff (u := tU tWb) (rs := [(0x20080, 4), (0x20040, 8)]) (x := tWX tSb) [0, 10] (fun _ => true)
    (by decide +kernel)
  exact ⟨y, ⟨by decide +kernel, by decide +kernel, by decide +kernel, by decide +kernel, rfl⟩, 0, 10, h, by decide +kernel⟩
theorem wit_Cursors_get_hsh : ∃ y, coordIs (tU (tWh 5)) (tLvl tDh) (tCu (tWh 5)) false (tWX (tSh 5)) 3 y
    ∧ placeIs (tU (tWh 5)) (tLvl tDh) (tCu (tWh 5)) false y 0 y := by
  obtain ⟨y, h, -⟩ := nums_iff (u := tU (tWh 5)) (rs := [(0x20080, 16)]) (x := tWX (tSh 5)) [3 * 2 ^ 40 + 2 ^ 80]
    (fun _ => true) (by decide +kernel)
  exact ⟨y, ⟨by decide +kernel, by decide +kernel, _, h, by decide +kernel⟩, rfl, rfl⟩
theorem wit_Cursors_get_rle : ∃ y, coordIs (tU tWr) (tLvl tDr) (tCu tWr) false (tWX tSr) 1 y
    ∧ placeIs (tU tWr) (tLvl tDr) (tCu tWr) false y 0 y := by
  obtain ⟨y, h, -⟩ := nums_iff (u := tU tWr) (rs := [(0x20080, 2), (0x200C0, 2)]) (x := tWX tSr) [1, 2] (fun _ => true)
    (by decide +kernel)
  exact ⟨y, ⟨by decide +kernel, by decide +kernel, 1, 2, ⟨y, h, by decide +kernel, by decide +kernel, .inl ⟨.inl rfl, rfl⟩⟩, by decide +kernel⟩,
    by decide +kernel, rfl⟩
theorem wit_Cursors_get_blk : ∃ y, coordIs (tU tWk) (tLvl tDk) (tCu tWk) false (tWX tSk) 0 y
    ∧ placeIs (tU tWk) (tLvl tDk) (tCu tWk) false y 0 y := by
  obtain ⟨y, h, -⟩ := nums_iff (u := tU tWk) (rs := [(0x20080, 2)]) (x := tWX tSk) [0] (fun _ => true)
    (by decide +kernel)
  exact ⟨y, ⟨by decide +kernel, by decide +kernel, 0, y, h, by decide +kernel, .inl ⟨.inl rfl, rfl⟩⟩, by decide +kernel, rfl⟩
theorem wit_Cursors_get_cch : ∃ y z, coordIs (tU tWq) (tLvl tDq) (tCu tWq) false (tWX tSq) 3 y
    ∧ placeIs (tU tWq) (tLvl tDq) (tCu tWq) false y 0 y ∧ placeIs (tU tWq) (tLvl tDq) (tCu tWq) true y 0x21048 z := by
  obtain ⟨bs, x1, hr, hp⟩ := (okX_iff ((tU tWq).read 4 0x21000 20) (tWX tSq) (fun bs y => decide (natOf bs = 2 * 2 ^ 128)
    && okX (nums (tU tWq) [(0x21040, 8)]) y (fun vs y1 => decide (vs = [3]) && okX ((tU tWq).read 4 0x21000 20) y1
      (fun bs _ => decide (natOf bs = 2 * 2 ^ 128))))).1 (by decide +kernel)
  simp only [Bool.and_eq_true, decide_eq_true_eq] at hp
  obtain ⟨y, h, hz⟩ := nums_iff (u := tU tWq) (rs := [(0x21040, 8)]) (x := x1) [3] (fun y1 =>
    okX ((tU tWq).read 4 0x21000 20) y1 (fun bs _ => decide (natOf bs = 2 * 2 ^ 128))) hp.2
  obtain ⟨bs2, z, hr2, hp2⟩ := (okX_iff _ _ _).1 hz
  refine ⟨y, z, ⟨by decide +kernel, by decide +kernel, 0x21040, x1, y, ⟨by decide +kernel, bs, x1, hr, ?_⟩, h, .inl ⟨.inl rfl, rfl⟩⟩,
    ⟨rfl, rfl⟩, 0x21040, ⟨by decide +kernel, bs2, z, hr2, ?_⟩, rfl⟩
  · rw [hp.1]; exact ⟨by decide, nofun, rfl, rfl⟩
  · rw [of_decide_eq_true hp2]; exact ⟨by decide, nofun, rfl, rfl⟩

/-- OPEN and DESC on the CMP level: the fibre of parent position 0 is 0 to 2. -/
theorem wit_Cursors_fibre : (∃ l x1 x2, walksFrom ((tU (tWc 0)).openLevel ((tWc 0).greg tG.a.toNat).toNat false)
      (tWX (tSc 0)) l x1 ∧ l.kind ≤ 6 ∧ fibreIs (tU (tWc 0)) l ((tWc 0).greg tG.b.toNat).toNat x1 0 2 x2)
    ∧ ∃ ch x2 x3, ((tWc 0).greg tG.b.toNat).toNat < (tLvl tDc).count
      ∧ walksFrom ((tU (tWc 0)).level ((tWc 0).greg tG.c.toNat).toNat false) (tWX (tSc 0)) ch x2 ∧ ch.kind ≤ 6
      ∧ fibreIs (tU (tWc 0)) ch ((tWc 0).greg tG.b.toNat).toNat x2 0 2 x3 := by
  have go : ∀ m : Walk Lvl, okX m (tWX (tSc 0)) (fun l y => decide (l.kind = 1 ∧ l.a0 = 0x20040 ∧ l.pw = 4)
        && okX (nums (tU (tWc 0)) [(0x20040, 4), (0x20044, 4)]) y (fun vs _ => decide (vs = [0, 2]) && true)) = true →
      ∃ l x1 x2, walksFrom m (tWX (tSc 0)) l x1 ∧ l.kind ≤ 6
        ∧ fibreIs (tU (tWc 0)) l ((tWc 0).greg tG.b.toNat).toNat x1 0 2 x2 := by
    intro m h
    obtain ⟨l, x1, hw, hp⟩ := (okX_iff _ _ _).1 h
    simp only [Bool.and_eq_true, decide_eq_true_eq] at hp
    obtain ⟨⟨hk, ha, hb⟩, hn⟩ := hp
    obtain ⟨x2, h2, -⟩ := nums_iff [0, 2] (fun _ => true) (by simpa using hn)
    refine ⟨l, x1, x2, hw, by omega, ?_⟩
    simp only [fibreIs, hk]
    have hg : ((tWc 0).greg tG.b.toNat).toNat = 0 := by decide +kernel
    refine ⟨0, 2, ?_, by decide, nofun, by simp, by simp⟩
    simp only [hg, ha, hb]
    exact h2
  refine ⟨go _ (by decide +kernel), ?_⟩
  obtain ⟨l, x1, x2, h⟩ := go ((tU (tWc 0)).level ((tWc 0).greg tG.c.toNat).toNat false) (by decide +kernel)
  exact ⟨l, x1, x2, by decide +kernel, h⟩
/-- NEXT for one lane gives the entry at 0 and moves to 1. -/
def tNx : WOp := { tG with a := 64 }
theorem wit_Cursors_next_level : (tNx.m.getLsbD 0 = false ∧ 64 ≤ tNx.a.toNat ∧ tNx.a.toNat < 80
      ∧ (tWc 5).active tNx.guard = [0] ∧ Cur.ofNat ((tWc 5).creg tNx.b.toNat).toNat = tCu (tWc 5))
    ∧ walksFrom ((tU (tWc 5)).levelOf (tCu (tWc 5)) 3) (tWX (tSc 5)) (tLvl tDc) (tWX (tSc 5))
    ∧ ∃ y, deliveredTo (tU (tWc 5)) (tLvl tDc) false [0] (tCu (tWc 5)) (tWX (tSc 5)) [some (3, 0)]
      { tCu (tWc 5) with pos := 1 } y := by
  refine ⟨by decide +kernel, lvl_iff _ (by decide +kernel), ?_⟩
  obtain ⟨y, h, -⟩ := nums_iff (u := tU (tWc 5)) (rs := [(0x20080, 2)]) (x := tWX (tSc 5)) [3] (fun _ => true)
    (by decide +kernel)
  exact ⟨y, .inr ⟨by decide +kernel, 3, 0, { tCu (tWc 5) with pos := 1 }, y, y, y, [],
    ⟨by decide +kernel, by decide +kernel, y, h, .inl ⟨.inr ⟨0, by decide +kernel, by decide +kernel⟩, rfl⟩⟩,
    ⟨rfl, rfl⟩, ⟨rfl, by decide +kernel⟩, rfl, rfl, rfl, rfl⟩⟩
/-- SEEK on a cursor that is done, and to 8, the dimension. -/
def tWcD : Wave := tLvW tDc (curBits 1 true 0x20000 2 2) 5
theorem wit_Cursors_seek_ends : ((tCu tWcD).done = true ∧ (tCu tWcD).daddr ≠ 0 ∧ (tCu tWcD).app = false
      ∧ ∃ l x1, walksFrom ((tU tWcD).levelOf (tCu tWcD) 2) (tWX (tLvS tWcD tDc 0 0 0)) l x1 ∧ decide (l.kind ≤ 6) = true)
    ∧ (tLvl tDc).dim ≤ ((tWc 8).greg tG.b.toNat).toNat ∧ (tCu (tWc 8)).done = false
    ∧ ((tWc 5).greg tG.b.toNat).toNat < (tLvl tDc).dim :=
  ⟨⟨by decide +kernel, by decide +kernel, by decide +kernel, (okX_iff _ _ (fun (l : Lvl) _ => decide (l.kind ≤ 6))).1
    (by decide +kernel)⟩, by decide +kernel⟩
/-- SEEK to 3 on the BMP level finds its bit. -/
theorem wit_Cursors_seek_bmp : (tLvl tDb).dim ≤ (tCu tWb).fin ∧ (tWb.greg tG.b.toNat).toNat < (tLvl tDb).dim
    ∧ ∃ y, bitIs (tU tWb) (tLvl tDb) (tCu tWb).fin 1
      (max (tCu tWb).pos (densePos (tLvl tDb) (tCu tWb) (tWb.greg tG.b.toNat).toNat)) (tWX tSb) 3 y := by
  obtain ⟨y, h, -⟩ := nums_iff (u := tU tWb) (rs := [(0x20040, 8)]) (x := tWX tSb) [10] (fun _ => true)
    (by decide +kernel)
  refine ⟨by decide +kernel, by decide +kernel, y, .inr ⟨by decide +kernel, 10, y, h, .inl ⟨3, by decide +kernel,
    by decide +kernel, by decide +kernel, ?_, by decide +kernel, rfl⟩⟩⟩
  intro b h1 h2
  have h3 : max (tCu tWb).pos (densePos (tLvl tDb) (tCu tWb) (tWb.greg tG.b.toNat).toNat) % 64 = 3 := by decide +kernel
  omega
/-- SEEK on the HSH level: to 5 the chain of the one bucket finds entry 1, which a cursor at 0 takes and one at 2
does not; to 4 it finds none; and a bucket that holds none. -/
theorem wit_Cursors_seek_hsh : (∃ x2 y, walksFrom (nums (tU (tWh 5)) [((tLvl tDh).a0 + bucketOf (tLvl tDh).hb
        (tCu (tWh 5)).fin 5 * (tLvl tDh).pw, (tLvl tDh).pw)]) (tWX (tSh 5)) [0] x2
      ∧ chainIs (tU (tWh 5)) (tLvl tDh) (tCu (tWh 5)).fin 5 2 0 x2 (some 1) y ∧ (tCu (tWh 5)).pos ≤ 1)
    ∧ ∃ x2 y, walksFrom (nums (tU (tWh 4)) [((tLvl tDh).a0 + bucketOf (tLvl tDh).hb
        (tCu (tWh 4)).fin 4 * (tLvl tDh).pw, (tLvl tDh).pw)]) (tWX (tSh 4)) [0] x2
      ∧ chainIs (tU (tWh 4)) (tLvl tDh) (tCu (tWh 4)).fin 4 2 0 x2 none y := by
  constructor
  · obtain ⟨x1, h1, p1⟩ := nums_iff (u := tU (tWh 5)) (rs := [((tLvl tDh).a0 + bucketOf (tLvl tDh).hb
        (tCu (tWh 5)).fin 5 * (tLvl tDh).pw, (tLvl tDh).pw)]) (x := tWX (tSh 5)) [0]
      (fun y => okX (nums (tU (tWh 5)) [(0x20080, 16)]) y (fun vs y => decide (vs = [3 * 2 ^ 40 + 2 ^ 80])
        && okX (nums (tU (tWh 5)) [(0x20090, 16)]) y (fun vs _ => decide (vs = [5 * 2 ^ 40 + (2 ^ 40 - 1) * 2 ^ 80])
          && true))) (by decide +kernel)
    obtain ⟨x2, h2, p2⟩ := nums_iff _ _ p1
    obtain ⟨x3, h3, -⟩ := nums_iff _ (fun _ => true) p2
    exact ⟨x1, x3, h1, ⟨by decide +kernel, _, x2, h2, by decide +kernel, .inr (.inr ⟨by decide +kernel,
      by decide +kernel, by decide +kernel, _, x3, h3, by decide +kernel, .inl ⟨by decide +kernel, rfl, rfl⟩⟩)⟩,
      by decide +kernel⟩
  · obtain ⟨x1, h1, p1⟩ := nums_iff (u := tU (tWh 4)) (rs := [((tLvl tDh).a0 + bucketOf (tLvl tDh).hb
        (tCu (tWh 4)).fin 4 * (tLvl tDh).pw, (tLvl tDh).pw)]) (x := tWX (tSh 4)) [0]
      (fun y => okX (nums (tU (tWh 4)) [(0x20080, 16)]) y (fun vs y => decide (vs = [3 * 2 ^ 40 + 2 ^ 80])
        && okX (nums (tU (tWh 4)) [(0x20090, 16)]) y (fun vs _ => decide (vs = [5 * 2 ^ 40 + (2 ^ 40 - 1) * 2 ^ 80])
          && true))) (by decide +kernel)
    obtain ⟨x2, h2, p2⟩ := nums_iff _ _ p1
    obtain ⟨x3, h3, -⟩ := nums_iff _ (fun _ => true) p2
    exact ⟨x1, x3, h1, ⟨by decide +kernel, _, x2, h2, by decide +kernel, .inr (.inr ⟨by decide +kernel,
      by decide +kernel, by decide +kernel, _, x3, h3, by decide +kernel, .inr (.inl ⟨by decide +kernel,
      by decide +kernel, rfl, rfl⟩)⟩)⟩⟩
theorem wit_Cursors_seek_hsh_ends : (∃ x2, walksFrom (nums (tU (tWh 5)) [((tLvl tDh).a0, (tLvl tDh).pw)])
      (tWX (tLvS (tWh 5) tDh (2 ^ 32 - 1) 0 0)) [2 ^ (8 * (tLvl tDh).pw) - 1] x2 ∧ true = true)
    ∧ 1 < (Cur.ofNat (curBits 3 false 0x20000 2 0).toNat).pos :=
  ⟨nums_iff _ (fun _ => true) (by decide +kernel), by decide +kernel⟩
/-- SEEK to 5 on the CMP level passes the entry of 3. -/
theorem wit_Cursors_seek_scan : ∃ y, seekIs (tU (tWc 5)) (tLvl tDc) 5 ((tCu (tWc 5)).fin - (tCu (tWc 5)).pos + 1)
    (tCu (tWc 5)) (tWX (tSc 5)) { tCu (tWc 5) with pos := 1 } true y := by
  obtain ⟨x1, h1, p1⟩ := nums_iff (u := tU (tWc 5)) (rs := [(0x20080, 2)]) (x := tWX (tSc 5)) [3]
    (fun y => okX (nums (tU (tWc 5)) [(0x20082, 2)]) y (fun vs y => decide (vs = [5])
      && okX (nums (tU (tWc 5)) [(0x20080, 2)]) y (fun vs _ => decide (vs = [3]) && true))) (by decide +kernel)
  obtain ⟨x2, h2, p2⟩ := nums_iff _ _ p1
  obtain ⟨x3, h3, -⟩ := nums_iff _ (fun _ => true) p2
  exact ⟨x3, 3, x1, ⟨by decide +kernel, by decide +kernel, x1, h1, .inl ⟨.inr ⟨0, by decide +kernel, by decide +kernel⟩,
    rfl⟩⟩, .inr ⟨by decide, { tCu (tWc 5) with pos := 1 }, x1, ⟨rfl, by decide +kernel⟩, .inr ⟨by decide +kernel, 5, x3,
    ⟨by decide +kernel, by decide +kernel, x2, h2, .inr ⟨by decide +kernel, by decide +kernel, 3, h3, by decide⟩⟩,
    .inl ⟨by decide, rfl, by decide, rfl⟩⟩⟩⟩

/-! ## Witnesses: clauses of waits, blocks, handlers and steps -/

theorem wit_Ends_pool : tS.poolReqs = [] ∧ ({ tS with poolReqs := [tReq 0] } : State).relBusy 0 = false
    ∧ (tReq 0).wave = 0 := by decide +kernel
theorem wit_FencesAndCaches_redg : ({ tS with redgs := [tRedg] } : State).redgBusy 0 = true ∧ tS.redgBusy 0 = false
    ∧ ({ tEng tProg with redgs := [tRedg] } : State).redgBusy 0 = true ∧ (tEng tProg).redgBusy 0 = false := by
  decide +kernel
/-- A queue at an offset of 4; of three entries; and of 16 entries from 65,504 on. -/
theorem wit_Queues_illegal :
    let w := fun (a b : W64) => ({ tW with regs := { tW.regs with g := [(2, a), (3, b)] } } : Wave)
    (w 4 4).off32 tG.a.toNat % 32 ≠ 0 ∧ bindOperand ((w 0 3).greg tG.b.toNat).toNat = none
      ∧ placedGang.inBounds ((w 65504 16).off32 tG.a.toNat) 32 = true
      ∧ bindOperand ((w 65504 16).greg tG.b.toNat).toNat = some (16, 0, 16)
      ∧ placedGang.inBounds ((w 65504 16).off32 tG.a.toNat) (32 + 16 * 8) = false := by decide +kernel
/-- The group-wide `LDC`. -/
theorem wit_ConstantsAndPrefetch_group : Machine.Cell.grp ∈ tW.cells tG ∧ tW.constAt tG .grp + tG.sz ≤ 4096
    ∧ tS.accBusy 0 tW (tW.constSpans tG placedEntry) = false := by decide +kernel

/-- A job of one sector with the barrier at 4,096, in which 5 sectors, or all but one, stand to come. -/
def tJBar : Nat := tJBlock false - (0xFFFFFFFF - 4096) * 2 ^ 144 * 2 ^ 144
def tJBarG (n : Nat) : Gang := (placedGang.scrWrite 0 (bytesOf 64 tJBar)).setBar 4096 ⟨3, 2, 2, 0, n, 0, 0, 0⟩
def tJBarS (n : Nat) : State := { tEng tProg with gangs := [(0, tJBarG n)] }
theorem wit_GatherJobs_barrier : ∀ n ∈ [5, 2 ^ 24 - 1],
    (tJBarG n).scrNat 0 64 = tJBar ∧ gBlockOk (tJBarG n) tJBar false = true ∧ gBar tJBar = 4096
    ∧ ((tJBarG n).bar 4096).inn = n ∧ (n + gTotal tJBar < 2 ^ 24 ↔ n = 5) ∧ (tJBarG n).barOk 4096 = true
    ∧ (tJBarS n).freeUnit (engineDie 0) = some 0 ∧ (tJBarS n).fpRoom 0 (gRanges tJBar false) = true
    ∧ tProg.st ≠ 2 := by decide +kernel
theorem wit_GatherJobs_waiting : ∀ n ∈ [5, 2 ^ 24 - 1],
    let j := { tJob 0 false with block := BitVec.ofNat 512 tJBar, accepted := false, prog := some (0, 0) }
    let s : State := { tJBarS n with gjobs := [j] }
    s.gjobs[0]? = some j ∧ s.freeUnit (coreDie j.core) = some 0 ∧ s.fpRoom j.core (gRanges j.block.toNat j.sctr) = true
      ∧ j.owner.gang = some 0 ∧ s.gangs.find 0 = some (tJBarG n) ∧ gBar j.block.toNat = 4096
      ∧ s.prog? 0 0 = some tProg := by decide +kernel

/-- A lane-handler wave at `RTT.SKIP` and at `RTT.GO` with A = 5. -/
def tSkip : Nat := 0x00000000000BFAF9
def tGo : Nat := 0x000000050013FAF9
def tLhS (w : Nat) : State := { (tRun w).setWave 0 tLaneW with cur := some 0 }
def tLhF (w : Nat) : State × Except FetchTrap (W64 × W64) :=
  ((slotStart (tLhS w) (tSlot w)).setWave 0 (atFetch (tLhS w) (tSlot w) tLaneW)).fetchAt 0
    (atFetch (tLhS w) (tSlot w) tLaneW)
theorem wit_Returns_lane_skip : ∀ w ∈ [tSkip, tGo], Fetches (tLhS w) (tSlot w) 0 tLaneW (tLhF w).1 (BitVec.ofNat 64 w, 0)
    ∧ (tLhF w).1.issued = none ∧ tLaneW.sys.inTrap = false ∧ At (tLhS w) 0 tLaneW
    ∧ tLaneW.guardGrp tG.guard = true
    ∧ (match decodeWave { (tLhF w).1.decodeCtx (atFetch (tLhS w) (tSlot w) tLaneW) with inTrap := true }
        (BitVec.ofNat 64 w) 0 with
      | .ok (.rttSkip _) => decide (w = tSkip)
      | .ok (.rttGo o) => decide (w = tGo ∧ o.a = 5)
      | _ => false) = true := by
  intro w h
  refine ⟨⟨tFree _ _ ?_ ?_ ?_, ?_, rfl, rfl, rfl, rfl, ?_, ?_, tOk _ _ ?_⟩, ?_, rfl, ⟨?_, ?_⟩, ?_, ?_⟩
  all_goals revert w
  all_goals decide +kernel

/-- The step of `ICMP` moves its wave on, with nothing else; an instruction that stands still; an engine's turn in
a package where no island is off. -/
def tStepU : State := { slotHeld (tRun tIcmp) { (tFetched tIcmp).1 with
  cur := some 0, insn := (BitVec.ofNat 64 tIcmp, 0) } (tSlot tIcmp) 0 none (tRunW tIcmp) with issued := none }
theorem wit_StepRunsDecoded_next :
    (match decodeWave ((tFetched tIcmp).1.decodeCtx (atFetch (tRun tIcmp) (tSlot tIcmp) (tRunW tIcmp)))
        (BitVec.ofNat 64 tIcmp) 0 with
      | .ok i => (match exec i tStepU with
        | .next v => tStepU.writesOn v && decide (v.waves.find 0 ≠ tStepU.waves.find 0) && v.poolReqs.isEmpty
          && (v.waves.find 0).all (fun y => y.sys.resume.isNone)
        | _ => false)
      | .error _ => false) = true
    ∧ (Instr.fenceRel tO).wave?.isSome = true ∧ tMat.relBusy 0 = true ∧ tHaltS.pkg.islands = [] := by decide +kernel

end Sys2Proof.Tests
end

section
/-! Guarded group-wide instructions (R8, R124): each runs its meaning behind the test of its guard. -/

namespace Sys2Proof.Proofs

open Sys2Proof Sys2Proof.Machine Sys2Proof.Claims

/-- R8, R124: the arms of the group-wide instructions differ only in the meaning `f` that runs when the guard
holds; the guard itself is tested in one place, `onGroup`. -/
theorem exec_groupOp_eq_onGroup {mk : WOp → Instr} (hmk : mk ∈ groupOps) (o : WOp) (s : State) :
    ∃ f : Nat → Wave → Out, exec (mk o) s = onGroup s o f := by
  unfold groupOps at hmk
  fin_cases hmk <;> exact ⟨_, rfl⟩

/-- Settles O9: past a guard that fails, `onGroup` leaves the meaning unrun and retires the wave as it is. That
`END` is skipped so too is log 135's reading of R181. -/
theorem guardSkips : Obligations.GuardSkips := by
  intro mk hmk o s k w hat hguard
  obtain ⟨f, hexec⟩ := exec_groupOp_eq_onGroup hmk o s
  rw [hexec]
  exact onGroup_skip hat.cur hat.wave hguard f

end Sys2Proof.Proofs
end

section
/-! Branches and the convergence stack (R30-R32, R173, R176, R178). -/

namespace Sys2Proof.Proofs

open Sys2Proof Sys2Proof.Machine Sys2Proof.Claims

/-- Bits [2:0] of an address are zero just when 8 divides it (R173). -/
theorem aligned8_iff (t : W64) : aligned8 t = true ↔ t.toNat % 8 = 0 := by
  simp [aligned8, ← BitVec.toNat_inj, BitVec.extractLsb'_toNat]

theorem exec_bra {o : WOp} {s : State} {k : Nat} {w : Wave} (hat : At s k w) :
    exec (.bra o) s = branchTo o s k w (w.target o) false := onWave_at hat.cur hat.wave _

theorem exec_braIndirect {o : WOp} {s : State} {k : Nat} {w : Wave} (hat : At s k w) :
    exec (.braIndirect o) s = branchTo o s k w (w.greg o.a.toNat) true := onWave_at hat.cur hat.wave _

/-! ## What `push` and `pop` answer (R31, R32) -/

theorem push_of_room {w : Wave} (h : w.stack.length < 32) (kind : BitVec 2) (m pc : W64) :
    w.push kind m pc = some { w with stack := ⟨m, pcw pc, kind⟩ :: w.stack } :=
  if_neg (Nat.not_le.2 h)

theorem push_of_full {w : Wave} (h : 32 ≤ w.stack.length) (kind : BitVec 2) (m pc : W64) :
    w.push kind m pc = none := if_pos h

/-- The wave that a popped entry leaves: at `pc`, its lanes those of the entry that are permitted (R28, R31). -/
def popped (w : Wave) (e : StackEnt) (t : List StackEnt) (pc : W64) : Wave :=
  ({ w with stack := t, pc := pc }).setExm e.mask

theorem pop_path {w : Wave} {e : StackEnt} {t : List StackEnt} (hs : w.stack = e :: t) (hk : e.kind = 1)
    (next : W64) : w.pop next = .ok (popped w e t e.pc) := by simp [Wave.pop, hs, hk, popped]

theorem pop_join {w : Wave} {e : StackEnt} {t : List StackEnt} (hs : w.stack = e :: t) (hk : e.kind = 0)
    (next : W64) : w.pop next = .ok (popped w e t next) := by simp [Wave.pop, hs, hk, popped]

theorem pop_empty {w : Wave} (hs : w.stack = []) (next : W64) : w.pop next = .error 6 := by
  simp [Wave.pop, hs]

theorem pop_stray {w : Wave} {e : StackEnt} {t : List StackEnt} (hs : w.stack = e :: t) (h0 : e.kind ≠ 0)
    (h1 : e.kind ≠ 1) (next : W64) : w.pop next = .error 7 := by simp only [Wave.pop, hs, if_neg h0, if_neg h1]

theorem popJoin_ok {w x : Wave} {o : WOp} (h : w.pop (w.next o) = .ok x) (s : State) (k : Nat) (w0 : Wave) :
    popJoin o s k w0 w = .next (s.retireAt k x x.pc) := by simp only [popJoin, h]

theorem popJoin_error {w : Wave} {o : WOp} {c : Nat} (h : w.pop (w.next o) = .error c) (s : State) (k : Nat)
    (w0 : Wave) : popJoin o s k w0 w = trapWith s k w0 c w0.stack.length 0 0 0 := by simp only [popJoin, h]

/-! ## The cases of R30 -/

/-- Under a group-wide guard the whole wave goes or stays. -/
theorem branchTo_whole {o : WOp} {w : Wave} {t : W64} {indirect : Bool} (hwhole : wholeGuard o)
    (s : State) (k : Nat) : branchTo o s k w t indirect =
      if w.guardGrp o.guard then
        if indirect && !aligned8 t then illegalField s k w 32 else .next (s.retireAt k w t)
      else .next (s.retireAt k w (after w o)) := by
  unfold branchTo
  split
  · next n neg hg => exact absurd hg (hwhole n neg)
  · rfl

/-- Under a lane predicate the lanes that take the branch tell none, all and a divergence apart. -/
theorem branchTo_lanes {o : WOp} {w : Wave} {t : W64} {indirect : Bool} {n : BitVec 6} {neg : Bool}
    (hg : o.guard = .p n neg) (ht : (indirect && !aligned8 t) = false) (s : State) (k : Nat) :
    branchTo o s k w t indirect =
      if takenLanes w o = 0 then .next (s.retireAt k w (after w o))
      else if takenLanes w o = w.exm then .next (s.retireAt k w t)
      else match w.push 1 (w.exm &&& ~~~takenLanes w o) (after w o) with
        | none => trapWith s k w 5 w.stack.length 0 0 0
        | some x => .next (s.retireAt k { x with exm := takenLanes w o } t) := by
  unfold branchTo takenLanes
  rw [hg]
  simp only [ht, Bool.false_eq_true, if_false]
  rfl

/-- A branch whose target is relative, or aligned, goes by the cases of R30. -/
theorem branchesTo_of_exec {i : Instr} {o : WOp} {s : State} {k : Nat} {w : Wave} {t : W64} {indirect : Bool}
    (hexec : exec i s = branchTo o s k w t indirect) (ht : (indirect && !aligned8 t) = false) :
    BranchesTo i o s k w t := by
  refine ⟨fun hwhole htake => ?_, fun hwhole hstay => ?_, fun n neg hg h0 => ?_, fun n neg hg hall hne => ?_,
    fun n neg hg h0 hall => ⟨fun hroom => ?_, fun hfull => ?_⟩⟩
  · simp [hexec, branchTo_whole hwhole, htake, ht]
  · simp [hexec, branchTo_whole hwhole, hstay]
  · rw [hexec, branchTo_lanes hg ht, if_pos h0]
  · rw [hexec, branchTo_lanes hg ht, hall, if_neg hne, if_pos rfl]
  · rw [hexec, branchTo_lanes hg ht, if_neg h0, if_neg hall, push_of_room hroom]
  · rw [hexec, branchTo_lanes hg ht, if_neg h0, if_neg hall, push_of_full hfull]; rfl

/-- An indirect branch of the whole wave to an address that 8 does not divide is ILLEGAL (R173). -/
theorem braIndirect_misaligned {o : WOp} {s : State} {k : Nat} {w : Wave} (hat : At s k w) (hwhole : wholeGuard o)
    (hg : w.guardGrp o.guard = true) (hmis : (w.greg o.a.toNat).toNat % 8 ≠ 0) :
    exec (.braIndirect o) s = illegalField s k w 32 := by
  have hal : aligned8 (w.greg o.a.toNat) = false := Bool.eq_false_iff.2 ((aligned8_iff _).not.2 hmis)
  simp [exec_braIndirect hat, branchTo_whole hwhole, hg, hal]

/-- Settles O10: both forms run `branchTo`, whose cases are those of R30. -/
theorem branches : Obligations.Branches := by
  intro o s k w hat
  refine ⟨branchesTo_of_exec (exec_bra hat) rfl, fun hal => ?_, fun hwhole hg hmis => ?_⟩
  · exact branchesTo_of_exec (exec_braIndirect hat) (by simp [(aligned8_iff _).2 hal])
  · exact braIndirect_misaligned hat hwhole hg hmis

/-- Settles O12: `CVG.PUSH` is `push`, and `CVG.JOIN` is `pop`. -/
theorem convergence : Obligations.Convergence := by
  intro o s k w hat hg
  have hpush : exec (.cvgPush o) s = _ := onGroup_run hat.cur hat.wave hg _
  have hjoin : exec (.cvgJoin o) s = popJoin o s k w w := onGroup_run hat.cur hat.wave hg _
  refine ⟨fun hroom => ?_, fun hfull => ?_, fun e t hs hk => ?_, fun e t hs hk => ?_, fun hs => ?_,
    fun e t hs h0 h1 => ?_⟩
  · rw [hpush, push_of_room hroom]; rfl
  · rw [hpush, push_of_full hfull]; rfl
  · rw [hjoin, popJoin_ok (pop_path hs hk _)]; rfl
  · rw [hjoin, popJoin_ok (pop_join hs hk _)]; rfl
  · rw [hjoin, popJoin_error (pop_empty hs _), hs]; rfl
  · rw [hjoin, popJoin_error (pop_stray hs h0 h1 _)]; rfl

end Sys2Proof.Proofs
end

section
/-! What a release and an acquire leave as it was (R82-R86, R104): they move bytes between memory and the caches
of cores and dies, and touch no wave, no gang and no Filigree. -/

namespace Sys2Proof.Proofs

open Sys2Proof Sys2Proof.Machine Sys2Proof.Claims

/-- `t` is `s` but for memory, the cores, the dies' caches and the free values: no Filigree changed. -/
structure CachesMoved (s t : State) : Prop where
  rest : t = { s with mem := t.mem, cores := t.cores, dies := t.dies, free := t.free }
  fil : ∀ d, (t.die d).fil = (s.die d).fil

theorem die_setDie (s : State) (d j : Nat) (x : Die) : (s.setDie d x).die j = if j = d then x else s.die j :=
  Map.getD_put _ _ _ _ _

namespace CachesMoved

variable {s t u : State}

theorem refl (s : State) : CachesMoved s s := ⟨rfl, fun _ => rfl⟩

theorem trans (h : CachesMoved s t) (h' : CachesMoved t u) : CachesMoved s u :=
  ⟨by rw [h'.rest, h.rest], fun d => (h'.fil d).trans (h.fil d)⟩

theorem waves (h : CachesMoved s t) : t.waves = s.waves := by rw [h.rest]
theorem gangs (h : CachesMoved s t) : t.gangs = s.gangs := by rw [h.rest]

theorem foldl {α : Type} {f : State → α → State} (hf : ∀ x a, CachesMoved x (f x a)) (l : List α) (s : State) :
    CachesMoved s (l.foldl f s) := by
  induction l generalizing s with
  | nil => exact refl s
  | cons a l ih => exact (hf s a).trans (ih _)

/-! ## The updates that the caches are made of -/

theorem tick (s : State) : CachesMoved s s.tick := ⟨rfl, fun _ => rfl⟩

theorem setDie {d : Nat} {x : Die} (hx : x.fil = (s.die d).fil) : CachesMoved s (s.setDie d x) := by
  refine ⟨rfl, fun j => ?_⟩
  rw [die_setDie]
  split
  · next h => rw [hx, h]
  · rfl

theorem modDie {d : Nat} {f : Die → Die} (hf : (f (s.die d)).fil = (s.die d).fil) :
    CachesMoved s (s.modDie d f) := setDie hf

theorem modCore (s : State) (c : Nat) (f : Core → Core) : CachesMoved s (s.modCore c f) := ⟨rfl, fun _ => rfl⟩

theorem memSec (s : State) (sec : Nat) (mask : BitVec 16) (d : W128) : CachesMoved s (s.memSec sec mask d) :=
  ⟨rfl, fun _ => rfl⟩

/-! ## Home, and a die's L2 -/

theorem victimSec (s : State) (die sec : Nat) (x : Sector) : CachesMoved s (s.victimSec die sec x) := by
  have h := memSec s sec x.mask x.data
  unfold State.victimSec
  dsimp only
  split
  · split
    · exact h
    · exact h.trans (setDie rfl)
  · exact h

theorem victimBack (s : State) (die line : Nat) : CachesMoved s (s.victimBack die line) := by
  unfold State.victimBack
  dsimp only
  let d : Die := { s.die die with victim := (s.die die).victim.filter (fun p => p.1 / 8 != line) }
  refine (setDie (x := d) rfl).trans (foldl ?_ _ _)
  exact fun x p => victimSec x die p.1 p.2

theorem evict_fil (d : Die) (fromDdr : Bool) (line : Nat) : (d.evict fromDdr line).fil = d.fil := by
  cases fromDdr <;> rfl

theorem allocLine (s : State) (dm die line : Nat) (b : Bool) : CachesMoved s (s.allocLine dm die line b) := by
  have h := victimBack s die line
  unfold State.allocLine
  dsimp only
  split_ifs
  · exact h
  · exact (h.trans (tick _)).trans (setDie (evict_fil _ _ _))
  · exact h.trans (tick _)
  · exact (h.trans (tick _)).trans (setDie (evict_fil _ _ _))

theorem homeSecWrite (s : State) (dm sec : Nat) (mask : BitVec 16) (d : W128) :
    CachesMoved s (s.homeSecWrite dm sec mask d) := by
  unfold State.homeSecWrite
  split
  · have h := allocLine s dm (s.homeDie dm (sec * 16)) (sec / 8) true
    dsimp only
    split
    · exact h.trans (setDie rfl)
    · exact h.trans (memSec _ _ _ _)
  · exact memSec _ _ _ _

theorem directSecWrite (s : State) (o : Obs) (lf : Leaf) (sec : Nat) (mask : BitVec 16) (d : W128) :
    CachesMoved s (s.directSecWrite o lf sec mask d) := by
  unfold State.directSecWrite
  split
  · split
    · exact memSec _ _ _ _
    · exact homeSecWrite _ _ _ _ _
  · exact homeSecWrite _ _ _ _ _

theorem dieSec (s : State) (o : Obs) (lf : Leaf) (sec : Nat) : CachesMoved s (s.dieSec o lf sec).1 := by
  unfold State.dieSec
  split_ifs
  · exact refl s
  · exact refl s
  · split
    · exact refl s
    · split
      · exact refl s
      · have h := allocLine s o.dm o.die (sec / 8) false
        dsimp only
        split
        · exact h.trans (modDie rfl)
        · exact h

theorem dieSecWrite (s : State) (o : Obs) (lf : Leaf) (sec : Nat) (mask : BitVec 16) (d : W128) :
    CachesMoved s (s.dieSecWrite o lf sec mask d) := by
  unfold State.dieSecWrite
  split_ifs
  · exact directSecWrite _ _ _ _ _ _
  · exact homeSecWrite _ _ _ _ _
  · have h := allocLine s o.dm o.die (sec / 8) false
    dsimp only
    split
    · exact (h.trans (dieSec _ o lf sec)).trans (modDie rfl)
    · exact h.trans (homeSecWrite _ _ _ _ _)

/-! ## A core's buffers, release and acquire -/

theorem l1Update (s : State) (c sec : Nat) (mask : BitVec 16) (d : W128) :
    CachesMoved s (s.l1Update c sec mask d) := by
  unfold State.l1Update
  split
  · exact modCore _ _ _
  · exact refl s

theorem drainSec (s : State) (o : Obs) (c sec : Nat) : CachesMoved s (s.drainSec o c sec) := by
  unfold State.drainSec
  split
  · exact refl s
  · exact ((modCore _ _ _).trans (l1Update _ _ _ _ _)).trans (dieSecWrite _ _ _ _ _ _)

theorem drainAll (s : State) (o : Obs) (c : Nat) : CachesMoved s (s.drainAll o c) :=
  foldl (fun x sec => drainSec x o c sec) _ s

theorem remoteBack (s : State) (die : Nat) (all : Bool) : CachesMoved s (s.remoteBack die all) := by
  unfold State.remoteBack
  dsimp only
  refine ((foldl ?_ _ s).trans (modDie ?_)).trans (foldl ?_ _ _)
  · exact fun x p => homeSecWrite x p.2.dev p.1 p.2.mask p.2.data
  · rfl
  · exact fun x l => victimBack x die l

theorem ddrBack (s : State) (die : Nat) : CachesMoved s (s.ddrBack die) := by
  unfold State.ddrBack
  dsimp only
  refine (setDie (x := { s.die die with ddr := [] }) rfl).trans (foldl ?_ _ _)
  exact fun x p => memSec x p.1 p.2.mask p.2.data

theorem ddrBackAll (s : State) (dies : List Nat) : CachesMoved s (s.ddrBackAll dies) := by
  unfold State.ddrBackAll
  refine CachesMoved.trans ?_ (foldl (fun x d => ddrBack x d) _ _)
  exact foldl (fun x d => foldl (fun y l => victimBack y d l) _ x) _ s

/-- A release writes buffered and remote bytes home (R104, R119). -/
theorem release (s : State) (o : Obs) (all : Bool) : CachesMoved s (s.release o all) := by
  have h : CachesMoved s (match o.core with
      | some c => s.drainAll o c
      | none => s) := by
    split
    · exact drainAll _ _ _
    · exact refl s
  unfold State.release
  dsimp only
  split_ifs
  · exact (h.trans (remoteBack _ _ _)).trans (ddrBackAll _ _)
  · exact h.trans (remoteBack _ _ _)

/-- An acquire drops cached lines (R83, R85, R104). -/
theorem acquire (s : State) (o : Obs) : CachesMoved s (s.acquire o) := by
  unfold State.acquire
  dsimp only
  refine CachesMoved.trans (CachesMoved.trans ?_ (remoteBack _ o.die false)) (modDie rfl)
  split
  · exact refl s
  · split_ifs
    · exact foldl (fun x p => modCore x _ _) _ s
    · exact modCore _ _ _

end CachesMoved

/-! ## Segments, and the points of a wave (R96, R114, R116) -/

@[simp] theorem phNote_waves (s : State) (k : Nat) : (s.phNote k).waves = s.waves := by
  unfold State.phNote; dsimp only; split <;> rfl
@[simp] theorem phNote_gangs (s : State) (k : Nat) : (s.phNote k).gangs = s.gangs := by
  unfold State.phNote; dsimp only; split <;> rfl
@[simp] theorem phNote_dies (s : State) (k : Nat) : (s.phNote k).dies = s.dies := by
  unfold State.phNote; dsimp only; split <;> rfl

@[simp] theorem segment_waves (s : State) (k : Nat) : (s.segment k).waves = s.waves := phNote_waves _ _
@[simp] theorem segment_gangs (s : State) (k : Nat) : (s.segment k).gangs = s.gangs := phNote_gangs _ _
@[simp] theorem segment_dies (s : State) (k : Nat) : (s.segment k).dies = s.dies := phNote_dies _ _

@[simp] theorem segment_die (s : State) (k d : Nat) : (s.segment k).die d = s.die d := by
  simp [State.die]

@[simp] theorem releasePoint_waves (s : State) (k : Nat) (w : Wave) (all : Bool) :
    (s.releasePoint k w all).waves = s.waves := by simp [State.releasePoint, (CachesMoved.release s _ all).waves]
@[simp] theorem releasePoint_fil (s : State) (k : Nat) (w : Wave) (all : Bool) (d : Nat) :
    ((s.releasePoint k w all).die d).fil = (s.die d).fil := by
  simp [State.releasePoint, (CachesMoved.release s _ all).fil]

@[simp] theorem acquirePoint_waves (s : State) (k : Nat) (w : Wave) : (s.acquirePoint k w).waves = s.waves := by
  simp [State.acquirePoint, (CachesMoved.acquire s _).waves]
@[simp] theorem acquirePoint_gangs (s : State) (k : Nat) (w : Wave) : (s.acquirePoint k w).gangs = s.gangs := by
  simp [State.acquirePoint, (CachesMoved.acquire s _).gangs]
@[simp] theorem acquirePoint_fil (s : State) (k : Nat) (w : Wave) (d : Nat) :
    ((s.acquirePoint k w).die d).fil = (s.die d).fil := by
  simp [State.acquirePoint, (CachesMoved.acquire s _).fil]

end Sys2Proof.Proofs
end

section
/-! The end of a wave (R38, R181). -/

namespace Sys2Proof.Proofs

open Sys2Proof Sys2Proof.Machine Sys2Proof.Claims

/-! ## An empty slot stays empty as claims pass on -/

theorem reissue_find_none {s : State} {k : Nat} (h : s.waves.find k = none) (j : Nat) :
    (s.reissue j).waves.find k = none := by
  unfold State.reissue State.modWave
  split
  · next w hw =>
    have hne : k ≠ j := fun e => by rw [e, hw] at h; cases h
    rw [State.setWave_waves, Map.find_put_ne _ _ hne, h]
  · exact h

theorem passClaim_find_none {s : State} {k : Nat} (h : s.waves.find k = none) (c : Nat) :
    (s.passClaim c).waves.find k = none := by
  unfold State.passClaim
  split
  · exact reissue_find_none (by simpa using h) _
  · simpa using h

theorem dropClaims_find_none {s : State} {k : Nat} (h : s.waves.find k = none) (j : Nat) :
    (s.dropClaims j).waves.find k = none := by
  unfold State.dropClaims
  induction (s.cores.filter (fun p => p.2.claim = some j)).map (·.1) generalizing s with
  | nil => exact h
  | cons c l ih => exact ih (passClaim_find_none h c)

/-- A wave that has ended is in no slot (R38). -/
theorem endWave_find_none (s : State) (k : Nat) (w : Wave) : (s.endWave k w).waves.find k = none := by
  unfold State.endWave State.leaveSlot
  exact dropClaims_find_none (by simp [Map.find_del]) k

/-- What the end of a wave waits for: its accesses, and its lanes at the pool unit (R38, R355, log 140). -/
theorem endBusy_eq_true_iff {s : State} {k : Nat} :
    s.endBusy k = true ↔ s.relBusy k = true ∨ ∃ q ∈ s.poolReqs, q.wave = k := by
  simp [State.endBusy]

theorem endBusy_eq_false_iff {s : State} {k : Nat} :
    s.endBusy k = false ↔ s.relBusy k = false ∧ ∀ q ∈ s.poolReqs, q.wave ≠ k := by
  simp [State.endBusy]

/-- The wave that `END` leaves: its active lanes gone from LIVE, EXM and the stack (R181). -/
def endedLanes (w : Wave) (o : WOp) : Wave :=
  let e := maskOf (w.active o.guard)
  { w.dropLive e with exm := w.exm &&& ~~~e }

theorem endedLanes_stack_isEmpty {w : Wave} {o : WOp} : (endedLanes w o).stack.isEmpty = true ↔ w.stack = [] := by
  simp [endedLanes, Wave.dropLive]

/-- The cases of R181, by what is left of LIVE, of EXM and of the stack. -/
theorem exec_end {o : WOp} {s : State} {k : Nat} {w : Wave} (hat : At s k w) (hg : w.guardGrp o.guard = true) :
    exec (.end_ o) s =
      if (endedLanes w o).live = 0 ∨ ((endedLanes w o).exm = 0 ∧ w.stack = []) then
        if s.endBusy k then stall s else .next (s.endWave k (endedLanes w o))
      else if (endedLanes w o).exm ≠ 0 then .next (s.retire k (endedLanes w o) o.len)
      else popJoin o s k w (endedLanes w o) := by
  refine (onGroup_run hat.cur hat.wave hg _).trans ?_
  simp only [Bool.or_eq_true, Bool.and_eq_true, decide_eq_true_eq, bne_iff_ne,
    ← endedLanes_stack_isEmpty (w := w) (o := o)]
  rfl

/-- Settles O13: the branches of `END` over what its lanes leave behind; its wave's end is `endWave`. -/
theorem ends : Obligations.Ends := by
  intro o s k w hat hg e w1
  have hexec : exec (.end_ o) s = if w1.live = 0 ∨ (w1.exm = 0 ∧ w.stack = []) then
      if s.endBusy k then stall s else .next (s.endWave k w1)
      else if w1.exm ≠ 0 then .next (s.retire k w1 o.len) else popJoin o s k w w1 := exec_end hat hg
  have hstack : w.stack = [] → w1.stack = [] := fun h => by simp [w1, h]
  have hnext : w1.next o = after w o := rfl
  have hpop : ∀ {x t}, w1.live ≠ 0 → w1.exm = 0 → w1.stack = x :: t → exec (.end_ o) s = popJoin o s k w w1 := by
    intro x t hlive hexm hs
    have hne : w.stack ≠ [] := fun h => by rw [hstack h] at hs; cases hs
    rw [hexec, if_neg (not_or.2 ⟨hlive, fun h => hne h.2⟩), if_neg (not_not.2 hexm)]
  clear_value w1
  refine ⟨fun hlive hexm => ?_, fun x t hlive hexm hs hk => ?_, fun x t hlive hexm hs hk => ?_,
    fun hend => ⟨fun hrel hpool => ?_, fun hbusy => ?_⟩⟩
  · rw [hexec, if_neg (not_or.2 ⟨hlive, fun h => hexm h.1⟩), if_pos hexm]
  · rw [hpop hlive hexm hs, popJoin_ok (pop_path hs hk _)]; rfl
  · rw [hpop hlive hexm hs, popJoin_ok (pop_join hs hk _), hnext]; rfl
  · rw [hexec, if_pos hend, endBusy_eq_false_iff.2 ⟨hrel, hpool⟩]
    exact ⟨_, rfl, endWave_find_none s k w1⟩
  · rw [hexec, if_pos hend, endBusy_eq_true_iff.2 hbusy]; rfl

end Sys2Proof.Proofs
end
section
/-! Vector memory instructions, lane by lane (R33, R75, R194-R202). -/

namespace Sys2Proof.Proofs

open Sys2Proof Sys2Proof.Machine Sys2Proof.Claims

/-- Past its waits a vector memory instruction runs its lanes, and ends with `endLanes`. -/
theorem onLanes_run {i : Instr} {o : WOp} {s : State} {k : Nat} {w : Wave} {sync wr sp : Bool}
    (hat : At s k w) (hfree : noWaits o s k w sync wr sp) (lanef : Nat → Wave → LaneRun → Nat → LaneRun) :
    onLanes i o s sync wr sp (fun w l => w.laneAddr o l) o.sz lanef =
      endLanes s w (lanesEnd o s k w (lanesRun lanef o s k w sp).s) k (lanesRun lanef o s k w sp).w o.len
        (lanesRun lanef o s k w sp).faults := by
  obtain ⟨hsync, hrel, hacc, hscr, hfp⟩ := hfree
  have h1 : ((sync && s.redgBusy k) || (decide (2 ≤ o.ord) && s.relBusy k)) = false := by
    by_cases h : 2 ≤ o.ord <;> cases sync <;> simp_all
  have h2 : (!sp && s.accBusy k w (laneAccesses w o)) = false := by
    cases sp
    · simpa using hacc rfl
    · rfl
  have h3 : (sp && (laneAccesses w o).any (fun p => s.scrBusy k p.1 p.2)) = false := by
    cases sp
    · rfl
    · simpa using hscr rfl
  unfold onLanes
  rw [onWave_at hat.cur hat.wave]
  change (if _ then _ else if (!sp && s.accBusy k w (laneAccesses w o)) = true then _
    else if (sp && (laneAccesses w o).any (fun p => s.scrBusy k p.1 p.2)) = true then _
    else match s.fpHold w (laneAccesses w o) wr sp with
      | some j => _
      | none => _) = _
  rw [h1, h2, h3, hfp]
  simp [lanesRun, lanesEnd, laneAccesses]

/-- With no fault, and in user mode with some, the instruction retires, the faulting lanes parked (R33). -/
theorem endLanes_user {s0 s1 : State} {w0 w1 : Wave} {fs : List (Nat × LFault)}
    (h : fs = [] ∨ w0.sys.sup = false) (k len : Nat) :
    endLanes s0 w0 s1 k w1 len fs = .next (s1.retire k (w1.parkAll fs) len) := by
  cases fs with
  | nil => rfl
  | cons p t => simp [endLanes, h.resolve_left (List.cons_ne_nil p t)]

/-- In the lane handler a fault takes LANE.DOUBLE, with the lanes' effects undone (R36). -/
theorem endLanes_handler {s0 s1 : State} {w0 w1 : Wave} {l : Nat} {f : LFault} {t : List (Nat × LFault)}
    (h : w0.sys.sup = true) (k len : Nat) :
    endLanes s0 w0 s1 k w1 len ((l, f) :: t) = trapWith s0 k w0 10 f.kind f.cause (BitVec.ofNat 64 f.addr)
      (maskOf (((l, f) :: t).map (·.1))) := by simp [endLanes, h]

/-- Every vector memory instruction runs `onLanes` of its own lane; a redirect first passes its own waits. -/
theorem exec_laneOp {x : LaneOp} (hx : x ∈ laneOps) {o : WOp} {s : State} {k : Nat} {w : Wave} (hat : At s k w)
    (hredir : x.con o = .redgRedir o → s.matBusy k = false ∧ s.redirHeld w o = none) :
    exec (x.con o) s =
      onLanes (x.con o) o s (x.sync o) x.wr x.sp (fun w l => w.laneAddr o l) o.sz (x.lanef o) := by
  simp only [laneOps, List.mem_cons, List.not_mem_nil, or_false] at hx
  obtain rfl | rfl | rfl | rfl | rfl | rfl | rfl | rfl := hx
  case inr.inr.inr.inr.inl =>
    obtain ⟨hmat, hheld⟩ := hredir rfl
    refine (onWave_at hat.cur hat.wave _).trans ?_
    simp [hmat, hheld]
  all_goals rfl

/-- Settles O18: past its waits such an instruction is its lanes' run, which `endLanes` ends. -/
theorem laneAccesses : Obligations.LaneAccesses := by
  intro x hx o s k w hat hfree hredir r
  have hexec := (exec_laneOp hx hat hredir).trans (onLanes_run hat hfree (x.lanef o))
  refine ⟨fun hnone => ?_, fun huser => ?_, fun l f t hsup hfaults => ?_⟩
  · rw [hexec, endLanes_user (.inl hnone)]
    simp [r, hnone, Wave.parkAll]
  · rw [hexec, endLanes_user (.inr huser)]
  · rw [hexec, hfaults, endLanes_handler hsup]; rfl

end Sys2Proof.Proofs
end

section
/-! Bytes of scratch, and the barrier objects and queue headers held in them (R4, R79, R214). -/

namespace Sys2Proof.Proofs

open Sys2Proof Sys2Proof.Machine Sys2Proof.Claims

@[simp] theorem bytesOf_length (n x : Nat) : (bytesOf n x).length = n := by
  induction n generalizing x with
  | zero => rfl
  | succ n ih => simp [bytesOf, ih]

/-- Bytes spell the number that they were cut from, as far as they go (R4). -/
theorem natOf_bytesOf (n x : Nat) : natOf (bytesOf n x) = x % 256 ^ n := by
  induction n generalizing x with
  | zero => simp [bytesOf, natOf, Nat.mod_one]
  | succ n ih =>
    rw [bytesOf, natOf, ih, pow_succ', Nat.mod_mul]
    simp

/-! ## Scratch after a write -/

theorem scrWrite_getD (g : Gang) (off : Nat) (bs : List Byte) (a : Nat) :
    (g.scrWrite off bs).scratch.getD a 0
      = if off ≤ a ∧ a < off + bs.length then bs.getD (a - off) 0 else g.scratch.getD a 0 := by
  induction bs generalizing g off with
  | nil => simp [Gang.scrWrite]
  | cons x t ih =>
    rw [Gang.scrWrite, ih, Map.getD_set, List.length_cons]
    by_cases h : a = off
    · subst h; simp
    · by_cases h1 : off + 1 ≤ a ∧ a < off + 1 + t.length
      · have h2 : off ≤ a ∧ a < off + (t.length + 1) := by omega
        have h3 : a - off = (a - (off + 1)) + 1 := by omega
        rw [if_pos h1, if_pos h2, h3, List.getD_cons_succ]
      · have h2 : ¬ (off ≤ a ∧ a < off + (t.length + 1)) := by omega
        rw [if_neg h1, if_neg h2, if_neg h]

/-- A range reads back as it was written. -/
theorem scrRead_scrWrite (g : Gang) (off : Nat) (bs : List Byte) :
    (g.scrWrite off bs).scrRead off bs.length = bs := by
  refine List.ext_getElem (by simp [Gang.scrRead, Machine.span]) fun i _ hi => ?_
  have hin : off ≤ off + i ∧ off + i < off + bs.length := ⟨Nat.le_add_right _ _, by omega⟩
  simp only [Gang.scrRead, Machine.span, List.getElem_map, List.getElem_range, scrWrite_getD, if_pos hin]
  simp [hi]

theorem scrNat_scrWrite_bytesOf (g : Gang) (off n x : Nat) :
    (g.scrWrite off (bytesOf n x)).scrNat off n = x % 256 ^ n := by
  have h := scrRead_scrWrite g off (bytesOf n x)
  rw [bytesOf_length] at h
  rw [Gang.scrNat, h, natOf_bytesOf]

/-! ## Barrier objects (R214) -/

/-- The fields of a barrier object fit their bits (R214). -/
structure BarFits (b : Bar) : Prop where
  gen : b.gen < 2 ^ 4
  pend : b.pend < 2 ^ 16
  expect : b.expect < 2 ^ 16
  rsv0 : b.rsv0 < 2 ^ 28
  inn : b.inn < 2 ^ 24
  out : b.out < 2 ^ 24
  err : b.err < 2 ^ 8
  rsv1 : b.rsv1 < 2 ^ 8

theorem fld_lt (x lo n : Nat) : fld x lo n < 2 ^ n := Nat.mod_lt _ (Nat.two_pow_pos n)

theorem barFits_bar (g : Gang) (off : Nat) : BarFits (g.bar off) :=
  ⟨fld_lt _ _ _, fld_lt _ _ _, fld_lt _ _ _, fld_lt _ _ _, fld_lt _ _ _, fld_lt _ _ _, fld_lt _ _ _, fld_lt _ _ _⟩

theorem barOfNat_toNat {b : Bar} (h : BarFits b) : Bar.ofNat (b.toNat % 256 ^ 16) = b := by
  obtain ⟨gen, pend, expect, rsv0, inn, out, err, rsv1⟩ := b
  obtain ⟨h1, h2, h3, h4, h5, h6, h7, h8⟩ := h
  simp only [Bar.ofNat, Bar.toNat, fld, Bar.mk.injEq] at *
  omega

/-- A barrier object reads back as it was written. -/
theorem bar_setBar {b : Bar} (h : BarFits b) (g : Gang) (off : Nat) : (g.setBar off b).bar off = b := by
  rw [Gang.bar, Gang.setBar, scrNat_scrWrite_bytesOf, barOfNat_toNat h]

theorem setBar_scratch (g : Gang) (off : Nat) (b : Bar) {a : Nat} (h : ¬ (off ≤ a ∧ a < off + 16)) :
    (g.setBar off b).scratch.getD a 0 = g.scratch.getD a 0 := by
  rw [Gang.setBar, scrWrite_getD, bytesOf_length, if_neg h]

end Sys2Proof.Proofs
end
section
/-! Barrier instructions, and the arrival that completes a generation (R44, R215-R219, R237). -/

namespace Sys2Proof.Proofs

open Sys2Proof Sys2Proof.Machine Sys2Proof.Claims

theorem onGang_run {s : State} {k : Nat} {w : Wave} {g : Gang} {o : WOp} (hat : At s k w) (hgang : inGang s w g)
    (hg : w.guardGrp o.guard = true) (name : String) (f : Nat → Wave → Gang → Out) :
    onGang s o name f = f k w g := by
  have h : s.gangs.find w.gang = some g := hgang
  rw [onGang, onGroup_run hat.cur hat.wave hg, h]

/-! ## The object's own steps -/

/-- Arrivals take from PEND, or leave zero and set UNDER (R217). -/
theorem arrive_eq (b : Bar) (c : Nat) :
    b.arrive c = if b.pend < c then { b with pend := 0, err := b.err ||| 2 ^ 4 } else { b with pend := b.pend - c } := by
  by_cases h : b.pend < c
  · simp only [Bar.arrive, Bar.take, if_pos h]; rfl
  · simp only [Bar.arrive, Bar.take, if_neg h]

theorem arrive_frame (b : Bar) (c : Nat) :
    (c ≤ b.pend → (b.arrive c).pend = b.pend - c ∧ (b.arrive c).err = b.err)
    ∧ (b.pend < c → (b.arrive c).pend = 0 ∧ (b.arrive c).err = b.err ||| 2 ^ 4)
    ∧ (b.arrive c).gen = b.gen ∧ (b.arrive c).expect = b.expect ∧ (b.arrive c).inn = b.inn
    ∧ (b.arrive c).out = b.out := by
  rw [arrive_eq]
  split
  · next h => exact ⟨fun h' => absurd h (Nat.not_lt.2 h'), fun _ => ⟨rfl, rfl⟩, rfl, rfl, rfl, rfl⟩
  · next h => exact ⟨fun _ => ⟨rfl, rfl⟩, fun h' => absurd h' h, rfl, rfl, rfl, rfl⟩

/-- The last arrival, with IN and OUT zero, completes the generation (R44). -/
theorem settle_arrive_last {b : Bar} (hin : b.inn = 0) (hout : b.out = 0) :
    (b.arrive b.pend).settle = ({ b with gen := (b.gen + 1) % 16, pend := b.expect }, some b.gen) := by
  rw [arrive_eq, if_neg (lt_irrefl _), Nat.sub_self]
  simp [Bar.settle, hin, hout]

/-! ## Waking touches no gang -/

theorem endWait_gangs (s : State) (k : Nat) (w : Wave) (pc : W64) (acq : Bool) :
    (s.endWait k w pc acq).gangs = s.gangs := by
  cases acq <;> simp [State.endWait]

theorem wakeBar_gangs (s : State) (k : Nat) (w : Wave) (status : Nat) : (s.wakeBar k w status).gangs = s.gangs := by
  unfold State.wakeBar
  split
  · exact endWait_gangs _ _ _ _ _
  · exact endWait_gangs _ _ _ _ _
  · rfl

theorem wakeProg_gangs (s : State) (e slot : Nat) (p : Prog) (status : Nat) :
    (s.wakeProg e slot p status).gangs = s.gangs := (CachesMoved.acquire _ _).gangs

theorem foldl_gangs {α : Type} {f : State → α → State} (hf : ∀ x a, (f x a).gangs = x.gangs) (l : List α)
    (s : State) : (l.foldl f s).gangs = s.gangs := by
  induction l generalizing s with
  | nil => rfl
  | cons a l ih => exact (ih _).trans (hf s a)

theorem wakeOn_gangs (s : State) (gn off : Nat) (q : Nat → Bool) (status : Nat) :
    (s.wakeOn gn off q status).gangs = s.gangs := by
  unfold State.wakeOn
  dsimp only
  rw [foldl_gangs, foldl_gangs]
  · exact fun x p => wakeBar_gangs x p.1 p.2 status
  · intro x c
    rw [foldl_gangs]
    exact fun y p => wakeProg_gangs y c p.1 p.2 status

/-- An object that is written back stands in its gang, R44 applied. -/
theorem putBar_settle_find {s : State} {gn : Nat} {g : Gang} (hgn : s.gangs.find gn = some g) (off : Nat) (b : Bar) :
    (s.putBar gn off b true).gangs.find gn = some (g.setBar off b.settle.1) := by
  have h : (s.modGang gn (fun x => x.setBar off b.settle.1)).gangs.find gn = some (g.setBar off b.settle.1) := by
    rw [State.modGang_some _ _ hgn, State.setGang_gangs, Map.find_put_self]
  rw [← h]
  unfold State.putBar
  simp only [if_true]
  congr 1
  split
  · exact wakeOn_gangs _ _ _ _ _
  · split
    · exact wakeOn_gangs _ _ _ _ _
    · rfl

/-! ## The instructions -/

theorem barOk_of_waitable {g : Gang} {off : Nat} (h : g.waitable off = true) : g.barOk off = true := by
  simp only [Gang.waitable, Bool.and_eq_true] at h
  exact h.1.1.1

theorem waitable_of_barFull {g : Gang} {off : Nat} (h : g.barFull off = true) : g.waitable off = true := by
  simp only [Gang.barFull, Bool.and_eq_true] at h
  exact h.1

section
variable {s : State} {k : Nat} {w : Wave} {g : Gang} {o : WOp} (hat : At s k w) (hgang : inGang s w g)
  (hg : w.guardGrp o.guard = true) {off : Nat} (hoff : w.off32 o.a.toNat = off)
include hat hgang hg hoff

theorem exec_barInit : exec (.barInit o) s =
    if !g.barOk off then illegalField s k w 32
    else if w.barVal o = 0 ∨ 2 ^ 16 ≤ w.barVal o then illegalVal s k w o
    else if s.redgBusy k || s.scrBusy k off 16 then stall s
    else .next (((s.setGang w.gang { g.setBar off ⟨0, w.barVal o, w.barVal o, 0, 0, 0, 0, 0⟩ with
      bars := nubNat (off :: g.bars) }).retire k w o.len).wakeOn w.gang off
        (fun _ => true) 0x40) := by
  subst hoff; exact onGang_run hat hgang hg _ _

theorem exec_barArr : exec (.barArr o) s =
    if !g.barOk off then illegalField s k w 32
    else if s.relBusy k then stall s
    else if !g.barFull off then illegalField s k w 32
    else if (if o.m = 1 then (w.greg o.b.toNat).toNat % 2 ^ 16 else 1) = 0 then illegalField s k w 40
    else .next (((s.releasePoint k w false).retire k
      (w.setG o.d.toNat (BitVec.ofNat 64 (g.bar off).gen)) o.len).putBar w.gang off
        ((g.bar off).arrive (if o.m = 1 then (w.greg o.b.toNat).toNat % 2 ^ 16 else 1)) true) := by
  subst hoff; exact onGang_run hat hgang hg _ _

theorem exec_barWait : exec (.barWait o) s =
    if !g.barOk off then illegalField s k w 32
    else if s.redgBusy k || s.scrBusy k off 16 then stall s
    else if !g.waitable off then illegalField s k w 32
    else if (g.bar off).err != 0 then .next ((s.acquirePoint k w).retire k
      (w.setG o.d.toNat (BitVec.ofNat 64 (g.bar off).err)) o.len)
    else if (g.bar off).gen
        != (if o.m = 1 then (g.bar off).gen else (w.greg o.b.toNat).toNat % 16) then
      .next ((s.acquirePoint k w).retire k (w.setG o.d.toNat 0) o.len)
    else .next (s.waitOn k w .barrier off
      (if o.m = 1 then (g.bar off).gen else (w.greg o.b.toNat).toNat % 16) (.barWait o)) := by
  subst hoff; exact onGang_run hat hgang hg _ _

theorem exec_yield : exec (.yield o) s =
    if !g.barOk off then illegalField s k w 32
    else if s.redgBusy k || s.scrBusy k off 16 then stall s
    else if !g.waitable off then illegalField s k w 32
    else if (g.bar off).err != 0 then .next ((s.acquirePoint k w).retireAt k
      (w.setG o.d.toNat (BitVec.ofNat 64 (g.bar off).err)) (w.target o))
    else .next (s.waitOn k w .yield off (g.bar off).gen (.yield o)) := by
  subst hoff
  have h : s.gangs.find w.gang = some g := hgang
  refine (onGroup_run hat.cur hat.wave hg _).trans ?_
  simp only [h]
  rfl

theorem exec_barExp : exec (.barExp o) s =
    if !g.barOk off then illegalField s k w 32
    else if s.redgBusy k || s.scrBusy k off 16 then stall s
    else if !g.barFull off then illegalField s k w 32
    else if (if o.m = 2 then 2 ^ 16 else 2 ^ 24) ≤ w.barVal o then illegalVal s k w o
    else .next ((s.retire k w o.len).putBar w.gang off
      ((g.bar off).expect' o.m.toNat (w.barVal o)) false) := by
  subst hoff; exact onGang_run hat hgang hg _ _

end

/-- `BAR.EXP` adds to the field that M names, or sets OVER and leaves it (R219). -/
theorem expect'_frame (b : Bar) (m : BitVec 8) (v : Nat) (hm : m.toNat ≤ 2) :
    let lim := if m = 2 then 2 ^ 16 else 2 ^ 24
    let f := fun (x : Bar) => if m = 0 then x.inn else if m = 1 then x.out else x.pend
    let b' := b.expect' m.toNat v
    (f b + v < lim → f b' = f b + v ∧ b'.err = b.err)
    ∧ (lim ≤ f b + v → f b' = f b ∧ b'.err = b.err ||| 2 ^ 5)
    ∧ b'.gen = b.gen ∧ b'.expect = b.expect ∧ (m ≠ 0 → b'.inn = b.inn)
    ∧ (m ≠ 1 → b'.out = b.out) ∧ (m = 0 ∨ m = 1 → b'.pend = b.pend) := by
  have hcases : m = 0 ∨ m = 1 ∨ m = 2 := by
    have : m.toNat = 0 ∨ m.toNat = 1 ∨ m.toNat = 2 := by omega
    exact this.imp BitVec.eq_of_toNat_eq (Or.imp BitVec.eq_of_toNat_eq BitVec.eq_of_toNat_eq)
  intro lim f b'
  by_cases hover : lim ≤ f b + v
  · have hb : b' = b.setErr errOver := by
      rcases hcases with rfl | rfl | rfl <;> exact if_pos hover
    rw [hb]
    exact ⟨fun h => absurd hover (Nat.not_le.2 h), fun _ => ⟨rfl, rfl⟩, rfl, rfl, fun _ => rfl, fun _ => rfl,
      fun _ => rfl⟩
  · refine ⟨fun _ => ?_, fun h => absurd h hover, ?_⟩
    all_goals rcases hcases with rfl | rfl | rfl
    all_goals
      have hb : b' = _ := if_neg hover
      rw [hb]
      simp [f]

/-- Settles O25: the checks of each instruction in order, the object's own steps, and what `putBar` writes. -/
theorem barriers : Obligations.Barriers := by
  constructor
  · intro o s k w g hat hgang hg off b v
    have hinit := exec_barInit hat hgang hg (off := off) rfl
    have harr := exec_barArr hat hgang hg (off := off) rfl
    have hwait := exec_barWait hat hgang hg (off := off) rfl
    have hyield := exec_yield hat hgang hg (off := off) rfl
    have hexp := exec_barExp hat hgang hg (off := off) rfl
    have hlegal : 0 < v → v < 2 ^ 16 → ¬ (v = 0 ∨ 2 ^ 16 ≤ v) := by omega
    refine ⟨fun hok hbusy => ?_, fun hok hbusy => ?_, fun hok h0 hlt hredg hscr => ?_, fun c hfull hc hc0 hbusy => ?_,
      fun hwaitable hredg hscr => ?_, fun hfull hv hredg hscr => ⟨?_, expect'_frame b o.m v⟩, arrive_frame b⟩
    · have hbusy' : (s.redgBusy k || s.scrBusy k off 16) = true := by simpa using hbusy
      simp only [hok, hbusy', Bool.not_true, Bool.false_eq_true, if_false, if_true] at hinit hwait hyield hexp
      exact ⟨hwait, hyield, hexp, fun h0 hlt => hinit.trans (if_neg (hlegal h0 hlt))⟩
    · simp only [hok, hbusy, Bool.not_true, Bool.false_eq_true, if_false, if_true] at harr
      exact harr
    · simp only [hok, hredg, hscr, Bool.not_true, Bool.or_false, Bool.false_eq_true, if_false] at hinit
      exact hinit.trans (if_neg (hlegal h0 hlt))
    · have hok := barOk_of_waitable (waitable_of_barFull hfull)
      simp only [hok, hfull, hbusy, ← hc, Bool.not_true, Bool.false_eq_true, if_false] at harr
      exact harr.trans (if_neg hc0)
    · have hok := barOk_of_waitable hwaitable
      simp only [hok, hwaitable, hredg, hscr, Bool.not_true, Bool.or_false, Bool.false_eq_true, if_false,
        bne_iff_ne] at hwait hyield
      refine ⟨fun herr => ?_, fun herr hgen => ?_, fun herr hgen => ?_, fun herr => ?_, fun herr => ?_⟩
      · rw [hwait, if_pos herr]
      · rw [hwait, if_neg (not_not.2 herr), if_pos hgen]
      · rw [hwait, if_neg (not_not.2 herr), if_neg (not_not.2 hgen)]
      · rw [hyield, if_pos herr]; rfl
      · rw [hyield, if_neg (not_not.2 herr)]
    · have hok := barOk_of_waitable (waitable_of_barFull hfull)
      simp only [hok, hfull, hredg, hscr, Bool.not_true, Bool.or_false, Bool.false_eq_true, if_false] at hexp
      exact hexp.trans (if_neg (Nat.not_le.2 hv))
  · intro s gn off g hgn b hpend hin hout
    have hfits : BarFits b := barFits_bar g off
    have hbar := bar_setBar (b := { b with gen := (b.gen + 1) % 16, pend := b.expect })
      { hfits with gen := Nat.mod_lt _ (by decide), pend := hfits.expect } g off
    refine ⟨_, putBar_settle_find hgn off _, ?_⟩
    rw [settle_arrive_last hin hout]
    dsimp only
    rw [hbar]
    exact ⟨rfl, rfl, rfl, rfl, fun a ha => setBar_scratch g off _ ha⟩

end Sys2Proof.Proofs
end

section
/-! Waits that end, and a queue that nobody waits for (R43, R210). -/

namespace Sys2Proof.Proofs

open Sys2Proof Sys2Proof.Machine Sys2Proof.Claims

/-! ## Re-issuing touches waves alone -/

@[simp] theorem reissue_gangs (s : State) (k : Nat) : (s.reissue k).gangs = s.gangs := by
  unfold State.reissue State.modWave; split <;> rfl
@[simp] theorem reissue_dies (s : State) (k : Nat) : (s.reissue k).dies = s.dies := by
  unfold State.reissue State.modWave; split <;> rfl

@[simp] theorem reissueAll_gangs (s : State) (q : Wave → Wait → Bool) : (s.reissueAll q).gangs = s.gangs := by
  unfold State.reissueAll
  rw [foldl_gangs]
  exact fun x p => reissue_gangs x p.1

@[simp] theorem reissueAll_dies (s : State) (q : Wave → Wait → Bool) : (s.reissueAll q).dies = s.dies := by
  unfold State.reissueAll
  induction s.waiters q generalizing s with
  | nil => rfl
  | cons p l ih => exact (ih _).trans (reissue_dies s p.1)

/-- Every wait of a wave satisfies `P`. -/
def WaitsAll (s : State) (P : Wait → Prop) : Prop := ∀ p ∈ s.waves, ∀ x, p.2.wait = some x → P x

theorem WaitsAll.reissue {s : State} {P : Wait → Prop} (h : WaitsAll s P) (k : Nat) : WaitsAll (s.reissue k) P := by
  unfold State.reissue State.modWave
  split
  · next w hw =>
    intro p hp x hx
    rcases Map.mem_put hp with rfl | hp
    · cases hx
    · exact h p hp x hx
  · exact h

theorem WaitsAll.reissueAll {s : State} {P : Wait → Prop} (h : WaitsAll s P) (q : Wave → Wait → Bool) :
    WaitsAll (s.reissueAll q) P := by
  unfold State.reissueAll
  induction s.waiters q generalizing s with
  | nil => exact h
  | cons p l ih => exact ih (h.reissue p.1)

/-- No wave waits for a reason that no wait satisfies. -/
theorem waiters_eq_nil {s : State} {P : Wait → Prop} (h : WaitsAll s P) {q : Wave → Wait → Bool}
    (hq : ∀ w x, P x → q w x = false) : s.waiters q = [] := by
  have hnone : s.waves.filter (fun p => match p.2.wait with
      | some x => q p.2 x
      | none => false) = [] := by
    rw [List.filter_eq_nil_iff]
    intro p hp
    split
    · next x hx => simp [hq p.2 x (h p hp x hx)]
    · simp
  exact congrArg (sortBy _) hnone

/-- A queue whose sides no wave waits for is as it was after its retries (R210). -/
theorem qretry_of_no_waiter {s : State} (h : WaitsAll s (fun x => x.kind ≠ .pop ∧ x.kind ≠ .push)) (gn off : Nat) :
    s.qretry gn off = s := by
  have hblocked : ∀ push, s.qblocked gn off push = [] := fun push =>
    waiters_eq_nil h (fun w x hx => by cases push <;> simp [hx.1, hx.2])
  have hserve : ∀ push, s.qserve gn off push = none := fun push => by
    unfold State.qserve
    rw [hblocked]
  simp [State.qretry, State.qrounds, hserve]

/-! ## Serving a queue touches no Filigree -/

@[simp] theorem setWave_die (s : State) (k : Nat) (w : Wave) (d : Nat) : (s.setWave k w).die d = s.die d := rfl
@[simp] theorem setGang_die (s : State) (n : Nat) (g : Gang) (d : Nat) : (s.setGang n g).die d = s.die d := rfl

@[simp] theorem endWait_fil (s : State) (k : Nat) (w : Wave) (pc : W64) (acq : Bool) (d : Nat) :
    ((s.endWait k w pc acq).die d).fil = (s.die d).fil := by
  cases acq <;> simp [State.endWait]

theorem qserve_fil {s t : State} {gn off : Nat} {push : Bool} (h : s.qserve gn off push = some t) (d : Nat) :
    (t.die d).fil = (s.die d).fil := by
  unfold State.qserve at h
  split at h
  · split at h
    · dsimp only at h
      split at h
      · rw [← Option.some.inj h]; simp
      · cases h
    · dsimp only at h
      split at h
      · rw [← Option.some.inj h]; simp
      · cases h
    · cases h
  · cases h

theorem qserve_getD_fil (s : State) (gn off : Nat) (push : Bool) (d : Nat) :
    ((((s.qserve gn off push).getD s).die d)).fil = (s.die d).fil := by
  cases h : s.qserve gn off push with
  | none => rfl
  | some t => exact qserve_fil h d

theorem qrounds_fil (s : State) (gn off n d : Nat) : ((s.qrounds gn off n).die d).fil = (s.die d).fil := by
  induction n generalizing s with
  | zero => rfl
  | succ n ih =>
    unfold State.qrounds
    dsimp only
    split
    · rw [ih, qserve_getD_fil, qserve_getD_fil]
    · rfl

end Sys2Proof.Proofs
end
section
/-! Filigree's list: what an FG instruction appends, and what a completion takes away (R43, R98, R264, R265). -/

namespace Sys2Proof.Proofs

open Sys2Proof Sys2Proof.Machine Sys2Proof.Claims

/-- Every FG instruction is `fgAppend` with its FN and alignment. -/
theorem exec_fgOp {mk : WOp → Instr} {fn al : Nat} (h : (mk, fn, al) ∈ fgOps) (o : WOp) (s : State) :
    ∃ name, exec (mk o) s = fgAppend (mk o) o s name fn al := by
  simp only [fgOps, List.mem_cons, Prod.mk.injEq, List.not_mem_nil, or_false] at h
  rcases h with ⟨rfl, rfl, rfl⟩ | ⟨rfl, rfl, rfl⟩ | ⟨rfl, rfl, rfl⟩ | ⟨rfl, rfl, rfl⟩ | ⟨rfl, rfl, rfl⟩
    | ⟨rfl, rfl, rfl⟩ | ⟨rfl, rfl, rfl⟩ | ⟨rfl, rfl, rfl⟩
  all_goals exact ⟨_, rfl⟩

theorem queue_of_boundTo {w : Wave} {g : Gang} {q off : Nat} {sz : Option Nat} (h : boundTo w g q sz off) :
    w.queue g q sz = some off := by
  obtain ⟨x, hfind, rfl, hok⟩ := h
  simp [Wave.queue, hfind, hok]

/-- The state in which an FG instruction looks at the list: its release made, unless it waited with it made (R96). -/
def fgReleased (s : State) (k : Nat) (w : Wave) : State := if w.pointed then s else s.releasePoint k w false

theorem fgReleased_waves (s : State) (k : Nat) (w : Wave) : (fgReleased s k w).waves = s.waves := by
  unfold fgReleased; split <;> simp

theorem fgReleased_fil (s : State) (k : Nat) (w : Wave) (d : Nat) :
    ((fgReleased s k w).die d).fil = (s.die d).fil := by
  unfold fgReleased; split <;> simp

/-- The command that an FG instruction appends to a list of a Filigree `f` (R264). -/
def fgCommand (o : WOp) (s : State) (k : Nat) (w : Wave) (g : Gang) (f : Filigree) (fn off : Nat) : FgCmd :=
  ⟨fn, w.greg o.a.toNat, w.greg o.c.toNat, o.m.getLsbD 0, off, f.appended % 2 ^ 32, s.ownerOf k w g, none,
    if fn = 5 then (w.greg o.a.toNat).toNat % 2 ^ 32 else 0, 0⟩

/-- The Filigree with a command of a gang appended. -/
def fgAppended (f : Filigree) (gang : Nat) (c : FgCmd) : Filigree :=
  { f.use gang with cmds := f.cmds ++ [c], appended := f.appended + 1 }

section
variable {i : Instr} {s : State} {k : Nat} {w : Wave} {g : Gang} {o : WOp} {name : String} {fn al : Nat}
  (hat : At s k w) (hgang : inGang s w g) (hg : w.guardGrp o.guard = true)
include hat hgang hg

theorem fgAppend_of_other (howns : s.fgOwns k w = false) :
    fgAppend i o s name fn al = illegalOp s k w 0 7 := by
  refine (onGang_run hat hgang hg _ _).trans ?_
  simp [howns]

theorem fgAppend_of_busy (howns : s.fgOwns k w = true) (hbusy : s.relBusy k = true) :
    fgAppend i o s name fn al = stall s := by
  refine (onGang_run hat hgang hg _ _).trans ?_
  simp [howns, hbusy]

/-- Past its checks the instruction waits for room in the list, or appends. -/
theorem fgAppend_of_ok {off : Nat} (howns : s.fgOwns k w = true) (hfree : s.relBusy k = false)
    (hq : boundTo w g o.b.toNat (some 0) off) (hal : (w.greg o.a.toNat).toNat % al = 0) :
    fgAppend i o s name fn al =
      let s1 := fgReleased s k w
      let die := coreDie (slotCore k)
      let f := (s.die die).fil
      if 16 ≤ f.cmds.length then .next (s1.waitOn k { w with pointed := true } .fgList die 0 i)
      else .next ((s1.modDie die (fun d => { d with
        fil := fgAppended d.fil w.gang (fgCommand o s1 k w g f fn off) })).retire k { w with pointed := false } o.len) := by
  refine (onGang_run hat hgang hg _ _).trans ?_
  simp only [howns, hfree, queue_of_boundTo hq, hal]
  have hfil := fgReleased_fil s k w (coreDie (slotCore k))
  unfold fgReleased at hfil
  simp only [bne_self_eq_false, Bool.not_true, Bool.false_eq_true, if_false, hfil]
  rfl

end

/-- The gang is a user of the array, and a first user finds nothing kept (R271, log 111). -/
theorem fgAppended_eq (f : Filigree) (gang : Nat) (c : FgCmd) :
    fgAppended f gang c = { f with
      cmds := f.cmds ++ [c], appended := f.appended + 1
      users := if gang ∈ f.users then f.users else f.users ++ [gang]
      kept := if f.users = [] then [] else f.kept } := by
  simp [fgAppended, Filigree.use]

theorem die_modDie (s : State) (d : Nat) (h : Die → Die) : (s.modDie d h).die d = h (s.die d) := by
  rw [State.modDie, die_setDie, if_pos rfl]

/-- The command at the head leaves the list (R265). -/
theorem fgPop_cmds (s : State) (die : Nat) : ((s.fgPop die).die die).fil.cmds = (s.die die).fil.cmds.drop 1 := by
  have h : (s.fgPop die).die die = (s.modDie die (fun d => { d with fil := { d.fil with
      cmds := d.fil.cmds.drop 1 } })).die die := by
    simp only [State.fgPop, State.die, reissueAll_dies]
  rw [h, die_modDie]

theorem fgPop_gangs (s : State) (die : Nat) : (s.fgPop die).gangs = s.gangs := by simp [State.fgPop]

/-- The state once the completion of the head command stands in its queue, before the queue's waiters are served. -/
def fgCompleted (s : State) (die gn : Nat) (g : Gang) (c : FgCmd) : State :=
  ((s.release (s.fgObs die c) false).setGang gn (g.pushEntries c.queue [c.entry])).fgPop die

theorem fgCompleted_cmds {s : State} {die gn : Nat} {g : Gang} {c : FgCmd} {rest : List FgCmd}
    (hcmds : (s.die die).fil.cmds = c :: rest) : ((fgCompleted s die gn g c).die die).fil.cmds = rest := by
  rw [fgCompleted, fgPop_cmds, setGang_die, (CachesMoved.release _ _ _).fil, hcmds]
  rfl

theorem fgCompleted_find (s : State) (die gn : Nat) (g : Gang) (c : FgCmd) :
    (fgCompleted s die gn g c).gangs.find gn = some (g.pushEntries c.queue [c.entry]) := by
  rw [fgCompleted, fgPop_gangs, State.setGang_gangs, Map.find_put_self]

theorem fgCompleted_waits {s : State} {P : Wait → Prop} (h : WaitsAll s P) (die gn : Nat) (g : Gang) (c : FgCmd) :
    WaitsAll (fgCompleted s die gn g c) P := by
  refine WaitsAll.reissueAll ?_ _
  intro p hp
  refine h p ?_
  rwa [State.modDie_waves, State.setGang_waves, (CachesMoved.release _ _ _).waves] at hp

/-- With allowance, a usable header and its island performing, the completion is pushed (R98, R265, R399). -/
theorem exec_filCompletionPush {s : State} {die gn st detail : Nat} {g : Gang} {c : FgCmd} {rest : List FgCmd}
    (hcmds : (s.die die).fil.cmds = c :: rest) (hst : c.status = some (st, detail)) (hown : c.owner.gang = some gn)
    (hgn : s.gangs.find gn = some g) (hq : g.queOk c.queue (some 0) = true) (hallow : 0 < (g.que c.queue).allow)
    (hon : s.islandOn (filIsland die) = true) :
    exec (.filCompletionPush die) s = .next ((fgCompleted s die gn g c).qretry gn c.queue) := by
  change execFilCompletionPush die s = _
  unfold execFilCompletionPush
  simp only [hcmds, hst, hown, hgn, hq, hon, hallow, decide_true, Bool.and_self, if_true]
  rfl

/-- Settles O41: the checks of `fgAppend` in order, and the frames of its release and of the queue's retries. -/
theorem filigreeAppend : Obligations.FiligreeAppend := by
  constructor
  · intro mk fn al hmk o s k w g hat hgang hg die f
    obtain ⟨name, hexec⟩ := exec_fgOp hmk o s
    refine ⟨fun howns hbusy => ?_, fun howns => ?_, fun off howns hq hal => ⟨fun hfree hroom => ?_, fun hfree hfull => ?_⟩⟩
    · rw [hexec, fgAppend_of_busy hat hgang hg howns hbusy]; rfl
    · rw [hexec, fgAppend_of_other hat hgang hg howns]; rfl
    · let c := fgCommand o (fgReleased s k w) k w g f fn off
      have hrun := fgAppend_of_ok (i := mk o) (name := name) hat hgang hg howns hfree hq hal (fn := fn)
      refine ⟨(fgReleased s k w).modDie die (fun d => { d with fil := fgAppended d.fil w.gang c }), c,
        ?_, fgReleased_waves s k w, ?_, rfl, rfl, rfl, rfl, rfl, rfl, fun h => if_pos h, rfl, rfl, rfl⟩
      · rw [hexec, hrun]
        exact if_neg (Nat.not_le.2 hroom)
      · rw [die_modDie, fgReleased_fil]
        exact fgAppended_eq f w.gang c
    · have hrun := fgAppend_of_ok (i := mk o) (name := name) hat hgang hg howns hfree hq hal (fn := fn)
      refine ⟨(fgReleased s k w).waitOn k { w with pointed := true } .fgList die 0 (mk o), _, ?_,
        Map.find_put_self _ _ _, rfl, rfl, rfl, ⟨_, rfl, rfl, rfl, rfl⟩, fgReleased_fil s k w die⟩
      rw [hexec, hrun]
      exact if_pos hfull
  · intro s die gn g c rest st detail hcmds hst hown hgn hq hallow hon
    refine ⟨_, exec_filCompletionPush hcmds hst hown hgn hq hallow hon, ?_, fun hwaits => ?_⟩
    · rw [State.qretry, qrounds_fil, fgCompleted_cmds hcmds]
    · rw [qretry_of_no_waiter (fgCompleted_waits hwaits die gn g c), fgCompleted_find, FgCmd.entry, hst]
      rfl

end Sys2Proof.Proofs
end

section
/-! The issue slot past its fetch (R41, R46): what it hands on, and what it keeps of the instruction. -/

namespace Sys2Proof.Proofs

open Sys2Proof Sys2Proof.Machine Sys2Proof.Claims

theorem core_setCore (s : State) (c j : Nat) (x : Core) :
    (s.setCore c x).core j = if j = c then x else s.core j := Map.getD_put _ _ _ _ _

theorem core_modCore_self (s : State) (c : Nat) (f : Core → Core) : (s.modCore c f).core c = f (s.core c) := by
  rw [State.modCore, core_setCore, if_pos rfl]

/-- What the words at PC lead to (R41): a trap where they decode to nothing, the step of a convergence point, or
the instruction latched for its meaning. -/
def afterFetch (s : State) (k : Nat) (w : Wave) (ws : W64 × W64) : State :=
  match decodeWave (s.decodeCtx w) ws.1 ws.2 with
  | .error t => takeTrap s k w (trapRec w (if t.unimpl then 1 else 2) t.detail 0 ws.1 ws.2 0
      (BitVec.ofNat 64 (t.flo + t.fhi * 2 ^ 8)))
  | .ok i => match s.converge k w i ws with
    | some s2 => s2
    | none => s.latch k w i ws

/-- The wave as its instruction is fetched: no breakpoint is suppressed any more (R371). -/
def unsuppressed (w : Wave) : Wave := { w with sys := { w.sys with bpSupp := false } }

/-- Where no step of R41 before the fetch ends the slot, the words that the fetch answers decide. -/
theorem issue_eq_afterFetch {s s2 : State} {k : Nat} {w : Wave} {ws : W64 × W64} (hpre : w.preempt = false)
    (hcan : w.cancel = false) (hagain : s.again w = none) (hbp : s.breakpoint w = none)
    (hstep : (w.sys.stepPend && !w.sys.sup) = false)
    (hwords : (s.setWave k (unsuppressed w)).fetchAt k (unsuppressed w) = (s2, .ok ws)) :
    s.issue k w = afterFetch s2 k (unsuppressed w) ws := by
  unfold unsuppressed at hwords
  unfold State.issue
  rw [if_neg (Bool.eq_false_iff.1 hpre), if_neg (Bool.eq_false_iff.1 hcan), hagain]
  dsimp only
  rw [hbp]
  dsimp only
  rw [if_neg (Bool.eq_false_iff.1 hstep), hwords]
  rfl

section
variable {s s2 : State} {x : Slot} {k : Nat} {w : Wave} {ws : W64 × W64} (h : Fetches s x k w s2 ws)
include h

theorem issue_of_fetches :
    (slotStart s x).issue k { w with ready := (s.core x.core).cycle + x.dt } = afterFetch s2 k (atFetch s x w) ws :=
  issue_eq_afterFetch h.preempt h.cancel (by simp [State.again, Wave.reissue, h.resume]) h.bp
    (by rcases h.step with h | h <;> simp [h]) h.words

/-- The slot is free and takes the wave. -/
theorem exec_waveIssue_of_fetches :
    exec (.waveIssue x) s = .next (slotHeld s (afterFetch s2 k (atFetch s x w) ws) x k
      (afterFetch s2 k (atFetch s x w) ws).issued w) := by
  obtain ⟨hq, hbase, hslot⟩ := h.free
  have hfree : ((((slotStart s x).core x.core).slots.find (2 * x.quarter + (if x.vec then 1 else 0))).any
      (fun p => decide ((s.core x.core).cycle + x.dt < p.2.2))) = false := by
    rw [slotStart, core_modCore_self]
    dsimp only
    cases hf : (s.core x.core).slots.find (2 * x.quarter + (if x.vec then 1 else 0)) with
    | none => rfl
    | some p => simpa using hslot p hf
  have hpick := h.pick
  have hissue := issue_of_fetches h
  change execWaveIssue x s = _
  unfold execWaveIssue
  dsimp only
  change (if (!(slotStart s x).islandOn _ || !(slotStart s x).islandOn _) = true then _
    else if (((slotStart s x).core x.core).slots.find _).any _ = true then _
    else match (slotStart s x).pick x _ with
      | none => _
      | some (k, w) => _) = _
  rw [if_neg (by simp [hq, baseIsland, hbase]), hfree, if_neg Bool.false_ne_true, hpick]
  dsimp only
  change Host.Outcome.next (slotHeld s ((slotStart s x).issue k { w with ready := (s.core x.core).cycle + x.dt }) x k
    ((slotStart s x).issue k { w with ready := (s.core x.core).cycle + x.dt }).issued w) = _
  rw [hissue]

end

/-! ## Which instruction the slot holds -/

theorem afterFetch_of_error {s : State} {k : Nat} {w : Wave} {ws : W64 × W64} {f : DecodeTrap}
    (hdec : decodeWave (s.decodeCtx w) ws.1 ws.2 = .error f) :
    afterFetch s k w ws = takeTrap s k w (trapRec w (if f.unimpl then 1 else 2) f.detail 0 ws.1 ws.2 0
      (BitVec.ofNat 64 (f.flo + f.fhi * 2 ^ 8))) := by
  unfold afterFetch
  rw [hdec]

theorem afterFetch_of_converge {s t : State} {k : Nat} {w : Wave} {ws : W64 × W64} {i : Instr}
    (hdec : decodeWave (s.decodeCtx w) ws.1 ws.2 = .ok i) (hconv : s.converge k w i ws = some t) :
    afterFetch s k w ws = t := by
  unfold afterFetch
  rw [hdec]
  dsimp only
  rw [hconv]

/-- The instruction is latched, with the wave at its turn (R41). -/
theorem afterFetch_of_ok {s : State} {k : Nat} {w : Wave} {ws : W64 × W64} {i : Instr}
    (hdec : decodeWave (s.decodeCtx w) ws.1 ws.2 = .ok i) (hconv : s.converge k w i ws = none)
    (hfresh : w.fresh = false) :
    afterFetch s k w ws = { s with cur := some k, issued := some i, insn := ws } := by
  unfold afterFetch
  rw [hdec]
  dsimp only
  rw [hconv]
  simp [State.latch, hfresh]

theorem modCtx_issued (s : State) (c : Nat) (f : Ctx → Ctx) : (s.modCtx c f).issued = s.issued := by
  unfold State.modCtx
  split <;> rfl

theorem takeTrap_issued (s : State) (k : Nat) (w : Wave) (r : BitVec 512) :
    (takeTrap s k w r).issued = s.issued := by
  unfold takeTrap
  dsimp only
  split
  · simp [failContext, State.cancelAll, State.post, modCtx_issued]
  · rfl

end Sys2Proof.Proofs
end
section
/-! A step: the issue slot with the instruction that it issued, and an engine's turn (R41, R46, R273). -/

namespace Sys2Proof.Proofs

open Sys2Proof Sys2Proof.Machine Sys2Proof.Claims

/-- A slot's step goes on to the meaning of the instruction that it latched, and to the end of the slot. -/
theorem step_of_issued {s0 t : State} {x : Slot} {rest : List Act} {i : Instr}
    (hagenda : s0.agenda = .ev (.waveIssue x) :: rest)
    (hexec : exec (.waveIssue x) { s0 with agenda := rest } = .next t) (hissued : t.issued = some i) :
    step s0 = afterIssue { s0 with agenda := rest } { t with issued := none } i
      (whenOn { t with issued := none } (exec i { t with issued := none })) := by
  unfold step
  rw [hagenda]
  dsimp only [move]
  rw [hexec]
  dsimp only
  rw [hissued]

/-! ## The end of the slot (R46, R363) -/

theorem afterIssue_refused (s u : State) (i : Instr) (r : Refusal) :
    afterIssue s u i (.refused r) = .refused r := by
  unfold afterIssue
  split
  · next h _ => cases h
  · rfl

/-- An instruction that moved its wave, with nothing at the pool unit and nothing to re-issue, has its own answer. -/
theorem afterIssue_of_moved {s u v : State} {i : Instr} {k : Nat} (hcur : u.cur = some k)
    (hmoved : v.waves.find k ≠ u.waves.find k) (hpool : v.poolReqs = [])
    (hresume : ∀ y, v.waves.find k = some y → y.sys.resume = none) : afterIssue s u i (.next v) = .next v := by
  have hwent : u.stoodStill v k i = false := by simp [State.stoodStill, hmoved]
  unfold afterIssue
  rw [hcur]
  dsimp only
  split
  · next w0 w _ hw => simp [hwent, hpool, hresume w hw]
  · rfl

/-- An instruction that leaves the state as it was has not issued: the slot is given back (log 141). -/
theorem afterIssue_of_still {s u : State} {i : Instr} {k : Nat} {y : Wave} {op : BitVec 8} {o : WOp}
    (hcur : u.cur = some k) (hy : u.waves.find k = some y) (hi : i.wave? = some (op, o)) (h0 : op ≠ 0x80#8)
    (h1 : op ≠ 0x81#8) : afterIssue s u i (.next u) = .next (s.giveBack u k y) := by
  have hstill : u.stoodStill u k i = true := by simp [State.stoodStill, hi, h0, h1]
  unfold afterIssue
  rw [hcur]
  dsimp only
  rw [hy]
  dsimp only
  rw [if_pos hstill]

theorem giveBack_slots (s u : State) (k : Nat) (y : Wave) :
    ((s.giveBack u k y).core (slotCore k)).slots = (s.core (slotCore k)).slots :=
  (congrArg Core.slots (core_modCore_self u (slotCore k) (fun c => { c with
    slots := (s.core (slotCore k)).slots
    tried := c.tried.put (k % 64) c.cycle })) :)

/-- A next state that is the state itself passes `whenOn`: the step would wait there too. -/
theorem whenOn_self (u : State) : whenOn u (.next u) = .next u := by
  unfold whenOn
  dsimp only
  split <;> rfl

/-! ## An engine's turn (R273-R275) -/

theorem ceFetch_of_words {s s2 s3 : State} {e : Nat} {p : Prog} {w0 w1 : W32} {i : Instr}
    (h0 : s.ceWord e p p.cpc.toNat = (s2, some w0))
    (h1 : (if w0.getLsbD 6 then s2.ceWord e p (p.cpc + 4).toNat else (s2, some 0)) = (s3, some w1))
    (hdec : decodeCe w0 w1 = .ok i) :
    s.ceFetch e p = ({ s3 with insn := (w0.setWidth 64, w1.setWidth 64) }, i) := by
  unfold State.ceFetch
  rw [h0]
  dsimp only
  rw [h1]
  dsimp only
  rw [hdec]

theorem engineTurn_of_ready {s : State} {e slot : Nat} {p : Prog} (hon : s.islandOn (engineIsland e) = true)
    (hnext : (s.engine e).nextSlot (s.ceReady e) = some (slot, p)) :
    s.engineTurn e =
      let r := State.ceFetch { s.setEngine e { s.engine e with last := slot } with curE := some (e, slot) } e p
      (r.1, some r.2) := by
  unfold State.engineTurn
  rw [if_pos hon, hnext]

theorem step_of_engine {s0 t : State} {e : Nat} {rest : List Act} {i : Instr} (hagenda : s0.agenda = .engine e :: rest)
    (hturn : State.engineTurn { s0 with agenda := rest } e = (t, some i)) : step s0 = whenOn t (exec i t) := by
  unfold step
  rw [hagenda]
  dsimp only [move]
  rw [hturn]

/-- Settles O54: the slot latches what the words decode to (`afterFetch`), and `afterIssue` keeps its answer; an
engine's turn fetches its command and runs it. -/
theorem stepRunsDecoded : Obligations.StepRunsDecoded := by
  constructor
  · intro s x k w s2 ws h w1
    constructor
    · intro i hdec hconv t
      have hexec : exec (.waveIssue x) s = .next t := by
        rw [exec_waveIssue_of_fetches h, afterFetch_of_ok hdec hconv h.fresh]
      refine ⟨hexec, ?_⟩
      intro s0 rest hagenda hs u
      have hcur : u.cur = some k := rfl
      have hstep : step s0 = afterIssue s u i (whenOn u (exec i u)) := by
        rw [hs] at hexec
        have hend := step_of_issued hagenda hexec rfl
        rwa [← hs] at hend
      refine ⟨hstep, fun v hv hon hmoved hpool hresume => ?_, fun r hr => ?_, fun op o y hstill hi h0 h1 hy => ?_⟩
      · rw [hstep, hv, whenOn, if_pos hon, afterIssue_of_moved hcur hmoved hpool hresume]
      · rw [hstep, hr]
        exact afterIssue_refused s u i r
      · rw [hstep, hstill, whenOn_self, afterIssue_of_still hcur hy hi h0 h1]
        exact ⟨_, _, rfl, giveBack_slots s u k y, Map.find_put_self _ _ _, rfl, rfl, giveBack_mem s u k y⟩
    · intro f hdec hissued
      rw [exec_waveIssue_of_fetches h, afterFetch_of_error hdec, takeTrap_issued, hissued]
  · intro s s0 e rest slot p hagenda hs hon hnext s1 s2 s3 w0 w1 i h0 h1 hdec u
    have hturn : s.engineTurn e = (u, some i) := by
      rw [engineTurn_of_ready hon hnext]
      exact congrArg (fun r : State × Instr => (r.1, some r.2)) (ceFetch_of_words h0 h1 hdec)
    have hstep : step s0 = whenOn u (exec i u) := step_of_engine hagenda (hs ▸ hturn)
    exact ⟨hstep, fun hall => hstep.trans (whenOn_allOn _ hall)⟩

end Sys2Proof.Proofs
end

section
/-! The step of a replay at STOP (R37, R41), and a state that the statement on returns leaves open: user privilege
with the lane handler's flag still set. -/

namespace Sys2Proof.Proofs

open Sys2Proof Sys2Proof.Machine Sys2Proof.Claims

/-- During a replay a user wave at STOP with no PATH entry on top starts the next replay (R41). -/
theorem converge_startReplay {s : State} {k : Nat} {w : Wave} {e : StackEnt} {t : List StackEnt}
    (hsup : w.sys.sup = false) (hrep : replaying w) (hstop : w.pc = w.stop) (hs : w.stack = e :: t)
    (hk : e.kind ≠ 1) (i : Instr) (ws : W64 × W64) :
    s.converge k w i ws = some (s.setWave k w.startReplay) := by
  have hany : w.stack.any (fun e => e.kind = 2) = true := by
    obtain ⟨e, he, hk⟩ := hrep
    exact List.any_eq_true.2 ⟨e, he, decide_eq_true hk⟩
  unfold State.converge
  rw [if_neg (Bool.eq_false_iff.1 hsup), if_pos hany, if_pos hstop, hs]
  exact if_neg hk

theorem eq_ok_of_toOption {σ ε α : Type} {p : σ × Except ε α} {a : α} (h : p.2.toOption = some a) :
    p = (p.1, .ok a) := by
  obtain ⟨x, y⟩ := p
  cases y with
  | error e => cases h
  | ok b => cases h; rfl

theorem exists_ok_of_isOk {ε α : Type} {x : Except ε α} (h : x.isOk = true) : ∃ a, x = .ok a := by
  cases x with
  | error e => cases h
  | ok a => exact ⟨a, rfl⟩

/-! ## The state -/

/-- The word of a `FENCE.rel`, and the slot that takes it. -/
def strayFence : Nat := 0x3FAA9
def straySlot : Slot := ⟨0, 0, false, 1⟩

/-- A user wave at STOP with the RJOIN entry alone on its stack, whose lane-handler flag is set all the same. -/
def strayWave : Wave :=
  let w := placedWave 0 false false
  { w with stop := w.pc, stack := [⟨6, 0, 2⟩], sys := { w.sys with inLane := true } }

def strayState : State := (State.reset.placeCode (bytesOf 16 strayFence)).setWave 0 strayWave

/-- What the fetch at its PC answers. -/
def strayFetch : State × Except FetchTrap (W64 × W64) :=
  ((slotStart strayState straySlot).setWave 0 (atFetch strayState straySlot strayWave)).fetchAt 0
    (atFetch strayState straySlot strayWave)

def strayWords : W64 × W64 := (BitVec.ofNat 64 strayFence, 0)

theorem stray_slotFree : slotFree strayState straySlot := by
  refine ⟨by decide +kernel, by decide +kernel, fun h hfind => ?_⟩
  have hnone : (strayState.core straySlot.core).slots.find (2 * straySlot.quarter + (if straySlot.vec then 1 else 0))
      = none := by decide +kernel
  rw [hnone] at hfind
  cases hfind

theorem stray_pick : (slotStart strayState straySlot).pick straySlot
    ((strayState.core straySlot.core).cycle + straySlot.dt) = some (0, strayWave) := by decide +kernel

theorem stray_fetches : Fetches strayState straySlot 0 strayWave strayFetch.1 strayWords :=
  ⟨stray_slotFree, stray_pick, rfl, rfl, rfl, rfl, by decide +kernel, .inl rfl,
    eq_ok_of_toOption (by decide +kernel)⟩

theorem stray_decodes : ∃ i, decodeWave (strayFetch.1.decodeCtx (atFetch strayState straySlot strayWave))
    strayWords.1 strayWords.2 = .ok i := exists_ok_of_isOk (by decide +kernel)

theorem stray_kernel : ∃ g e, strayFetch.1.gangs.find strayWave.gang = some g
    ∧ strayFetch.1.entry? g.ctx g.launch = some e ∧ e.kd.handler = placedKernel.handler :=
  ⟨placedGang, placedEntry, by decide +kernel, by decide +kernel, rfl⟩

/-- With the flag set the popped lanes must be parked as well (R28), and none is: the wave goes on with none. -/
theorem stray_startReplay_exm : (atFetch strayState straySlot strayWave).startReplay.exm = 0 := by decide +kernel

/-- The wave that the slot leaves in its place is the one given. -/
theorem slotHeld_setWave_find (s s2 : State) (x : Slot) (k : Nat) (i : Option Instr) (w v : Wave) :
    (slotHeld s (s2.setWave k v) x k i w).waves.find k = some v := Map.find_put_self _ _ _

/-- Refutes O44: its clause on a replay at STOP takes the popped lanes among those not parked, as in user mode. The
premises give the privilege alone, not the flag of the lane handler, by which `permitted` chooses; in `strayState`,
which no run reaches, the two differ, and EXM becomes 0 where the statement has lanes 1 and 2. -/
theorem not_returns : ¬ Obligations.Returns := by
  intro hall
  have hrep : replaying strayWave := ⟨⟨6, 0, 2⟩, List.mem_singleton.2 rfl, rfl⟩
  obtain ⟨i, hdec⟩ := stray_decodes
  have hissued : strayFetch.1.issued = none := by decide +kernel
  obtain ⟨-, hstop, -, -⟩ := hall.2 _ _ _ _ _ _ i _ stray_fetches hissued hdec rfl stray_kernel
  obtain ⟨v, hends, hreplay⟩ := (hstop hrep rfl).2 ⟨6, 0, 2⟩ [] rfl (by decide)
  have hconv := converge_startReplay (s := strayFetch.1) (k := 0) (w := atFetch strayState straySlot strayWave)
    rfl hrep rfl rfl (by decide) i strayWords
  have hexec := exec_waveIssue_of_fetches stray_fetches
  rw [afterFetch_of_converge hdec hconv, hends] at hexec
  have hfind := congrArg (fun t : State => t.waves.find 0) (Host.Outcome.next.inj hexec)
  simp only [slotHeld_setWave_find, Option.some.injEq] at hfind
  have hexm : v.exm = 6 := by
    rw [hreplay.rejoin ⟨6, 0, 2⟩ [] (by decide) rfl]
    decide +kernel
  rw [hfind, stray_startReplay_exm] at hexm
  exact absurd hexm (by decide)

end Sys2Proof.Proofs
end

section
/-! Rounding of a value that a format holds (R54, R57, R58): in every mode it gives back that value's code. -/

namespace Sys2Proof.Proofs

open Sys2Proof Sys2Proof.Machine Sys2Proof.Claims

/-! ## What a finite code holds (R54) -/

/-- A code of a format that decodes to the finite value ± m × 2^e: e is at least the smallest quantum's, and above it
only for a normal m; the magnitude's code counts the quanta's binades and adds m. -/
structure FinCode (f : Fmt) (x : Nat) (n : Bool) (m : Nat) (e : Int) : Prop where
  exp : f.qmin ≤ e
  mant : m < 2 ^ (f.fb + 1)
  low : m < 2 ^ f.fb → e = f.qmin
  mag : (e - f.qmin).toNat * 2 ^ f.fb + m ≤ f.maxFin
  code : x < 2 ^ f.width → x = f.signed n ((e - f.qmin).toNat * 2 ^ f.fb + m)
  normal : isSubnormal f x = false → m ≠ 0 → 2 ^ f.fb ≤ m

/-- A code is its sign, its exponent field and its fraction. -/
theorem code_eq_signed (f : Fmt) {x : Nat} (hx : x < 2 ^ f.width) :
    x = f.signed (decide (x / 2 ^ (f.eb + f.fb) % 2 = 1)) (x / 2 ^ f.fb % 2 ^ f.eb * 2 ^ f.fb + x % 2 ^ f.fb) := by
  have hlow : x % 2 ^ (f.eb + f.fb) = x / 2 ^ f.fb % 2 ^ f.eb * 2 ^ f.fb + x % 2 ^ f.fb := by
    rw [Nat.add_comm f.eb, pow_add, Nat.mod_mul]; ring
  have hdiv := Nat.div_add_mod x (2 ^ (f.eb + f.fb))
  have hsign : x / 2 ^ (f.eb + f.fb) < 2 := Nat.div_lt_of_lt_mul (by
    rwa [← pow_succ, show f.eb + f.fb + 1 = f.width by unfold Fmt.width; omega])
  rw [← hlow]
  unfold Fmt.signed
  interval_cases hs : x / 2 ^ (f.eb + f.fb) <;> simp at hdiv ⊢ <;> omega

/-- Magnitudes below the infinities and NaNs are at most the largest finite one. -/
theorem mag_le_maxFin (f : Fmt) {ex fr : Nat} (hex : ex < 2 ^ f.eb) (hfr : fr < 2 ^ f.fb)
    (h : ¬ (ex = 2 ^ f.eb - 1 ∧ (f.inf = true ∨ fr = 2 ^ f.fb - 1))) : ex * 2 ^ f.fb + fr ≤ f.maxFin := by
  unfold Fmt.maxFin
  rw [pow_add]
  generalize 2 ^ f.eb = p at *
  generalize 2 ^ f.fb = q at *
  by_cases htop : ex = p - 1
  · have hlast : f.inf = false ∧ fr + 2 ≤ q := by
      by_cases hi : f.inf = true
      · exact absurd ⟨htop, .inl hi⟩ h
      · exact ⟨by simpa using hi, by have := fun e => h ⟨htop, .inr e⟩; omega⟩
    obtain ⟨p, rfl⟩ : ∃ p', p = p' + 1 := ⟨p - 1, by omega⟩
    subst htop
    simp only [hlast.1, Bool.false_eq_true, if_false, Nat.add_sub_cancel, Nat.add_mul]
    omega
  · obtain ⟨p, rfl⟩ : ∃ p', p = ex + 2 + p' := ⟨p - (ex + 2), by omega⟩
    have h1 : (ex + 2 + p - 1) * q = ex * q + q + p * q := by
      rw [show ex + 2 + p - 1 = ex + 1 + p by omega]; ring
    have h2 : (ex + 2 + p) * q = ex * q + q + q + p * q := by ring
    split <;> simp only [h1, h2] <;> omega

theorem finCode_of_decFl {f : Fmt} {x m : Nat} {n : Bool} {e : Int} (h : decFl f x = .fin n m e) :
    FinCode f x n m e := by
  have hfr : x % 2 ^ f.fb < 2 ^ f.fb := Nat.mod_lt _ (Nat.two_pow_pos _)
  have hex : x / 2 ^ f.fb % 2 ^ f.eb < 2 ^ f.eb := Nat.mod_lt _ (Nat.two_pow_pos _)
  have hcode := fun hx => code_eq_signed f (x := x) hx
  have hsub : isSubnormal f x = (decide (x / 2 ^ f.fb % 2 ^ f.eb = 0) && (x % 2 ^ f.fb != 0)) := rfl
  have hmag := mag_le_maxFin f hex hfr
  unfold decFl at h
  generalize x / 2 ^ f.fb % 2 ^ f.eb = ex at *
  generalize x % 2 ^ f.fb = fr at *
  have hpow : 2 ^ (f.fb + 1) = 2 * 2 ^ f.fb := by rw [pow_succ, Nat.mul_comm]
  dsimp only at h
  split_ifs at h with h1 _ h2 h3
  all_goals simp only [Fl.fin.injEq] at h
  all_goals
    obtain ⟨rfl, rfl, rfl⟩ := h
    have hmag := hmag (by
      rintro ⟨htop, hi⟩
      cases hinf : f.inf <;> simp [hinf, htop] at h1 h2 hi
      exact h2 hi)
  · subst h3
    exact ⟨le_refl _, by omega, fun _ => rfl, by simpa using hmag, by simpa using hcode,
      fun hs hne => by simp [hsub, hne] at hs⟩
  · have hbin : (f.qmin + (ex : Int) - 1 - f.qmin).toNat * 2 ^ f.fb + (2 ^ f.fb + fr) = ex * 2 ^ f.fb + fr := by
      obtain ⟨ex, rfl⟩ : ∃ y, ex = y + 1 := ⟨ex - 1, by omega⟩
      rw [show (f.qmin + ((ex + 1 : Nat) : Int) - 1 - f.qmin).toNat = ex by omega]; ring
    exact ⟨by omega, by omega, fun hlt => by omega, by rwa [hbin], by rwa [hbin], fun _ _ => by omega⟩

/-! ## Rounding to a quantum that the value is a multiple of -/

theorem roundUp_exact (rm : Rm) (n odd : Bool) : roundUp rm n false .lt odd = false := by cases rm <;> rfl

/-- An exact multiple of the quantum is kept, in every mode. -/
theorem roundMag_exact (rm : Rm) (n : Bool) {m M : Nat} {e q : Int} (h : (m : ℚ) * 2 ^ e = M * 2 ^ q) :
    roundMag rm n m e q false = (M, false) := by
  unfold roundMag
  split
  · next hle =>
    have hm : m * 2 ^ (e - q).toNat = M := by
      have hz : (2 : ℚ) ^ e = 2 ^ (e - q).toNat * 2 ^ q := by
        rw [← zpow_natCast, ← zpow_add₀ two_ne_zero]; congr 1; omega
      rw [hz, ← mul_assoc] at h
      exact_mod_cast mul_right_cancel₀ (zpow_ne_zero q two_ne_zero) h
    simp [hm, roundUp_exact]
  · next hlt =>
    have hm : m = M * 2 ^ (q - e).toNat := by
      have hz : (2 : ℚ) ^ q = 2 ^ (q - e).toNat * 2 ^ e := by
        rw [← zpow_natCast, ← zpow_add₀ two_ne_zero]; congr 1; omega
      rw [hz, ← mul_assoc] at h
      exact_mod_cast mul_right_cancel₀ (zpow_ne_zero e two_ne_zero) h
    have hpos : 0 < 2 ^ (q - e).toNat := Nat.two_pow_pos _
    simp [hm, hpos, roundUp_exact]

/-- The leading bit of a value. -/
theorem two_zpow_log2_le {m : Nat} (hm : m ≠ 0) (e : Int) :
    (2 : ℚ) ^ ((Nat.log2 m : Int) + e) ≤ m * 2 ^ e ∧ (m : ℚ) * 2 ^ e < 2 ^ ((Nat.log2 m : Int) + e + 1) := by
  have hpos : (0 : ℚ) < 2 ^ e := zpow_pos two_pos e
  have hlo : ((2 ^ Nat.log2 m : Nat) : ℚ) ≤ m := Nat.cast_le.2 ((Nat.le_log2 hm).1 le_rfl)
  have hhi : (m : ℚ) < (2 ^ (Nat.log2 m + 1) : Nat) := Nat.cast_lt.2 Nat.lt_log2_self
  push_cast at hlo hhi
  constructor
  · rw [zpow_add₀ two_ne_zero, zpow_natCast]
    exact mul_le_mul_of_nonneg_right hlo hpos.le
  · rw [add_right_comm, zpow_add₀ two_ne_zero, ← Nat.cast_succ, zpow_natCast]
    exact mul_lt_mul_of_pos_right hhi hpos

/-- Equal values have leading bits of equal weight. -/
theorem log2_add_eq {m M : Nat} {e E : Int} (h : (m : ℚ) * 2 ^ e = M * 2 ^ E) (hM : M ≠ 0) (hm : m ≠ 0) :
    (Nat.log2 m : Int) + e = Nat.log2 M + E := by
  obtain ⟨hlo, hhi⟩ := two_zpow_log2_le hm e
  obtain ⟨hlo', hhi'⟩ := two_zpow_log2_le hM E
  rw [h] at hlo hhi
  have h1 := (zpow_lt_zpow_iff_right₀ (one_lt_two (α := ℚ))).1 (hlo.trans_lt hhi')
  have h2 := (zpow_lt_zpow_iff_right₀ (one_lt_two (α := ℚ))).1 (hlo'.trans_lt hhi)
  omega

/-- The leading exponent of a finite code, less the fraction bits, never passes its quantum's. -/
theorem FinCode.quantum {f : Fmt} {x M : Nat} {n : Bool} {E : Int} (h : FinCode f x n M E) (hM : M ≠ 0) :
    (if (Nat.log2 M : Int) + E - f.fb < f.qmin then f.qmin else (Nat.log2 M : Int) + E - f.fb) = E := by
  have hhi : Nat.log2 M < f.fb + 1 := (Nat.log2_lt hM).2 h.mant
  by_cases hlow : M < 2 ^ f.fb
  · have := (Nat.log2_lt hM).2 hlow
    have := h.low hlow
    rw [if_pos (by omega), this]
  · have hlo : f.fb ≤ Nat.log2 M := (Nat.le_log2 hM).2 (not_lt.1 hlow)
    have := h.exp
    rw [if_neg (by omega)]
    omega

/-- The value of a finite code rounds to the code, without overflow and exactly. -/
theorem roundFmt_exact {f : Fmt} {x m M : Nat} {n : Bool} {e E : Int} (h : FinCode f x n M E) (hM : M ≠ 0)
    (hv : (m : ℚ) * 2 ^ e = M * 2 ^ E) (rm : Rm) (n' : Bool) :
    ∃ tiny, roundFmt f rm n' m e false = ⟨(E - f.qmin).toNat * 2 ^ f.fb + M, false, false, tiny⟩ := by
  have hm : m ≠ 0 := by
    rintro rfl
    have : (M : ℚ) * 2 ^ E ≠ 0 := mul_ne_zero (Nat.cast_ne_zero.2 hM) (zpow_ne_zero _ two_ne_zero)
    exact this (by rw [← hv]; simp)
  have hq := h.quantum hM
  unfold roundFmt
  simp only [log2_add_eq hv hM hm, hm, decide_false, Bool.false_and, Bool.false_eq_true, if_false, hq,
    roundMag_exact rm n' hv]
  exact ⟨_, by rw [decide_eq_false (not_lt.2 h.mag)]⟩

end Sys2Proof.Proofs
end

section
/-! The float operations on finite values whose exact result is a value of the format (R58, R62, R166, R168). -/

namespace Sys2Proof.Proofs

open Sys2Proof Sys2Proof.Machine Sys2Proof.Claims

/-! ## Values -/

theorem isFin_iff {a : Fl} : isFin a ↔ ∃ n m e, a = .fin n m e := by
  cases a <;> simp [isFin]

theorem flQ_fin (n : Bool) (m : Nat) (e : Int) : flQ (.fin n m e) = (signInt n m : ℚ) * 2 ^ e := by
  cases n <;> simp [flQ, signInt]

theorem flQ_negate (a : Fl) : flQ a.negate = -flQ a := by
  cases a with
  | fin n m e => cases n <;> simp [flQ, Fl.negate]
  | _ => simp [flQ, Fl.negate]

theorem isFin_negate {a : Fl} : isFin a.negate ↔ isFin a := by cases a <;> exact Iff.rfl

/-- Equal values other than zero have one sign and equal magnitudes. -/
theorem sign_and_mag_of_flQ_eq {n n' : Bool} {m m' : Nat} {e e' : Int}
    (h : flQ (.fin n m e) = flQ (.fin n' m' e')) (h0 : flQ (.fin n' m' e') ≠ 0) :
    n = n' ∧ m' ≠ 0 ∧ (m : ℚ) * 2 ^ e = m' * 2 ^ e' := by
  have hm' : m' ≠ 0 := by rintro rfl; simp [flQ] at h0
  have hpos : (0 : ℚ) < m' * 2 ^ e' := mul_pos (by positivity) (zpow_pos two_pos _)
  have hnn : (0 : ℚ) ≤ m * 2 ^ e := mul_nonneg (Nat.cast_nonneg _) (zpow_pos two_pos _).le
  simp only [flQ, mul_assoc] at h
  cases n <;> cases n' <;> simp at h
  · exact ⟨rfl, hm', h⟩
  · linarith
  · linarith
  · exact ⟨rfl, hm', h⟩

/-- A code of the format that holds the value v, other than zero, and that FTZ leaves. -/
structure HoldsValue (f : Fmt) (ftz : Bool) (x : Nat) (v : ℚ) : Prop where
  fits : x < 2 ^ f.width
  fin : isFin (decFl f x)
  value : flQ (decFl f x) = v
  nonzero : v ≠ 0
  kept : ftz = false ∨ isSubnormal f x = false

/-- An exact value of the format finishes as its code, in every mode. -/
theorem finish_exact {f : Fmt} {ftz n : Bool} {x m : Nat} {e : Int} {v : ℚ} (h : HoldsValue f ftz x v)
    (hv : flQ (.fin n m e) = v) (rm : Rm) : (finish f rm ftz n m e false).1 = x := by
  obtain ⟨n', M, E, hdec⟩ := isFin_iff.1 h.fin
  have hcode := finCode_of_decFl hdec
  have hval := h.value
  rw [hdec] at hval
  obtain ⟨rfl, hM, hmag⟩ := sign_and_mag_of_flQ_eq (hv.trans hval.symm) (by rw [hval]; exact h.nonzero)
  obtain ⟨tiny, hr⟩ := roundFmt_exact hcode hM hmag rm n
  have hflush : (ftz && (E - f.qmin).toNat * 2 ^ f.fb + M != 0
      && decide ((E - f.qmin).toNat * 2 ^ f.fb + M < 2 ^ f.fb)) = false := by
    rcases h.kept with hz | hs
    · simp [hz]
    · have := hcode.normal hs hM
      rw [decide_eq_false (by omega), Bool.and_false]
  unfold finish
  rw [hr]
  simp only [Bool.false_eq_true, if_false, hflush]
  exact (hcode.code h.fits).symm

theorem flQ_of_int (y e : Int) : flQ (.fin (decide (y < 0)) y.natAbs e) = (y : ℚ) * 2 ^ e := by
  have hsign : signInt (decide (y < 0)) y.natAbs = y := by
    simp only [signInt, decide_eq_true_eq]
    split <;> omega
  rw [flQ_fin, hsign]

theorem finishInt_exact {f : Fmt} {ftz : Bool} {x : Nat} {y e : Int} {v : ℚ} (h : HoldsValue f ftz x v)
    (hv : (y : ℚ) * 2 ^ e = v) (rm : Rm) (z : Bool) : (finishInt f rm ftz y e z).1 = x := by
  have hy : y ≠ 0 := by rintro rfl; exact h.nonzero (by rw [← hv]; simp)
  unfold finishInt
  rw [if_neg hy]
  exact finish_exact h ((flQ_of_int y e).trans hv) rm

/-- The exact sum of two finite values. -/
theorem addExact_value (n1 n2 : Bool) (m1 m2 : Nat) (e1 e2 : Int) :
    ((addExact n1 m1 e1 n2 m2 e2).1 : ℚ) * 2 ^ (addExact n1 m1 e1 n2 m2 e2).2
      = flQ (.fin n1 m1 e1) + flQ (.fin n2 m2 e2) := by
  have shift : ∀ (n : Bool) (m : Nat) (e d : Int), d ≤ e →
      (signInt n (m * 2 ^ (e - d).toNat) : ℚ) * 2 ^ d = flQ (.fin n m e) := by
    intro n m e d hd
    have hz : (2 : ℚ) ^ e = 2 ^ (e - d).toNat * 2 ^ d := by
      rw [← zpow_natCast, ← zpow_add₀ two_ne_zero]; congr 1; omega
    rw [flQ_fin, hz, ← mul_assoc]
    cases n <;> simp [signInt]
  unfold addExact
  dsimp only
  rw [Int.cast_add, add_mul]
  split <;> rw [shift _ _ _ _ (by omega), shift _ _ _ _ (by omega)]

/-! ## The operations (R166) -/

theorem flAdd_exact {f : Fmt} {ftz : Bool} {x : Nat} {a b : Fl} (ha : isFin a) (hb : isFin b)
    (h : HoldsValue f ftz x (flQ a + flQ b)) (rm : Rm) : (flAdd f rm ftz a b).1 = x := by
  obtain ⟨n1, m1, e1, rfl⟩ := isFin_iff.1 ha
  obtain ⟨n2, m2, e2, rfl⟩ := isFin_iff.1 hb
  exact finishInt_exact h (addExact_value _ _ _ _ _ _) rm _

theorem flQ_mul (n1 n2 : Bool) (m1 m2 : Nat) (e1 e2 : Int) :
    flQ (.fin (n1 != n2) (m1 * m2) (e1 + e2)) = flQ (.fin n1 m1 e1) * flQ (.fin n2 m2 e2) := by
  simp only [flQ, zpow_add₀ (two_ne_zero (α := ℚ))]
  cases n1 <;> cases n2 <;> simp <;> ring

theorem flMul_exact {f : Fmt} {ftz : Bool} {x : Nat} {a b : Fl} (ha : isFin a) (hb : isFin b)
    (h : HoldsValue f ftz x (flQ a * flQ b)) (rm : Rm) : (flMul f rm ftz a b).1 = x := by
  obtain ⟨n1, m1, e1, rfl⟩ := isFin_iff.1 ha
  obtain ⟨n2, m2, e2, rfl⟩ := isFin_iff.1 hb
  have hm : m1 * m2 ≠ 0 := fun h0 => h.nonzero (by rw [← flQ_mul, h0]; simp [flQ])
  unfold flMul
  simp only [if_neg hm]
  exact finish_exact h (flQ_mul _ _ _ _ _ _) rm

theorem flFma_exact {f : Fmt} {ftz : Bool} {x : Nat} {a b c : Fl} (ha : isFin a) (hb : isFin b) (hc : isFin c)
    (h : HoldsValue f ftz x (flQ a * flQ b + flQ c)) (rm : Rm) : (flFma f rm ftz a b c).1 = x := by
  obtain ⟨n1, m1, e1, rfl⟩ := isFin_iff.1 ha
  obtain ⟨n2, m2, e2, rfl⟩ := isFin_iff.1 hb
  obtain ⟨n3, m3, e3, rfl⟩ := isFin_iff.1 hc
  rw [← flQ_mul] at h
  exact finishInt_exact h (addExact_value _ _ _ _ _ _) rm _

/-! ## Quotients: 128 more bits give every quotient that a format holds (R62) -/

theorem neg_128_le_of_one_le_mul {c : ℚ} {t : Int} (h : 1 ≤ c * 2 ^ t) (hc : c ≤ 2 ^ 128) : -128 ≤ t := by
  by_contra hlt
  have hsmall : (2 : ℚ) ^ t ≤ 2 ^ (-129 : Int) := zpow_le_zpow_right₀ one_le_two (by omega)
  have hprod : c * 2 ^ t ≤ 2 ^ 128 * 2 ^ (-129 : Int) := mul_le_mul hc hsmall (by positivity) (by positivity)
  norm_num at hprod
  linarith

/-- The integer quotient of a / b with 128 more bits is exact when the quotient has a short code: a divisor and a
result of at most 64 bits leave it at most 128 bits below the point. -/
theorem quotient_exact {m1 m2 M : Nat} {t : Int} (h : (m1 : ℚ) = m2 * (M * 2 ^ t)) (h1 : m1 ≠ 0) (h2 : m2 < 2 ^ 64)
    (hM : M < 2 ^ 64) : m1 * 2 ^ 128 % m2 = 0 ∧ ((m1 * 2 ^ 128 / m2 : Nat) : ℚ) = M * 2 ^ (t + 128) := by
  have ht : -128 ≤ t := by
    refine neg_128_le_of_one_le_mul (c := m2 * M) ?_ ?_
    · rw [mul_assoc, ← h]; exact Nat.one_le_cast.2 (Nat.one_le_iff_ne_zero.2 h1)
    · calc (m2 : ℚ) * M ≤ 2 ^ 64 * 2 ^ 64 := by gcongr <;> exact_mod_cast le_of_lt (by assumption)
        _ = 2 ^ 128 := by norm_num
  obtain ⟨u, hu⟩ : ∃ u : Nat, t + 128 = u := Int.eq_ofNat_of_zero_le (by omega)
  have hmul : m1 * 2 ^ 128 = m2 * (M * 2 ^ u) := by
    have : (m1 : ℚ) * 2 ^ 128 = m2 * (M * 2 ^ u) := by
      rw [h, ← zpow_natCast (2 : ℚ) u, ← hu, zpow_add₀ two_ne_zero]
      norm_num; ring
    exact_mod_cast this
  have hpos : 0 < m2 := Nat.pos_of_ne_zero (by rintro rfl; simp at h; exact h1 h)
  refine ⟨by rw [hmul, Nat.mul_mod_right], ?_⟩
  rw [hmul, Nat.mul_div_cancel_left _ hpos, hu]
  push_cast
  rfl

theorem flDiv_exact {f : Fmt} {ftz : Bool} {x m2 : Nat} {n2 : Bool} {e2 : Int} {a : Fl} (hfb : f.fb < 64)
    (ha : isFin a) (hb : m2 < 2 ^ 64) (h : HoldsValue f ftz x (flQ a / flQ (.fin n2 m2 e2))) (rm : Rm) :
    (flDiv f rm ftz a (.fin n2 m2 e2)).1 = x := by
  obtain ⟨n1, m1, e1, rfl⟩ := isFin_iff.1 ha
  have h1 : m1 ≠ 0 := by rintro rfl; exact h.nonzero (by simp [flQ])
  have h2 : m2 ≠ 0 := by rintro rfl; exact h.nonzero (by simp [flQ])
  obtain ⟨n, M, E, hdec⟩ := isFin_iff.1 h.fin
  have hM : M < 2 ^ 64 := (finCode_of_decFl hdec).mant.trans_le (Nat.pow_le_pow_right two_pos hfb)
  have hb0 : flQ (.fin n2 m2 e2) ≠ 0 := fun h0 => h.nonzero (by rw [h0, div_zero])
  have hprod : flQ (.fin n1 m1 e1) = flQ (.fin (n2 != n) (m2 * M) (e2 + E)) := by
    rw [flQ_mul, ← hdec, h.value, mul_div_cancel₀ _ hb0]
  have hne : flQ (.fin (n2 != n) (m2 * M) (e2 + E)) ≠ 0 := by
    rw [← hprod]; exact fun h0 => h.nonzero (by rw [h0, zero_div])
  obtain ⟨hsign, -, hmag⟩ := sign_and_mag_of_flQ_eq hprod hne
  have hquo : (m1 : ℚ) = m2 * (M * 2 ^ (e2 + E - e1)) := by
    rw [zpow_sub₀ two_ne_zero, ← mul_div_assoc, ← mul_div_assoc, ← mul_assoc,
      eq_div_iff (zpow_ne_zero _ two_ne_zero), hmag]
    push_cast; ring
  obtain ⟨hrem, hdiv⟩ := quotient_exact hquo h1 hb hM
  unfold flDiv
  simp only [if_neg h1, if_neg h2, hrem, bne_self_eq_false]
  refine finish_exact h ?_ rm
  rw [← h.value, hdec, hsign]
  have hexp : (2 : ℚ) ^ E = 2 ^ (e2 + E - e1 + 128) * 2 ^ (e1 - e2 - (128 : Nat)) := by
    rw [← zpow_add₀ two_ne_zero]; congr 1; push_cast; ring
  simp only [flQ]
  rw [hdiv, hexp]
  cases n2 <;> cases n <;> simp <;> ring

/-! ## Square roots: 256 more bits give every root that a format holds (R62) -/

/-- One bit a step, the root keeps between its squares. -/
theorem isqrtAux_bounds (m : Nat) : ∀ (k r : Nat), r * r ≤ m → m < (r + 2 ^ k) * (r + 2 ^ k) →
    isqrtAux m k r * isqrtAux m k r ≤ m ∧ m < (isqrtAux m k r + 1) * (isqrtAux m k r + 1)
  | 0, r, hlo, hhi => ⟨hlo, by simpa [isqrtAux] using hhi⟩
  | k + 1, r, hlo, hhi => by
    have htwo : r + 2 ^ (k + 1) = r + 2 ^ k + 2 ^ k := by rw [pow_succ]; omega
    rw [htwo] at hhi
    unfold isqrtAux
    split
    · next h => exact isqrtAux_bounds m k _ h hhi
    · next h => exact isqrtAux_bounds m k r hlo (not_le.1 h)

/-- The integer square root is the floor of the root. -/
theorem isqrt_eq_sqrt (m : Nat) : isqrt m = Nat.sqrt m := by
  refine Nat.eq_sqrt.2 (isqrtAux_bounds m _ 0 (Nat.zero_le m) ?_)
  have hlog : m < 2 ^ (Nat.log2 m + 1) := Nat.lt_log2_self
  refine hlog.trans_le ?_
  rw [zero_add, ← pow_add]
  exact Nat.pow_le_pow_right two_pos (by omega)

/-- A root of at most 64 bits, of m with an even exponent and 256 more bits, is found exactly. -/
theorem root_exact {m M : Nat} {t : Int} (h : (m : ℚ) = M * M * 2 ^ (2 * t)) (hm : m ≠ 0) (hM : M < 2 ^ 64) :
    isqrt (m * 2 ^ 256) * isqrt (m * 2 ^ 256) = m * 2 ^ 256 ∧ (isqrt (m * 2 ^ 256) : ℚ) = M * 2 ^ (t + 128) := by
  have ht : -128 ≤ 2 * t := by
    refine neg_128_le_of_one_le_mul (c := M * M) ?_ ?_
    · rw [← h]; exact Nat.one_le_cast.2 (Nat.one_le_iff_ne_zero.2 hm)
    · calc (M : ℚ) * M ≤ 2 ^ 64 * 2 ^ 64 := by gcongr <;> exact_mod_cast hM.le
        _ = 2 ^ 128 := by norm_num
  obtain ⟨u, hu⟩ : ∃ u : Nat, t + 128 = u := Int.eq_ofNat_of_zero_le (by omega)
  have hsq : m * 2 ^ 256 = M * 2 ^ u * (M * 2 ^ u) := by
    have : (m : ℚ) * 2 ^ 256 = M * 2 ^ u * (M * 2 ^ u) := by
      have hz : (2 : ℚ) ^ u = 2 ^ t * 2 ^ 128 := by
        rw [← zpow_natCast (2 : ℚ) u, ← hu, zpow_add₀ two_ne_zero]; norm_num
      rw [h, hz, two_mul, zpow_add₀ two_ne_zero]
      ring
    exact_mod_cast this
  rw [hsq, isqrt_eq_sqrt, Nat.sqrt_eq, hu]
  refine ⟨rfl, ?_⟩
  push_cast
  rfl

theorem flSqrt_exact {f : Fmt} {ftz : Bool} {x : Nat} {a : Fl} (hfb : f.fb < 64) (ha : isFin a)
    {v : ℚ} (hsq : v * v = flQ a) (hpos : 0 < v) (h : HoldsValue f ftz x v) (rm : Rm) :
    (flSqrt f rm ftz a).1 = x := by
  obtain ⟨n1, m, e, rfl⟩ := isFin_iff.1 ha
  obtain ⟨n, M, E, hdec⟩ := isFin_iff.1 h.fin
  have hM : M < 2 ^ 64 := (finCode_of_decFl hdec).mant.trans_le (Nat.pow_le_pow_right two_pos hfb)
  have hval : flQ (.fin n M E) = v := by rw [← hdec, h.value]
  have hprod : flQ (.fin n1 m e) = flQ (.fin (n != n) (M * M) (E + E)) := by rw [flQ_mul, hval, hsq]
  have hne : flQ (.fin (n != n) (M * M) (E + E)) ≠ 0 := by rw [flQ_mul, hval]; exact (mul_pos hpos hpos).ne'
  obtain ⟨hsign, -, hmag⟩ := sign_and_mag_of_flQ_eq hprod hne
  rw [bne_self_eq_false] at hsign
  subst hsign
  have hm : m ≠ 0 := by rintro rfl; exact hne (by rw [← hprod]; simp [flQ])
  obtain ⟨rfl⟩ : n = false := by
    by_contra hn
    rw [Bool.not_eq_false] at hn
    subst hn
    have : (0 : ℚ) ≤ M * 2 ^ E := by positivity
    simp [flQ] at hval
    linarith
  have hpar : ((e % 2).toNat : Int) = e % 2 := Int.toNat_of_nonneg (Int.emod_nonneg _ two_ne_zero)
  generalize hp : (e % 2).toNat = par at hpar
  obtain ⟨d, hd⟩ : ∃ d, e - par = 2 * d := ⟨e / 2, by omega⟩
  have hroot : ((m * 2 ^ par : Nat) : ℚ) = M * M * 2 ^ (2 * (E - d)) := by
    have hz : (2 : ℚ) ^ (2 * (E - d)) = 2 ^ (E + E) / 2 ^ e * 2 ^ par := by
      rw [← zpow_natCast, ← zpow_sub₀ two_ne_zero, ← zpow_add₀ two_ne_zero]; congr 1; omega
    rw [hz, ← mul_assoc, ← mul_div_assoc]
    push_cast at hmag ⊢
    rw [← hmag, mul_div_assoc, div_self (zpow_ne_zero _ two_ne_zero), mul_one]
  obtain ⟨hexact, hval'⟩ := root_exact hroot (Nat.mul_ne_zero hm (Nat.two_pow_pos par).ne') hM
  unfold flSqrt
  simp only [if_neg hm, hp, Bool.false_eq_true, if_false, pow_add, ← Nat.mul_assoc, hexact, bne_self_eq_false]
  refine finish_exact h ?_ rm
  rw [← hval]
  have hexp : (2 : ℚ) ^ E = 2 ^ (E - d + 128) * 2 ^ ((e - par - 256) / 2) := by
    rw [← zpow_add₀ two_ne_zero]; congr 1; omega
  simp only [flQ, Bool.false_eq_true, if_false, one_mul]
  rw [hval', hexp, mul_assoc]

end Sys2Proof.Proofs
end

section
/-! Computing instructions with no exception enabled (R8, R55, R61, R147): they retire, with their cells written. -/

namespace Sys2Proof.Proofs

open Sys2Proof Sys2Proof.Machine Sys2Proof.Claims

theorem enabledOf_of_noneEnabled {w : Wave} (h : noneEnabled w) (fl : W32) : enabledOf w.regs.mode fl = 0 := by
  have hmode : w.regs.mode >>> 8 &&& 0x1F = 0 := by
    unfold noneEnabled at h
    have hshift := congrArg (fun m : W32 => m >>> 8) h
    simpa [BitVec.ushiftRight_and_distrib] using hshift
  rw [enabledOf, BitVec.and_assoc, BitVec.and_comm fl, ← BitVec.and_assoc, hmode]
  exact BitVec.zero_and

theorem or_and_not_eq_zero {a b df : W32} (ha : a &&& ~~~df = 0) (hb : b &&& ~~~df = 0) :
    (a ||| b) &&& ~~~df = 0 := by
  rw [BitVec.and_or_distrib_right, ha, hb]
  rfl

/-- With no enabled condition in any cell, every cell's register is written, and the instruction retires. -/
theorem runCells_setReg_next {s : State} {k : Nat} {w : Wave} {o : WOp} (hat : At s k w) (wide sgn : Bool)
    (f : Wave → Machine.Cell → Nat × W32) (hf : ∀ c ∈ w.cells o, enabledOf w.regs.mode (f w c).2 = 0) :
    runCells o s f (fun w c x => w.setReg c wide sgn o.d.toNat x) = .next (s.retire k
      (writeCells w wide sgn o.d.toNat ((w.cells o).map (fun c => (c, f w c)))) o.len) := by
  have hnone : ((w.cells o).map (fun c => (c, f w c))).foldl
      (fun acc r => acc ||| enabledOf w.regs.mode r.2.2) 0 = 0 := by
    generalize w.cells o = cs at hf
    induction cs with
    | nil => rfl
    | cons c cs ih =>
      rw [List.map_cons, List.foldl_cons, hf c List.mem_cons_self]
      exact ih fun d hd => hf d (List.mem_cons_of_mem _ hd)
  unfold runCells
  rw [onWave_at hat.cur hat.wave]
  exact if_pos hnone

/-- Written cells change D alone, and of `FLAGS` the bits that they set. -/
theorem onlyRegs_writeCells (w : Wave) (o : WOp) (wide sgn : Bool) (f : Machine.Cell → Nat × W32) (df : W32)
    (hf : ∀ c ∈ w.cells o, (f c).2 &&& ~~~df = 0) :
    OnlyRegs w (writeCells w wide sgn o.d.toNat ((w.cells o).map (fun c => (c, f c))))
      (dstV w o wide) (dstG w o) never2 never1 df := by
  have hcells : ((w.cells o).map (fun c => (c, f c))).map (·.1) = w.cells o := by
    rw [List.map_map]; exact List.map_id _
  obtain ⟨R, heq, hp, hgp, hc, hq, hmode⟩ :=
    writeCells_regs w wide sgn o.d.toNat ((w.cells o).map (fun c => (c, f c)))
  refine ⟨by rw [heq], fun r l hl hdv => ?_, fun r hdg => ?_, fun r l _ => ?_, fun r _ => ?_, by rw [heq, hc],
    by rw [heq, hq], by rw [heq, hmode], ?_⟩
  · refine writeCells_vreg w wide sgn _ _ r l hl (fun m hm => ?_) (fun hm => ?_)
    · exact w.active_lt (cells_lane (hcells ▸ hm)).2
    · obtain ⟨hgrp, hact⟩ := cells_lane (hcells ▸ hm)
      exact ⟨fun e => hdv ⟨hgrp, hact, .inl e⟩, fun hwide e => hdv ⟨hgrp, hact, .inr ⟨hwide, e⟩⟩⟩
  · refine writeCells_greg w wide sgn _ _ r (fun hm e => hdg ?_)
    obtain ⟨hgrp, hg⟩ := cells_grp (hcells ▸ hm)
    exact ⟨hgrp, hg, e⟩
  · rw [heq]; simp only [Wave.preg, hp]
  · rw [heq]; simp only [Wave.gpred, hgp]
  · refine ⟨_, writeCells_flags w wide sgn _ _, ?_⟩
    have gen : ∀ (cs : List Machine.Cell) (a : W32), (∀ c ∈ cs, (f c).2 &&& ~~~df = 0) → a &&& ~~~df = 0 →
        (cs.map (fun c => (c, f c))).foldl (fun a r => a ||| r.2.2) a &&& ~~~df = 0 := by
      intro cs
      induction cs with
      | nil => intro a _ ha; exact ha
      | cons c cs ih =>
        intro a hcs ha
        exact ih _ (fun d hd => hcs d (List.mem_cons_of_mem _ hd)) (or_and_not_eq_zero ha (hcs c List.mem_cons_self))
    exact gen _ _ hf (BitVec.zero_and)

/-- An instruction that writes one register of each cell, with no exception enabled, retires. -/
theorem retires_of_runCells {i : Instr} {o : WOp} {s : State} {k : Nat} {w : Wave} {wide sgn : Bool} {df : W32}
    {f : Wave → Machine.Cell → Nat × W32} (hat : At s k w) (hnone : noneEnabled w)
    (hexec : exec i s = runCells o s f (fun w c x => w.setReg c wide sgn o.d.toNat x))
    (hf : ∀ c ∈ w.cells o, (f w c).2 &&& ~~~df = 0) :
    Retires i o s k w (writeCells w wide sgn o.d.toNat ((w.cells o).map (fun c => (c, f w c)))) wide df := by
  refine ⟨hexec.trans (runCells_setReg_next hat wide sgn f fun c _ => enabledOf_of_noneEnabled hnone _),
    onlyRegs_writeCells w o wide sgn (f w) df hf, ⟨fun _ => rfl, rfl, rfl⟩, fun j hj => ?_⟩
  rw [State.retire_waves, Map.find_put_ne _ _ hj]

/-! ## Elements of a result (R53, R129) -/

theorem packElems_cons (t x : Nat) (xs : List Nat) :
    packElems t (x :: xs) = x % 2 ^ tyWidth t + 2 ^ tyWidth t * packElems t xs := by
  have gen : ∀ (xs : List Nat) (k acc : Nat),
      (xs.zipIdx k).foldl (fun acc p => acc + p.1 % 2 ^ tyWidth t * 2 ^ (tyWidth t * p.2)) acc
        = acc + 2 ^ (tyWidth t * k) * packElems t xs := by
    intro xs
    induction xs with
    | nil => intro k acc; simp [packElems]
    | cons y ys ih =>
      intro k acc
      have h1 := ih 1 (y % 2 ^ tyWidth t)
      rw [List.zipIdx_cons, List.foldl_cons, ih]
      simp only [packElems, List.zipIdx_cons, List.foldl_cons] at h1 ⊢
      simp only [zero_add, Nat.mul_zero, pow_zero, Nat.mul_one, Nat.mul_succ, pow_add] at h1 ⊢
      rw [h1]
      ring
  rw [packElems, List.zipIdx_cons, List.foldl_cons, gen]
  simp

theorem elem_packElems (t : Nat) (xs : List Nat) (i : Nat) (d : Nat) (h : i < xs.length) :
    elem t (packElems t xs) i = xs.getD i d % 2 ^ tyWidth t := by
  induction xs generalizing i with
  | nil => cases h
  | cons x xs ih =>
    have hlt : x % 2 ^ tyWidth t < 2 ^ tyWidth t := Nat.mod_lt _ (Nat.two_pow_pos _)
    rw [packElems_cons]
    cases i with
    | zero => simp [elem]
    | succ i =>
      have hdrop : elem t (x % 2 ^ tyWidth t + 2 ^ tyWidth t * packElems t xs) (i + 1)
          = elem t (packElems t xs) i := by
        rw [elem, elem, Nat.mul_succ, Nat.add_comm (tyWidth t * i), pow_add, ← Nat.div_div_eq_div_mul,
          Nat.add_mul_div_left _ _ (Nat.two_pow_pos _), Nat.div_eq_of_lt hlt, zero_add]
      rw [hdrop, ih i (Nat.lt_of_succ_lt_succ h), List.getD_cons_succ]

theorem packElems_lt (t : Nat) (xs : List Nat) : packElems t xs < 2 ^ (tyWidth t * xs.length) := by
  induction xs with
  | nil => simp [packElems]
  | cons x xs ih =>
    have hlt : x % 2 ^ tyWidth t < 2 ^ tyWidth t := Nat.mod_lt _ (Nat.two_pow_pos _)
    rw [packElems_cons, List.length_cons, Nat.mul_succ, Nat.add_comm (tyWidth t * xs.length), pow_add]
    calc _ < 2 ^ tyWidth t * (packElems t xs + 1) := by rw [Nat.mul_succ]; omega
      _ ≤ _ := Nat.mul_le_mul_left _ ih

theorem tyWidth_mul_tyCount (t : Nat) : tyWidth t * tyCount t ≤ if ty64 t then 64 else 32 := by
  by_cases h : t < 12
  · interval_cases t <;> decide
  · obtain ⟨t, rfl⟩ : ∃ u, t = u + 12 := ⟨t - 12, by omega⟩
    simp [tyWidth, tyCount, ty64]

/-- The elements of a packed result are those computed, each in its width. -/
theorem elem_perElem (t : Nat) (f : Nat → Nat × W32) {e : Nat} (he : e < tyCount t) :
    elem t ((perElem t f).1 % 2 ^ (if ty64 t then 64 else 32)) e = (f e).1 % 2 ^ tyWidth t := by
  have hfit : (perElem t f).1 < 2 ^ (if ty64 t then 64 else 32) :=
    (packElems_lt t _).trans_le (Nat.pow_le_pow_right two_pos (by simpa using tyWidth_mul_tyCount t))
  rw [Nat.mod_eq_of_lt hfit, perElem, elem_packElems t _ e 0 (by simpa using he)]
  simp [he]

end Sys2Proof.Proofs
end

section
/-! The flags that the float operations and conversions can set (R56): those of conditions alone. -/

namespace Sys2Proof.Proofs

open Sys2Proof Sys2Proof.Machine Sys2Proof.Claims

/-- Flags of conditions: the fields of `FLAGS` that R56 defines. -/
def Conditions (fl : W32) : Prop := fl &&& ~~~0x1F1F#32 = 0

@[simp] theorem conditions_zero : Conditions 0#32 := by unfold Conditions; decide
@[simp] theorem conditions_flIV : Conditions flIV := by unfold Conditions; decide
@[simp] theorem conditions_flDZ : Conditions flDZ := by unfold Conditions; decide
@[simp] theorem conditions_flOF : Conditions flOF := by unfold Conditions; decide
@[simp] theorem conditions_flUF : Conditions flUF := by unfold Conditions; decide
@[simp] theorem conditions_flNX : Conditions flNX := by unfold Conditions; decide
@[simp] theorem conditions_flI4R : Conditions flI4R := by unfold Conditions; decide
@[simp] theorem conditions_flISAT : Conditions flISAT := by unfold Conditions; decide
@[simp] theorem conditions_flFMT : Conditions flFMT := by unfold Conditions; decide

@[simp] theorem conditions_or {a b : W32} (ha : Conditions a) (hb : Conditions b) : Conditions (a ||| b) :=
  or_and_not_eq_zero ha hb

@[simp] theorem conditions_flIf (b : Bool) {fl : W32} (h : Conditions fl) : Conditions (flIf b fl) := by
  cases b
  · exact conditions_zero
  · exact h

/-! ## Arithmetic -/

@[simp] theorem conditions_finish (f : Fmt) (rm : Rm) (ftz n : Bool) (m : Nat) (e : Int) (st : Bool) :
    Conditions (finish f rm ftz n m e st).2 := by
  fun_cases finish f rm ftz n m e st <;> simp

@[simp] theorem conditions_finishInt (f : Fmt) (rm : Rm) (ftz : Bool) (y e : Int) (z : Bool) :
    Conditions (finishInt f rm ftz y e z).2 := by
  fun_cases finishInt f rm ftz y e z <;> simp

variable (f : Fmt) (rm : Rm) (ftz : Bool) (a b c : Fl)

@[simp] theorem conditions_flAdd : Conditions (flAdd f rm ftz a b).2 := by
  fun_cases flAdd f rm ftz a b <;> simp

@[simp] theorem conditions_flMul : Conditions (flMul f rm ftz a b).2 := by
  fun_cases flMul f rm ftz a b <;> simp

@[simp] theorem conditions_flFma : Conditions (flFma f rm ftz a b c).2 := by
  fun_cases flFma f rm ftz a b c <;> simp

@[simp] theorem conditions_fmaBy (leg : Bool) : Conditions (fmaBy leg f rm ftz a b c).2 := by
  unfold fmaBy
  split <;> simp

@[simp] theorem conditions_flDiv : Conditions (flDiv f rm ftz a b).2 := by
  fun_cases flDiv f rm ftz a b <;> simp

@[simp] theorem conditions_flSqrt : Conditions (flSqrt f rm ftz a).2 := by
  fun_cases flSqrt f rm ftz a <;> simp

@[simp] theorem conditions_flRsqrt : Conditions (flRsqrt f rm ftz a).2 := by
  fun_cases flRsqrt f rm ftz a <;> simp

@[simp] theorem conditions_flExp2 : Conditions (flExp2 f rm ftz a).2 := by
  fun_cases flExp2 f rm ftz a <;> simp

@[simp] theorem conditions_flLog2 : Conditions (flLog2 f rm ftz a).2 := by
  fun_cases flLog2 f rm ftz a <;> simp

@[simp] theorem conditions_flMinMax (mx leg : Bool) (ca cb : Nat) :
    Conditions (flMinMax f mx leg ca cb a b).2 := by
  fun_cases flMinMax f mx leg ca cb a b <;> exact conditions_flIf _ conditions_flIV

/-! ## Conversion -/

@[simp] theorem conditions_toFloat (code : Nat) (sat : Bool) : Conditions (toFloat code rm sat a).2 := by
  fun_cases toFloat code rm sat a <;> simp

@[simp] theorem conditions_toInt (code : Nat) (sat : Bool) : Conditions (toInt code rm sat a).2 := by
  have hclamp : Conditions (if sat then flISAT else if code = 0 then flISAT ||| flIV else flIV) := by
    split_ifs <;> simp
  fun_cases toInt code rm sat a
  · exact conditions_flIV
  · exact hclamp
  · exact hclamp
  · exact conditions_flIf _ conditions_flNX

@[simp] theorem conditions_intVal (code bits : Nat) : Conditions (intVal code bits).2 := by
  fun_cases intVal code bits <;> simp

@[simp] theorem conditions_intToInt (code : Nat) (sat : Bool) (x : Int) : Conditions (intToInt code sat x).2 := by
  fun_cases intToInt code sat x <;> simp

@[simp] theorem conditions_readFmt (code bits : Nat) : Conditions (readFmt code bits).2 := by
  unfold readFmt
  split_ifs <;> simp

@[simp] theorem conditions_triadRead (x : Nat) : Conditions (triadRead x).2 := by simp [triadRead]

@[simp] theorem conditions_convert (dst src : Nat) (sat : Bool) (bits : Nat) :
    Conditions (convert dst src rm sat bits).2 := by
  unfold convert
  split_ifs <;> simp

theorem conditions_perElem (t : Nat) {g : Nat → Nat × W32} (h : ∀ e, Conditions (g e).2) :
    Conditions (perElem t g).2 := by
  have gen : ∀ (es : List Nat) (acc : W32), Conditions acc →
      Conditions ((es.map g).foldl (fun acc r => acc ||| r.2) acc) := by
    intro es
    induction es with
    | nil => exact fun _ h => h
    | cons e es ih => exact fun acc hacc => ih _ (conditions_or hacc (h e))
  exact gen _ 0 conditions_zero

end Sys2Proof.Proofs
end

section
/-! Float instructions and `CVT` (R57-R63, R166-R172). -/

namespace Sys2Proof.Proofs

open Sys2Proof Sys2Proof.Machine Sys2Proof.Claims

/-! ## The element that each float instruction computes -/

/-- The code and the flags of element e of a cell's result (R166-R169). -/
def floatElem (i : Instr) (o : WOp) (w : Wave) (c : Machine.Cell) (e : Nat) : Nat × W32 :=
  let f := tyFmt o.ty
  let rm := rmSel w.regs.mode o.rnd
  let ftz := flushes o.ty (modeFtz w.regs.mode)
  let a := flOpnd o w (w.opA o c) e
  let b := flOpnd o w (w.opB o c) e
  match i with
  | .fadd _ => flAdd f rm ftz a b
  | .fsub _ => flAdd f rm ftz a b.negate
  | .fmul _ => flMul f rm ftz a b
  | .ffma _ => fmaBy (modeLegFma w.regs.mode) f rm ftz a b (flOpnd o w (w.opC o c) e)
  | .fmin _ => minMaxElem o.ty w.regs.mode false (elem o.ty (w.opA o c) e) (elem o.ty (w.opB o c) e)
  | .fmax _ => minMaxElem o.ty w.regs.mode true (elem o.ty (w.opA o c) e) (elem o.ty (w.opB o c) e)
  | .frcp _ => flDiv f rm ftz (.fin false 1 0) a
  | .frsq _ => flRsqrt f rm ftz a
  | .fsqrt _ => flSqrt f rm ftz a
  | .fdiv _ => flDiv f rm ftz a b
  | .fexp2 _ => flExp2 f rm ftz a
  | .flog2 _ => flLog2 f rm ftz a
  | .fneg _ => (elem o.ty (w.opA o c) e ^^^ 2 ^ (tyWidth o.ty - 1), 0)
  | .fabs _ =>
    let x := elem o.ty (w.opA o c) e
    (if (decFl f x).isNan then f.nan else x % 2 ^ (tyWidth o.ty - 1), 0)
  | _ => (0, 0)

theorem exec_floatOp {mk : WOp → Instr} (hmk : mk ∈ floatOps) (o : WOp) (s : State) :
    exec (mk o) s = runAlu o s (fun w c => perElem o.ty (floatElem (mk o) o w c)) := by
  unfold floatOps at hmk
  fin_cases hmk <;> rfl

theorem conditions_floatElem (i : Instr) (o : WOp) (w : Wave) (c : Machine.Cell) (e : Nat) :
    Conditions (floatElem i o w c e).2 := by
  fun_cases floatElem i o w c e <;> simp [minMaxElem]

/-- A float instruction with no exception enabled retires with its elements in D. -/
theorem floatOp_retires {mk : WOp → Instr} (hmk : mk ∈ floatOps) {o : WOp} {s : State} {k : Nat} {w : Wave}
    (hat : At s k w) (hnone : noneEnabled w) :
    ∃ w', Retires (mk o) o s k w w' (ty64 o.ty) 0x1F1F ∧ ∀ c ∈ w.cells o, ∀ e < tyCount o.ty,
      elem o.ty (w'.reg c (ty64 o.ty) o.d.toNat) e = (floatElem (mk o) o w c e).1 % 2 ^ tyWidth o.ty := by
  refine ⟨_, retires_of_runCells hat hnone (exec_floatOp hmk o s)
    fun c _ => conditions_perElem o.ty (conditions_floatElem _ o w c), fun c hc e he => ?_⟩
  rw [writeCells_reg w o _ _ _ _ w c hc, elem_perElem o.ty _ he]

/-- `CVT` with no exception enabled retires with D alone written. -/
theorem cvt_retires {o : WOp} {s : State} {k : Nat} {w : Wave} (hat : At s k w) (hnone : noneEnabled w) :
    ∃ w', Retires (.cvt o) o s k w w' (decide (fmtW (cvtDst o) = 64)) 0x1F1F :=
  ⟨_, retires_of_runCells (f := fun w c =>
      let src := w.reg c (fmtW (cvtSrc o) = 64) o.a.toNat
      let (x, fl) := convert (cvtDst o) (cvtSrc o) (cvtRm o w.regs.mode) (o.fn.getLsbD 3) src
      (cvtPlace (cvtDst o) x, fl)) hat hnone rfl fun _ _ => conditions_convert _ _ _ _ _⟩

/-! ## Formats and operands of a float TYPE -/

theorem tyFmt_width {t : Nat} (h1 : 8 ≤ t) (h2 : t ≤ 11) : (tyFmt t).width = tyWidth t := by
  interval_cases t <;> rfl

theorem tyFmt_fb_lt (t : Nat) : (tyFmt t).fb < 64 := by
  unfold tyFmt
  split <;> decide

theorem tyFmt_nan_lt {t : Nat} (h1 : 8 ≤ t) (h2 : t ≤ 11) : (tyFmt t).nan < 2 ^ tyWidth t := by
  interval_cases t <;> decide

theorem elem_lt (t x e : Nat) : elem t x e < 2 ^ tyWidth t := Nat.mod_lt _ (Nat.two_pow_pos _)

/-- A code that `FTZ` leaves is left for every TYPE. -/
theorem kept_of_ftz (t : Nat) {ftz : Bool} {f : Fmt} {x : Nat} (h : ftz = false ∨ isSubnormal f x = false) :
    flushes t ftz = false ∨ isSubnormal f x = false := h.imp_left fun hz => by simp [flushes, hz]

/-- A finite operand has the bits of its format. -/
theorem flOpnd_mant_lt {o : WOp} {w : Wave} {x e m : Nat} {n : Bool} {q : Int}
    (h : flOpnd o w x e = .fin n m q) : m < 2 ^ 64 := by
  unfold flOpnd flElem readFl at h
  split at h
  · next hdec =>
    have hm := (finCode_of_decFl hdec).mant.trans_le (Nat.pow_le_pow_right two_pos (tyFmt_fb_lt o.ty))
    split at h
    · injection h with _ hz
      rw [← hz]; exact Nat.two_pow_pos 64
    · injection h with _ hz
      rwa [← hz]
  · next hfin => exact absurd h (hfin n m q)

/-- A NaN element is read as a NaN, whatever `DAZ` says. -/
theorem flOpnd_isNan {o : WOp} {x e : Nat} (h : nanAt o x e) (w : Wave) : (flOpnd o w x e).isNan = true := by
  unfold nanAt at h
  unfold flOpnd flElem readFl
  split
  · next hdec => rw [hdec] at h; cases h
  · exact h

/-! ## Exact results (R58, R62, R166, R168) -/

/-- A quotient, reciprocal, sum, difference, product or fused sum that the format holds is the element's code. -/
theorem floatElem_exact {i : Instr} {o : WOp} {w : Wave} {c : Machine.Cell} {e x : Nat}
    (hi : i ∈ [Instr.fadd o, .fsub o, .fmul o, .ffma o, .fdiv o, .frcp o])
    (hfma : modeLegFma w.regs.mode = false)
    (hfin : floatFinite i (flOpnd o w (w.opA o c) e) (flOpnd o w (w.opB o c) e) (flOpnd o w (w.opC o c) e))
    (h : HoldsValue (tyFmt o.ty) (flushes o.ty (modeFtz w.regs.mode)) x (floatExact i (flQ (flOpnd o w (w.opA o c) e))
      (flQ (flOpnd o w (w.opB o c) e)) (flQ (flOpnd o w (w.opC o c) e)))) :
    (floatElem i o w c e).1 = x := by
  simp only [List.mem_cons, List.not_mem_nil, or_false] at hi
  obtain rfl | rfl | rfl | rfl | rfl | rfl := hi
  · exact flAdd_exact hfin.1 hfin.2 h _
  · refine flAdd_exact hfin.1 (isFin_negate.2 hfin.2) ?_ _
    rw [flQ_negate, ← sub_eq_add_neg]
    exact h
  · exact flMul_exact hfin.1 hfin.2 h _
  · obtain ⟨ha, hb, hc⟩ := hfin
    simp only [floatElem, fmaBy, hfma, Bool.false_eq_true, if_false]
    exact flFma_exact ha hb hc h _
  · obtain ⟨n, m, q, hb⟩ := isFin_iff.1 hfin.2
    simp only [floatElem, hb]
    exact flDiv_exact (tyFmt_fb_lt _) hfin.1 (flOpnd_mant_lt hb) (hb ▸ h) _
  · obtain ⟨n, m, q, ha⟩ := isFin_iff.1 hfin
    have hone : flQ (.fin false 1 0) = 1 := by simp [flQ]
    simp only [floatElem, ha]
    refine flDiv_exact (a := .fin false 1 0) (tyFmt_fb_lt _) trivial (flOpnd_mant_lt ha) ?_ _
    rw [hone, ← ha]
    exact h

/-! ## NaN operands (R59, R60) -/

section
variable {f : Fmt} {rm : Rm} {ftz : Bool} {a b c : Fl}

theorem isNan_negate : a.negate.isNan = a.isNan := by cases a <;> rfl

theorem flAdd_of_isNan (h : a.isNan = true ∨ b.isNan = true) : (flAdd f rm ftz a b).1 = f.nan := by
  cases a <;> cases b <;> simp [Fl.isNan] at h <;> rfl

theorem flMul_of_isNan (h : a.isNan = true ∨ b.isNan = true) : (flMul f rm ftz a b).1 = f.nan := by
  cases a <;> cases b <;> simp [Fl.isNan] at h <;> rfl

theorem flDiv_of_isNan (h : a.isNan = true ∨ b.isNan = true) : (flDiv f rm ftz a b).1 = f.nan := by
  cases a <;> cases b <;> simp [Fl.isNan] at h <;> rfl

theorem flFma_of_isNan (h : a.isNan = true ∨ b.isNan = true ∨ c.isNan = true) :
    (flFma f rm ftz a b c).1 = f.nan := by
  have hany : (a.isNan || b.isNan || c.isNan) = true := by simpa [or_assoc] using h
  simp only [flFma, hany, if_true, apply_ite Prod.fst, ite_self]

theorem isNan_decFl_nan_of_tyFmt (t : Nat) : (decFl (tyFmt t) (tyFmt t).nan).isNan = true := by
  unfold tyFmt
  split <;> decide

theorem fmaBy_of_isNan {t : Nat} (leg : Bool) (h : a.isNan = true ∨ b.isNan = true ∨ c.isNan = true) :
    (fmaBy leg (tyFmt t) rm ftz a b c).1 = (tyFmt t).nan := by
  unfold fmaBy
  split
  · refine flAdd_of_isNan ?_
    rcases h with ha | hb | hc
    · exact .inl (by rw [flMul_of_isNan (.inl ha)]; exact isNan_decFl_nan_of_tyFmt t)
    · exact .inl (by rw [flMul_of_isNan (.inr hb)]; exact isNan_decFl_nan_of_tyFmt t)
    · exact .inr hc
  · exact flFma_of_isNan h

end

/-- A function of one operand gives the canonical NaN of a NaN. -/
theorem floatElem_unary_nan {mk : WOp → Instr} {o : WOp} {w : Wave} {c : Machine.Cell} {e : Nat}
    (hmk : mk ∈ ([.frcp, .frsq, .fsqrt, .fexp2, .flog2] : List (WOp → Instr))) (h : nanAt o (w.opA o c) e) :
    (floatElem (mk o) o w c e).1 = (tyFmt o.ty).nan := by
  have ha := flOpnd_isNan h w
  cases hq : flOpnd o w (w.opA o c) e with
  | nan s => fin_cases hmk <;> simp only [floatElem, hq] <;> rfl
  | _ => rw [hq] at ha; cases ha

/-- A sum, difference, product or quotient with a NaN is the canonical NaN. -/
theorem floatElem_binary_nan {mk : WOp → Instr} {o : WOp} {w : Wave} {c : Machine.Cell} {e : Nat}
    (hmk : mk ∈ ([.fadd, .fsub, .fmul, .fdiv] : List (WOp → Instr)))
    (h : nanAt o (w.opA o c) e ∨ nanAt o (w.opB o c) e) : (floatElem (mk o) o w c e).1 = (tyFmt o.ty).nan := by
  have hnan := h.imp (flOpnd_isNan · w) (flOpnd_isNan · w)
  fin_cases hmk
  · exact flAdd_of_isNan hnan
  · exact flAdd_of_isNan (by rwa [isNan_negate])
  · exact flMul_of_isNan hnan
  · exact flDiv_of_isNan hnan

/-! ## Minimum and maximum (R60) -/

/-- A code with an exponent field of zero is finite. -/
theorem isNan_of_exponent_zero {f : Fmt} {x : Nat} (heb : 0 < f.eb) (h : x / 2 ^ f.fb % 2 ^ f.eb = 0) :
    (decFl f x).isNan = false := by
  have htop : ¬ (0 = 2 ^ f.eb - 1) := by have := Nat.one_lt_two_pow heb.ne'; omega
  unfold decFl
  simp [h, htop, Fl.isNan]

theorem isNan_of_isSubnormal {f : Fmt} {x : Nat} (heb : 0 < f.eb) (h : isSubnormal f x = true) :
    (decFl f x).isNan = false := by
  simp only [isSubnormal, Bool.and_eq_true, decide_eq_true_eq] at h
  exact isNan_of_exponent_zero heb h.1

/-- A code is a NaN as it is read under `DAZ` just when it is one. -/
theorem isNan_dazCode {f : Fmt} (heb : 0 < f.eb) (daz : Bool) (x : Nat) :
    (decFl f (dazCode f daz x)).isNan = (decFl f x).isNan := by
  unfold dazCode
  split
  · next h =>
    rw [isNan_of_isSubnormal heb (Bool.and_eq_true_iff.1 h).2]
    refine isNan_of_exponent_zero heb ?_
    rw [show f.width - 1 = f.fb + f.eb by unfold Fmt.width; omega, pow_add, ← mul_assoc,
      mul_right_comm, Nat.mul_div_cancel _ (Nat.two_pow_pos _), Nat.mul_mod_left]
  · rfl

theorem dazCode_le (f : Fmt) (daz : Bool) (x : Nat) : dazCode f daz x ≤ x := by
  unfold dazCode
  split
  · exact Nat.div_mul_le_self _ _
  · exact le_rfl

theorem tyFmt_eb_pos (t : Nat) : 0 < (tyFmt t).eb := by
  unfold tyFmt
  split <;> decide

/-- `FMIN` and `FMAX` are `minMaxElem` of each element. -/
theorem floatElem_minMax {mk : WOp → Instr} (hmk : mk ∈ ([.fmin, .fmax] : List (WOp → Instr))) :
    ∃ mx, ∀ o w c e, floatElem (mk o) o w c e
      = minMaxElem o.ty w.regs.mode mx (elem o.ty (w.opA o c) e) (elem o.ty (w.opB o c) e) := by
  fin_cases hmk
  · exact ⟨false, fun _ _ _ _ => rfl⟩
  · exact ⟨true, fun _ _ _ _ => rfl⟩

section
variable {t : Nat} {md : W32} {mx : Bool} {x y : Nat}

/-- Under `LEGMM` a NaN of either operand is the result. -/
theorem minMaxElem_legacy_nan (hleg : modeLegMm md = true)
    (h : (decFl (tyFmt t) x).isNan = true ∨ (decFl (tyFmt t) y).isNan = true) :
    (minMaxElem t md mx x y).1 = (tyFmt t).nan := by
  simp only [minMaxElem, flMinMax, hleg, isNan_dazCode (tyFmt_eb_pos t), Bool.or_eq_true, h, if_true]

/-- Of a NaN and another operand the other one is the result. -/
theorem minMaxElem_nan_left (hleg : modeLegMm md = false) (hx : (decFl (tyFmt t) x).isNan = true)
    (hy : ¬ (decFl (tyFmt t) y).isNan = true) :
    (minMaxElem t md mx x y).1 = dazCode (tyFmt t) (flushes t (modeDaz md)) y := by
  simp [minMaxElem, flMinMax, hleg, isNan_dazCode (tyFmt_eb_pos t), hx, hy]

theorem minMaxElem_nan_right (hleg : modeLegMm md = false) (hx : ¬ (decFl (tyFmt t) x).isNan = true)
    (hy : (decFl (tyFmt t) y).isNan = true) :
    (minMaxElem t md mx x y).1 = dazCode (tyFmt t) (flushes t (modeDaz md)) x := by
  simp [minMaxElem, flMinMax, hleg, isNan_dazCode (tyFmt_eb_pos t), hx, hy]

theorem minMaxElem_nan_both (hleg : modeLegMm md = false) (hx : (decFl (tyFmt t) x).isNan = true)
    (hy : (decFl (tyFmt t) y).isNan = true) : (minMaxElem t md mx x y).1 = (tyFmt t).nan := by
  simp [minMaxElem, flMinMax, hleg, isNan_dazCode (tyFmt_eb_pos t), hx, hy]

end

/-! ## The clauses on NaNs -/

section
variable {mk : WOp → Instr} {o : WOp} {s : State} {k : Nat} {w : Wave}

/-- Elements that are the canonical NaN wherever a condition on operands holds. -/
theorem floatOp_nan {p : Machine.Cell → Nat → Prop} (hmk : mk ∈ floatOps) (hat : At s k w) (hnone : noneEnabled w)
    (h8 : 8 ≤ o.ty) (h11 : o.ty ≤ 11)
    (hp : ∀ c e, p c e → (floatElem (mk o) o w c e).1 = (tyFmt o.ty).nan) :
    ∃ w', exec (mk o) s = .next (s.retire k w' o.len) ∧ ∀ c ∈ w.cells o, ∀ e < tyCount o.ty, p c e →
      elem o.ty (w'.reg c (ty64 o.ty) o.d.toNat) e = (tyFmt o.ty).nan := by
  obtain ⟨w', hret, helem⟩ := floatOp_retires hmk hat hnone
  exact ⟨w', hret.1, fun c hc e he h => by rw [helem c hc e he, hp c e h, Nat.mod_eq_of_lt (tyFmt_nan_lt h8 h11)]⟩

theorem minMax_nan (hmk : mk ∈ ([.fmin, .fmax] : List (WOp → Instr))) (hat : At s k w) (hnone : noneEnabled w)
    (h8 : 8 ≤ o.ty) (h11 : o.ty ≤ 11) (hleg : modeLegMm w.regs.mode = false) :
    ∃ w', exec (mk o) s = .next (s.retire k w' o.len) ∧ ∀ c ∈ w.cells o, ∀ e < tyCount o.ty,
      (nanAt o (w.opA o c) e → ¬ nanAt o (w.opB o c) e → elem o.ty (w'.reg c (ty64 o.ty) o.d.toNat) e =
        dazCode (tyFmt o.ty) (flushes o.ty (modeDaz w.regs.mode)) (elem o.ty (w.opB o c) e))
      ∧ (¬ nanAt o (w.opA o c) e → nanAt o (w.opB o c) e → elem o.ty (w'.reg c (ty64 o.ty) o.d.toNat) e =
        dazCode (tyFmt o.ty) (flushes o.ty (modeDaz w.regs.mode)) (elem o.ty (w.opA o c) e))
      ∧ (nanAt o (w.opA o c) e → nanAt o (w.opB o c) e →
        elem o.ty (w'.reg c (ty64 o.ty) o.d.toNat) e = (tyFmt o.ty).nan) := by
  have hfloat : mk ∈ floatOps := by fin_cases hmk <;> simp [floatOps]
  obtain ⟨w', hret, helem⟩ := floatOp_retires hfloat hat hnone
  obtain ⟨mx, hmx⟩ := floatElem_minMax hmk
  have hdaz : ∀ x e, dazCode (tyFmt o.ty) (flushes o.ty (modeDaz w.regs.mode)) (elem o.ty x e) < 2 ^ tyWidth o.ty :=
    fun x e => (dazCode_le _ _ _).trans_lt (elem_lt _ _ _)
  refine ⟨w', hret.1, fun c hc e he => ?_⟩
  rw [helem c hc e he, hmx]
  refine ⟨fun ha hb => ?_, fun ha hb => ?_, fun ha hb => ?_⟩
  · rw [minMaxElem_nan_left hleg ha hb, Nat.mod_eq_of_lt (hdaz _ _)]
  · rw [minMaxElem_nan_right hleg ha hb, Nat.mod_eq_of_lt (hdaz _ _)]
  · rw [minMaxElem_nan_both hleg ha hb, Nat.mod_eq_of_lt (tyFmt_nan_lt h8 h11)]

end

/-- Settles O7: every float instruction is `floatElem` of each element; an exact result keeps its code through
`roundFmt`, and a NaN operand decides the result before any rounding. -/
theorem floatResults : Obligations.FloatResults := by
  refine ⟨fun o s k w hat hnone => ⟨fun mk hmk => ?_, cvt_retires hat hnone⟩,
    fun o s k w hat hnone h8 h11 => ?_⟩
  · obtain ⟨w', hret, helem⟩ := floatOp_retires hmk hat hnone
    refine ⟨w', hret, ?_, ?_⟩
    · intro hmem h8 h11 hfma c hc e he x hx a b cc hfin hxfin hx0 hval hkept
      have hfits : x < 2 ^ (tyFmt o.ty).width := by rwa [tyFmt_width h8 h11]
      rw [helem c hc e he, floatElem_exact hmem hfma hfin ⟨hfits, hxfin, hval, hval ▸ hx0, kept_of_ftz _ hkept⟩,
        Nat.mod_eq_of_lt hx]
    · intro hroot h8 h9 c hc x hx a hfin hxfin hpos hsq hkept
      have hfits : x < 2 ^ (tyFmt o.ty).width := by rwa [tyFmt_width h8 (by omega)]
      have hone : 0 < tyCount o.ty := by interval_cases o.ty <;> decide
      have hsqrt : (floatElem (.fsqrt o) o w c 0).1 = x :=
        flSqrt_exact (tyFmt_fb_lt _) hfin hsq hpos ⟨hfits, hxfin, rfl, hpos.ne', kept_of_ftz _ hkept⟩ _
      rw [helem c hc 0 hone, hroot, hsqrt, Nat.mod_eq_of_lt hx]
  · refine ⟨fun mk hmk => ?_, ?_, fun mk hmk => ?_, fun mk hmk hleg => ?_, fun mk hmk hleg => ?_⟩
    · exact floatOp_nan (by fin_cases hmk <;> simp [floatOps]) hat hnone h8 h11 fun c e => floatElem_binary_nan hmk
    · exact floatOp_nan (by simp [floatOps]) hat hnone h8 h11 fun c e h =>
        fmaBy_of_isNan _ (h.imp (flOpnd_isNan · w) (Or.imp (flOpnd_isNan · w) (flOpnd_isNan · w)))
    · exact floatOp_nan (by fin_cases hmk <;> simp [floatOps]) hat hnone h8 h11 fun c e => floatElem_unary_nan hmk
    · exact minMax_nan hmk hat hnone h8 h11 hleg
    · obtain ⟨mx, hmx⟩ := floatElem_minMax hmk
      exact floatOp_nan (by fin_cases hmk <;> simp [floatOps]) hat hnone h8 h11 fun c e h => by
        rw [hmx, minMaxElem_legacy_nan hleg h]

end Sys2Proof.Proofs
end

section
/-! The array's step (R229, R237, R238): what it does to tiles, panels and scratch is its instruction's effect. -/

namespace Sys2Proof.Proofs

open Sys2Proof Sys2Proof.Machine Sys2Proof.Claims

/-- `t` has the tiles, the panels and the gangs of `s`. -/
structure SameTiles (s t : State) : Prop where
  z : ∀ d, (t.core d).z = (s.core d).z
  panel : ∀ d, (t.core d).panel = (s.core d).panel
  gangs : t.gangs = s.gangs

namespace SameTiles

theorem refl (s : State) : SameTiles s s := ⟨fun _ => rfl, fun _ => rfl, rfl⟩

theorem trans {s t u : State} (h1 : SameTiles s t) (h2 : SameTiles t u) : SameTiles s u :=
  ⟨fun d => (h2.z d).trans (h1.z d), fun d => (h2.panel d).trans (h1.panel d), h2.gangs.trans h1.gangs⟩

theorem modCore (s : State) (c : Nat) {f : Core → Core} (hz : ∀ x, (f x).z = x.z)
    (hp : ∀ x, (f x).panel = x.panel) : SameTiles s (s.modCore c f) := by
  refine ⟨fun d => ?_, fun d => ?_, rfl⟩ <;> rw [State.modCore, core_setCore] <;> split
  · next h => rw [hz, h]
  · rfl
  · next h => rw [hp, h]
  · rfl

theorem modWave (s : State) (k : Nat) (f : Wave → Wave) : SameTiles s (s.modWave k f) := by
  unfold State.modWave
  split <;> exact ⟨fun _ => rfl, fun _ => rfl, rfl⟩

theorem passClaim (s : State) (c : Nat) : SameTiles s (s.passClaim c) := by
  unfold State.passClaim State.reissue
  split
  · refine trans ?_ (modWave _ _ _)
    exact modCore s c (fun _ => rfl) (fun _ => rfl)
  · exact modCore s c (fun _ => rfl) (fun _ => rfl)

theorem freeClaim (s : State) (c k : Nat) : SameTiles s (s.freeClaim c k) := by
  unfold State.freeClaim
  split
  · exact passClaim s c
  · exact refl s

end SameTiles

/-- Past its effect, an instruction's end at the array moves queues, flags and claims alone (R229). -/
theorem sameTiles_matRun (s : State) (c : Nat) (j : MatJob) (o : WOp) :
    SameTiles (s.matEffect o j).1 (s.matRun c j o) := by
  have hdone : SameTiles (s.matEffect o j).1 ((s.matEffect o j).1.modCore c
      (fun x => { x with matq := x.matq.drop 1, lastMat := x.cycle })) :=
    .modCore _ _ (fun _ => rfl) (fun _ => rfl)
  have hpair := fun (q : State) => SameTiles.modCore q (c + 1) (f := fun x => { x with lastMat := x.cycle })
    (fun _ => rfl) (fun _ => rfl)
  have hfree := fun (q : State) k => (SameTiles.freeClaim q c k).trans (SameTiles.freeClaim _ (c + 1) k)
  unfold State.matRun
  extract_lets r s1 s2 s3
  have hs2 : SameTiles r.1 s2 := by
    unfold s2
    split
    · exact hdone.trans (hpair s1)
    · exact hdone
  have hs3 : SameTiles s2 s3 := .modWave _ _ _
  split
  · split
    · exact (hs2.trans hs3).trans (hfree _ _)
    · exact hs2.trans hs3
  · split
    · exact hs2
    · exact hs2.trans (hfree _ _)

/-- A matrix instruction that the array may start executes. -/
theorem exec_atArray {s : State} {c : Nat} {j : MatJob} {rest : List MatJob} {o : WOp} {i : Instr} {op : BitVec 8}
    (h : AtArray s c j rest o i) (hi : i.wave? = some (op, o)) :
    exec (.matrixArrayExecute c) s = .next ((s.chainCount c).matRun c j o) := by
  have hpair : (matPair o && !s.islandOn (arrayIsland (c + 1))) = false
      ∧ (matPair o && (s.core (c + 1)).fgated) = false := by
    cases hm : matPair o
    · exact ⟨rfl, rfl⟩
    · simp [h.pairOn hm, h.pairAwake hm]
  change execMatrixArrayExecute c s = _
  unfold execMatrixArrayExecute
  simp only [h.head, h.op, hi, h.on, h.awake, h.token, hpair]
  rfl

/-! ## The effects on one core, without `.pair` (R232-R234) -/

section
variable {s : State} {c : Nat} {j : MatJob} {rest : List MatJob} {o : WOp}

/-- Column n as `MLDB` loads it (R232). -/
def loadedCol (s : State) (j : MatJob) (n : Nat) : PanelCol :=
  let blk := j.blk.toNat
  (alignVec (fld blk 8 4) (fld blk 12 2)
    (elemCodes (fld blk 8 4) (s.scr j.gang (j.ga.toNat % 2 ^ 32 + n * fld j.gc.toNat 0 32)
      (fmtBytes (fld blk 8 4) 128)))
    (s.scalesOf j.gang (fld blk 128 64) (fld blk 12 2) n)).1

/-- Row i as `MMA` reads it (R233). -/
def rowOfA (s : State) (o : WOp) (j : MatJob) (i : Nat) : PanelCol :=
  let blk := j.blk.toNat
  (alignVec (fld blk 0 4) (fld blk 4 2)
    (s.rowCodes j.gang o (fld blk 0 4) (j.ga.toNat % 2 ^ 32 + i * fld j.gc.toNat 0 32) i)
    (s.scalesOf j.gang (fld blk 64 64) (fld blk 4 2) i)).1

theorem exec_mldb (h : AtArray s c j rest o (.mldb o)) (hpair : o.m.getLsbD 0 = false) :
    ∃ t, exec (.matrixArrayExecute c) s = .next t ∧ (t.core c).panel = panelOf j.blk.toNat
      (((List.range (fld j.gc.toNat 32 11)).map (loadedCol s j)).take 512) := by
  refine ⟨_, exec_atArray h rfl, ?_⟩
  rw [(sameTiles_matRun _ c j o).panel]
  have heff : (s.chainCount c).matEffect o j = (s.chainCount c).doMldb j.gang o j := by
    unfold State.matEffect; rw [h.op]
  rw [heff]
  simp only [State.doMldb, matPair, hpair, Bool.false_eq_true, if_false, h.here, core_modCore_self, List.map_map]
  rfl

theorem exec_mma (h : AtArray s c j rest o (.mma o)) (hpair : o.m.getLsbD 0 = false) :
    ∃ t, exec (.matrixArrayExecute c) s = .next t ∧ (t.core c).z =
      (((s.core c).doMma (o.d.toNat % 2) (fld j.blk.toNat 0 4) (fld j.blk.toNat 4 2) (fld j.blk.toNat 64 64 != 0)
        ((List.range (fld j.gc.toNat 32 7)).map (rowOfA s o j))).1).z := by
  refine ⟨_, exec_atArray h rfl, ?_⟩
  rw [(sameTiles_matRun _ c j o).z]
  have heff : (s.chainCount c).matEffect o j = (s.chainCount c).doMma j.gang o j := by
    unfold State.matEffect; rw [h.op]
  rw [heff]
  simp only [State.doMma, matPair, hpair, Bool.false_eq_true, if_false, h.here, core_setCore, if_true, List.map_map]
  rfl

end

end Sys2Proof.Proofs
end

section
/-! Tiles as sparse maps, and `MMA` of operands of one limb in blocks of 128 (R69-R71, R233). -/

namespace Sys2Proof.Proofs

open Sys2Proof Sys2Proof.Machine Sys2Proof.Claims

/-! ## Rising maps -/

theorem rising_cons {α : Type} {a : Nat} {x : α} {t : Map α} :
    rising ((a, x) :: t) ↔ (∀ p ∈ t, a < p.1) ∧ rising t := by
  simp [rising, List.pairwise_cons]

theorem find_eq_none_of_lt {α : Type} {m : Map α} {k : Nat} (h : ∀ p ∈ m, k < p.1) : m.find k = none := by
  induction m with
  | nil => rfl
  | cons p t ih =>
    have hne : p.1 ≠ k := (h p List.mem_cons_self).ne'
    rw [Map.find, if_neg hne]
    exact ih fun q hq => h q (List.mem_cons_of_mem _ hq)

theorem find_of_mem {α : Type} {m : Map α} {k : Nat} {x : α} (h : rising m) (hm : (k, x) ∈ m) :
    m.find k = some x := by
  induction m with
  | nil => cases hm
  | cons p t ih =>
    obtain ⟨hlt, ht⟩ := rising_cons.1 h
    rw [Map.find]
    rcases List.mem_cons.1 hm with rfl | hm
    · rw [if_pos rfl]
    · rw [if_neg (hlt _ hm).ne, ih ht hm]

theorem mem_of_find {α : Type} {m : Map α} {k : Nat} {x : α} (h : m.find k = some x) : (k, x) ∈ m := by
  induction m with
  | nil => cases h
  | cons p t ih =>
    rw [Map.find] at h
    split at h
    · next hk => cases h; exact hk ▸ List.mem_cons_self
    · exact List.mem_cons_of_mem _ (ih h)

theorem getD_cons {α : Type} (a : Nat) (x d : α) (t : Map α) (k : Nat) :
    Map.getD ((a, x) :: t) k d = if a = k then x else Map.getD t k d := by
  simp only [Map.getD, Map.find]
  split <;> rfl

/-! ## Writing rising entries of a tile -/

/-- An entry put before a map without its key, dropped when it is zero. -/
theorem getD_cons_unless_zero {a : Nat} {x : W32} {m : Map W32} (h : m.getD a 0 = 0) (k : Nat) :
    Map.getD (if x = 0 then m else (a, x) :: m) k 0 = if a = k then x else m.getD k 0 := by
  split
  · next hx =>
    split
    · next hk => rw [← hk, h, hx]
    · rfl
  · exact getD_cons a x 0 m k

theorem getD_filter_nonzero {es : Map W32} (h : rising es) (k : Nat) :
    Map.getD (es.filter (fun p => p.2 != 0)) k 0 = es.getD k 0 := by
  induction es generalizing k with
  | nil => rfl
  | cons p t ih =>
    obtain ⟨a, x⟩ := p
    obtain ⟨hlt, ht⟩ := rising_cons.1 h
    have hz : Map.getD (t.filter (fun p => p.2 != 0)) a 0 = 0 := by
      rw [ih ht, Map.getD, find_eq_none_of_lt hlt]; rfl
    rw [getD_cons, ← ih ht k, ← getD_cons_unless_zero hz k, List.filter_cons]
    by_cases hx : x = 0 <;> simp [hx]

/-- A merge reads as the entries where they name a key, and as the map elsewhere. -/
theorem getD_mergeZ {fuel : Nat} {es m : Map W32} (hes : rising es) (hm : rising m)
    (hfuel : es.length + m.length < fuel) (k : Nat) :
    (mergeZ fuel es m).getD k 0 = (es.find k).getD (m.getD k 0) := by
  induction fuel generalizing es m k with
  | zero => exact absurd hfuel (Nat.not_lt_zero _)
  | succ fuel ih =>
    match es, m with
    | [], m => rfl
    | (a, x) :: t, [] => exact getD_filter_nonzero hes k
    | (a, x) :: t, (b, y) :: u =>
      obtain ⟨hat, ht⟩ := rising_cons.1 hes
      obtain ⟨hbu, hu⟩ := rising_cons.1 hm
      simp only [List.length_cons] at hfuel
      have hta : Map.find t a = none := find_eq_none_of_lt hat
      rw [mergeZ, Map.find]
      split
      · next hab =>
        have hrest := fun k => ih (es := t) (m := (b, y) :: u) ht hm (by simp; omega) k
        have hma : Map.getD ((b, y) :: u) a 0 = 0 := by
          rw [getD_cons, if_neg hab.ne', Map.getD, find_eq_none_of_lt fun p hp => hab.trans (hbu p hp)]; rfl
        rw [getD_cons_unless_zero (by rw [hrest, hta]; exact hma), hrest]
        split <;> rfl
      · split
        · next _ hab =>
          subst hab
          have hrest := fun k => ih (es := t) (m := u) ht hu (by omega) k
          have hua : Map.getD u a 0 = 0 := by rw [Map.getD, find_eq_none_of_lt hbu]; rfl
          rw [getD_cons_unless_zero (by rw [hrest, hta]; exact hua), hrest, getD_cons]
          split <;> rfl
        · next hlt hne =>
          have hrest := ih (es := (a, x) :: t) (m := u) hes hu (by simp; omega) k
          rw [getD_cons, hrest, Map.find, getD_cons]
          split
          · next hbk =>
            have htk : Map.find t k = none := find_eq_none_of_lt fun p hp => by have := hat p hp; omega
            rw [if_neg (by omega), htk]; rfl
          · rfl

/-! ## The new elements of a tile -/

/-- How the array accumulates a row of A with its panel (R71). -/
def mmaCfg (x : Core) (fa la : Nat) (scaled : Bool) : MatCfg :=
  ⟨fa, la, x.panel.fmt, x.panel.len, decide (2 < fa) || decide (2 < x.panel.fmt) || scaled || x.panel.scaled⟩

/-- The element entries that `MMA` writes, row by row. -/
def mmaEntries (x : Core) (tile fa la : Nat) (scaled : Bool) (rows : List PanelCol) : Map W32 :=
  rows.zipIdx.flatMap (fun a => x.panel.cols.map (fun b => (zKey tile a.2 b.1,
    (accumAll (mmaCfg x fa la scaled) a.1 b.2 (x.z.getD (zKey tile a.2 b.1) 0)).1)))

theorem doMma_z (x : Core) (tile fa la : Nat) (scaled : Bool) (rows : List PanelCol) :
    (x.doMma tile fa la scaled rows).1.z = (x.setZ (mmaEntries x tile fa la scaled rows)).z := by
  simp only [Core.doMma, List.map_flatMap, List.map_map]
  rfl

theorem rising_mmaEntries {x : Core} (hcols : rising x.panel.cols)
    (h512 : ∀ q : Nat × PanelCol, q ∈ x.panel.cols → q.1 < 512) (tile fa la : Nat) (scaled : Bool)
    (rows : List PanelCol) : rising (mmaEntries x tile fa la scaled rows) := by
  have hidx : rows.zipIdx.Pairwise (fun a b => a.2 < b.2) :=
    List.pairwise_map.1 (by rw [List.zipIdx_map_snd]; exact List.pairwise_lt_range')
  unfold rising mmaEntries
  rw [List.pairwise_map, List.pairwise_flatMap]
  refine ⟨fun a _ => ?_, hidx.imp fun {a b} hab p hp q hq => ?_⟩
  · rw [List.pairwise_map]
    exact (List.pairwise_map.1 hcols).imp fun hlt => by simp only [zKey]; omega
  · obtain ⟨u, hu, rfl⟩ := List.mem_map.1 hp
    obtain ⟨v, hv, rfl⟩ := List.mem_map.1 hq
    have := h512 u hu
    simp only [zKey]
    omega

/-- Element (i, n) of the tile after `MMA`, for a row that it reads and a column of the panel (R233). -/
theorem doMma_getD {x : Core} (hcols : rising x.panel.cols)
    (h512 : ∀ q : Nat × PanelCol, q ∈ x.panel.cols → q.1 < 512) (hz : rising x.z) {tile fa la : Nat}
    {scaled : Bool} {rows : List PanelCol} {i n : Nat} {row col : PanelCol} (hrow : rows[i]? = some row)
    (hcol : x.panel.cols.find n = some col) :
    (x.doMma tile fa la scaled rows).1.z.getD (zKey tile i n) 0
      = (accumAll (mmaCfg x fa la scaled) row col (x.z.getD (zKey tile i n) 0)).1 := by
  have hes := rising_mmaEntries hcols h512 tile fa la scaled rows
  have hmem : (zKey tile i n, (accumAll (mmaCfg x fa la scaled) row col (x.z.getD (zKey tile i n) 0)).1)
      ∈ mmaEntries x tile fa la scaled rows :=
    List.mem_flatMap.2 ⟨(row, i), List.mk_mem_zipIdx_iff_getElem?.2 hrow,
      List.mem_map.2 ⟨(n, col), mem_of_find hcol, rfl⟩⟩
  rw [doMma_z, Core.setZ, getD_mergeZ hes hz (Nat.lt_succ_self _), find_of_mem hes hmem]
  rfl

/-! ## Block sums of one limb (R69-R71) -/

/-- The block sum of 128 products of single limbs. -/
theorem blockSum_eq (a b : List (List Int)) (n : Nat) :
    blockSum a b 0 0 0 n
      = ((List.range n).map (fun k => nth (nth a k []) 0 0 * nth (nth b k []) 0 0)).sum := by
  unfold blockSum
  rw [← List.sum_eq_foldl, List.drop_zero, List.drop_zero]
  induction n generalizing a b with
  | zero => simp
  | succ n ih =>
    rw [List.range_succ_eq_map, List.map_cons, List.sum_cons, List.map_map]
    cases a with
    | nil => simp [nth, Function.comp_def]
    | cons x a =>
      cases b with
      | nil => simp [nth, Function.comp_def]
      | cons y b =>
        rw [List.take_succ_cons, List.take_succ_cons, List.zip_cons_cons, List.map_cons, List.sum_cons, ih]
        rfl

/-- The sum of the products of a row and a column (R70). -/
def dotSum (row col : PanelCol) : Int := ((List.range 128).map (fun k => bElem row k * bElem col k)).sum

/-- With one limb each and blocks of 128, one block sum is added. -/
theorem accumAll_whole {c : MatCfg} (hla : c.la = 2) (hlb : c.lb = 2) (hfa : limbsOf c.fa = 1)
    (hfb : limbsOf c.fb = 1) (a b : PanelCol) (z : W32) :
    (accumAll c a b z).1 = (accum c a b 0 0 0 z).1 := by
  unfold accumAll
  rw [hla, hlb, hfa, hfb]
  rfl

theorem accum_int {c : MatCfg} (hla : c.la = 2) (hlb : c.lb = 2) (hflt : c.flt = false) (a b : PanelCol) (z : W32) :
    (accum c a b 0 0 0 z).1 = BitVec.ofInt 32 (clampTo 0 (z.toInt + dotSum a b)) := by
  have hclamp : ∀ x : Int, clampInt (-2147483648) 2147483647 x = clampTo 0 x := by
    intro x
    simp only [clampInt, clampTo, tyRange, tySigned, tyWidth]
    norm_num
    split_ifs <;> omega
  unfold accum
  simp only [hla, hlb, hflt, Bool.false_eq_true, if_false, hclamp, lt_irrefl, Nat.zero_mul, blockSum_eq]
  rfl

end Sys2Proof.Proofs
end

section
/-! Rows and columns of integer formats (R53, R66, R67), and `MMA` of them (R70, R71, R233). -/

namespace Sys2Proof.Proofs

open Sys2Proof Sys2Proof.Machine Sys2Proof.Claims

/-! ## Lists cut into blocks -/

/-- n blocks of k elements are the first n × k elements. -/
theorem flatMap_blocks {α : Type} (l : List α) (k n : Nat) :
    (List.range n).flatMap (fun b => (l.drop (b * k)).take k) = l.take (n * k) := by
  induction n with
  | zero => simp
  | succ n ih => simp [List.range_succ, List.flatMap_append, ih, Nat.succ_mul, List.take_add]

theorem nth_map {α β : Type} (f : α → β) (l : List α) {i : Nat} (h : i < l.length) (d : α) (d' : β) :
    nth (l.map f) i d' = f (nth l i d) := by
  simp [nth, h]

/-! ## Codes and limbs -/

@[simp] theorem elemCodes_length (fmt : Nat) (bs : List Byte) : (elemCodes fmt bs).length = 128 := by
  unfold elemCodes
  split <;> simp

@[simp] theorem rowCodes_length (s : State) (g : Nat) (o : WOp) (fmt off i : Nat) :
    (s.rowCodes g o fmt off i).length = 128 := by
  simp [State.rowCodes]

/-- An element under a clear mask bit reads as zero (R233). -/
theorem nth_rowCodes (s : State) (g : Nat) (o : WOp) (fmt off i : Nat) {k : Nat} (hk : k < 128) :
    nth (s.rowCodes g o fmt off i) k 0
      = if matReads o i (k / 32) then nth (elemCodes fmt (s.scr g off (fmtBytes fmt 128))) k 0 else 0 := by
  simp [State.rowCodes, nth, hk]

/-- An integer element is one limb, whatever the length of its block (R67). -/
theorem limbs_alignVec_int {fmt len : Nat} (hfmt : fmt ≤ 2) (hlen : len ≤ 2) {codes : List Nat}
    (hcodes : codes.length = 128) (scales : List Byte) :
    (alignVec fmt len codes scales).1.limbs = codes.map (fun x => [(intVal fmt x).1]) := by
  have hall : 128 / (32 * 2 ^ len) * (32 * 2 ^ len) = 128 := by interval_cases len <;> rfl
  have hblock : ∀ l : List Nat, (alignBlock fmt l).1.limbs = l.map (fun x => [(intVal fmt x).1]) := by
    intro l
    simp [alignBlock, hfmt]
  simp only [alignVec, List.flatMap_map, hblock, List.map_take, List.map_drop]
  rw [flatMap_blocks, hall, List.take_of_length_le (by simp [hcodes])]

theorem bElem_alignVec_int {fmt len : Nat} (hfmt : fmt ≤ 2) (hlen : len ≤ 2) {codes : List Nat}
    (hcodes : codes.length = 128) (scales : List Byte) {k : Nat} (hk : k < 128) :
    bElem (alignVec fmt len codes scales).1 k = (intVal fmt (nth codes k 0)).1 := by
  rw [bElem, limbs_alignVec_int hfmt hlen hcodes, nth_map _ codes (hcodes ▸ hk) 0]
  rfl

theorem intVal_zero {fmt : Nat} (hfmt : fmt ≤ 2) : (intVal fmt 0).1 = 0 := by
  interval_cases fmt <;> rfl

/-- The limbs of a row of an integer format are the values that `MMA` reads. -/
theorem bElem_rowOfA {s : State} {o : WOp} {j : MatJob} (hfmt : fld j.blk.toNat 0 4 ≤ 2)
    (hlen : fld j.blk.toNat 4 2 ≤ 2) (i : Nat) {k : Nat} (hk : k < 128) :
    bElem (rowOfA s o j i) k = aElem s j.gang o j i k := by
  rw [rowOfA, bElem_alignVec_int hfmt hlen (rowCodes_length _ _ _ _ _ _) _ hk, nth_rowCodes _ _ _ _ _ _ hk]
  unfold aElem
  dsimp only
  split
  · rfl
  · exact intVal_zero hfmt

theorem limbsOf_int {fmt : Nat} (h : fmt ≤ 2) : limbsOf fmt = 1 := by
  interval_cases fmt <;> rfl

/-- Settles O35: without a float format or a scale the array accumulates in INT32, and each row and column is one
sub-block of single limbs, so the one block sum is the dot product. -/
theorem matrixMultiply : Obligations.MatrixMultiply := by
  intro o s c j rest hat hpair blk p hfa hla hnoscale hfb hlb hunscaled hcols h512 hz _
  obtain ⟨t, hexec, htile⟩ := exec_mma hat hpair
  refine ⟨t, hexec, fun i hi n col hcol => ?_⟩
  have hcfg : (mmaCfg (s.core c) (fld blk 0 4) (fld blk 4 2) (fld blk 64 64 != 0)).flt = false := by
    simp [mmaCfg, hnoscale, show (s.core c).panel.scaled = false from hunscaled, hfa,
      show (s.core c).panel.fmt ≤ 2 from hfb]
  have hrow : ((List.range (fld j.gc.toNat 32 7)).map (rowOfA s o j))[i]? = some (rowOfA s o j i) := by
    simp [hi]
  have hdot : dotSum (rowOfA s o j i) col
      = ((List.range 128).map (fun kk => aElem s j.gang o j i kk * bElem col kk)).sum := by
    refine congrArg List.sum (List.map_congr_left fun kk hkk => ?_)
    rw [bElem_rowOfA hfa (Nat.le_of_eq hla) i (List.mem_range.1 hkk)]
  rw [htile, ← hdot]
  refine (doMma_getD hcols h512 hz hrow hcol).trans ?_
  rw [accumAll_whole hla hlb (limbsOf_int hfa) (limbsOf_int hfb), accum_int hla hlb hcfg]
  rfl

end Sys2Proof.Proofs
end

section
/-! What `MLDB` loads of an integer format (R53, R66, R67, R232). -/

namespace Sys2Proof.Proofs

open Sys2Proof Sys2Proof.Machine Sys2Proof.Claims

/-! ## Bytes of a gang's scratch -/

/-- One byte of a gang's scratch; without the gang it reads 0. -/
def scrByte (s : State) (g a : Nat) : Byte := ((s.gangs.find g).map (fun x => x.scratch.getD a 0)).getD 0

theorem scr_eq_map (s : State) (g off n : Nat) :
    s.scr g off n = (List.range n).map (fun i => scrByte s g (off + i)) := by
  unfold State.scr scrByte
  cases s.gangs.find g with
  | none => simp [rep, List.map_const']
  | some x => simp [Gang.scrRead, Machine.span]

@[simp] theorem scr_length (s : State) (g off n : Nat) : (s.scr g off n).length = n := by simp [scr_eq_map]

theorem scr_one (s : State) (g off : Nat) : s.scr g off 1 = [scrByte s g off] := by simp [scr_eq_map]

theorem nth_scr (s : State) (g off : Nat) {n i : Nat} (h : i < n) :
    nth (s.scr g off n) i 0 = scrByte s g (off + i) := by
  simp [scr_eq_map, nth, h]

/-- A part of a range of scratch is a shorter range. -/
theorem take_drop_scr (s : State) (g off : Nat) {n i m : Nat} (h : i + m ≤ n) :
    ((s.scr g off n).drop i).take m = s.scr g (off + i) m := by
  refine List.ext_getElem (by simp; omega) fun k _ hk => ?_
  simp [scr_eq_map, Nat.add_assoc]

/-! ## Codes and scales as the format block finds them -/

/-- An element of a row of integers is the code at its place (R53). -/
theorem nth_elemCodes {fmt : Nat} (hfmt : fmt ≤ 2) (s : State) (g off : Nat) {k : Nat} (hk : k < 128) :
    nth (elemCodes fmt (s.scr g off (fmtBytes fmt 128))) k 0 = codeAt s g off fmt k := by
  have hbyte : ∀ f ∈ [1, 2], nth (elemCodes f (s.scr g off (fmtBytes f 128))) k 0 = codeAt s g off f k := by
    intro f hf
    have hw : fmtW f = 8 := by fin_cases hf <;> rfl
    have hne : f ≠ 0 := by fin_cases hf <;> decide
    have hmod := (scrByte s g (off + k)).isLt
    simp only [elemCodes, codeAt, fmtBytes, hw, hne, if_false]
    rw [nth, List.getElem?_map, List.getElem?_range hk]
    simp only [Option.map_some, Option.getD_some, Nat.mul_div_cancel k (show 0 < 8 by decide), Nat.mul_mod_left]
    norm_num
    rw [take_drop_scr s g off (by omega), scr_one]
    simp only [natOf]
    omega
  interval_cases fmt
  · have hbyte0 : (scrByte s g (off + k / 2)).toNat < 256 := (scrByte s g (off + k / 2)).isLt
    have hidx : k * 4 / 8 = k / 2 := by omega
    have hsh : k * 4 % 8 = 4 * (k % 2) := by omega
    simp only [elemCodes, codeAt, fmtBytes, show fmtW 0 = 4 from rfl, if_true]
    rw [nth, List.getElem?_map, List.getElem?_range hk]
    simp only [Option.map_some, Option.getD_some]
    rw [nth_scr s g off (by omega)]
    norm_num
    rw [hidx, hsh, scr_one]
    simp [natOf]
  · exact hbyte 1 (by simp)
  · exact hbyte 2 (by simp)

/-- A scale entry as the array reads it is the scale at its place (R66). -/
theorem scaleExp_scrByte (s : State) (g a : Nat) : (scaleExp (scrByte s g a)).1 = scaleAt s g a := by
  have hcode : codeAt s g a 1 0 = (scrByte s g a).toNat := by
    have := (scrByte s g a).isLt
    simp only [codeAt, fmtW, intBits, Nat.zero_mul]
    norm_num
    rw [scr_one]
    simp only [natOf]
    omega
  unfold scaleAt scaleExp
  rw [hcode]
  generalize scrByte s g a = b
  have hb := b.isLt
  have h128 : b = 0x80#8 ↔ b.toNat = 128 := by rw [← BitVec.toNat_inj]; rfl
  by_cases h : b = 0x80#8
  · subst h; decide
  · simp only [if_neg h, if_neg (mt h128.2 h), BitVec.toInt_eq_toNat_cond]
    norm_num
    split_ifs <;> omega

theorem nth_scalesOf {s : State} {g tab len j b : Nat} (htab : tab ≠ 0) (hb : b < 4 / 2 ^ len) :
    nth (s.scalesOf g tab len j) b 0 = scrByte s g (tab + j * (4 / 2 ^ len) + b) := by
  simp only [State.scalesOf, htab, if_false]
  exact nth_scr s g _ hb

theorem scalesOf_length (s : State) (g tab len j : Nat) : (s.scalesOf g tab len j).length = 4 / 2 ^ len := by
  unfold State.scalesOf
  split <;> simp [rep]

/-! ## The panel -/

theorem find_zipIdx_swap {α : Type} (l : List α) (k n : Nat) :
    Map.find ((l.zipIdx k).map (fun p => (p.2, p.1))) (k + n) = l[n]? := by
  induction l generalizing k n with
  | nil => rfl
  | cons x l ih =>
    rw [List.zipIdx_cons, List.map_cons, Map.find]
    cases n with
    | zero => simp
    | succ n =>
      rw [if_neg (by simp), show k + (n + 1) = k + 1 + n by omega, ih]
      simp

/-- Column n of a panel is the n-th of those put into it. -/
theorem find_panelOf (blk : Nat) (cols : List PanelCol) (n : Nat) : (panelOf blk cols).cols.find n = cols[n]? := by
  have h := find_zipIdx_swap cols 0 n
  rwa [Nat.zero_add] at h

/-- The panel after `MLDB` (R232). -/
theorem mldb_panel {o : WOp} {s : State} {c : Nat} {j : MatJob} {rest : List MatJob} (hpair : o.m.getLsbD 0 = false)
    (hat : AtArray s c j rest o (.mldb o)) (h512 : fld j.gc.toNat 32 11 ≤ 512) :
    ∃ (t : State), exec (.matrixArrayExecute c) s = .next t
      ∧ (t.core c).panel.fmt = fld j.blk.toNat 8 4 ∧ (t.core c).panel.len = fld j.blk.toNat 12 2
      ∧ (t.core c).panel.scaled = decide (fld j.blk.toNat 128 64 ≠ 0) ∧ (t.core c).panel.n = fld j.gc.toNat 32 11
      ∧ ∀ n < fld j.gc.toNat 32 11, (t.core c).panel.cols.find n = some (loadedCol s j n) := by
  obtain ⟨t, hexec, hpanel⟩ := exec_mldb hat hpair
  rw [List.take_of_length_le (by simpa using h512)] at hpanel
  refine ⟨t, hexec, by rw [hpanel]; rfl, by rw [hpanel]; rfl, ?_, by rw [hpanel]; simp [panelOf], fun n hn => ?_⟩
  · rw [hpanel]
    by_cases h : fld j.blk.toNat 128 64 = 0 <;> simp [panelOf, h]
  · rw [hpanel, find_panelOf]
    simp [hn]

theorem bElem_loadedCol {s : State} {j : MatJob} (hfmt : fld j.blk.toNat 8 4 ≤ 2) (hlen : fld j.blk.toNat 12 2 ≤ 2)
    (n : Nat) {k : Nat} (hk : k < 128) :
    bElem (loadedCol s j n) k = (intVal (fld j.blk.toNat 8 4)
      (codeAt s j.gang (j.ga.toNat % 2 ^ 32 + n * fld j.gc.toNat 0 32) (fld j.blk.toNat 8 4) k)).1 := by
  rw [loadedCol, bElem_alignVec_int hfmt hlen (elemCodes_length _ _) _ hk, nth_elemCodes hfmt _ _ _ hk]

theorem scales_loadedCol {s : State} {j : MatJob} (htab : fld j.blk.toNat 128 64 ≠ 0) (n : Nat) {b : Nat}
    (hb : b < 4 / 2 ^ fld j.blk.toNat 12 2) :
    nth (loadedCol s j n).scales b 0
      = scaleAt s j.gang (fld j.blk.toNat 128 64 + n * (4 / 2 ^ fld j.blk.toNat 12 2) + b) := by
  have hlen := scalesOf_length s j.gang (fld j.blk.toNat 128 64) (fld j.blk.toNat 12 2) n
  rw [← scaleExp_scrByte, ← nth_scalesOf htab hb]
  simp only [loadedCol, alignVec, List.map_map]
  rw [nth_map _ _ (hlen ▸ hb) 0]
  rfl

end Sys2Proof.Proofs
end

section
/-! Alignment of a block of a floating format (R68), and accumulation in FP32 (R71). -/

namespace Sys2Proof.Proofs

open Sys2Proof Sys2Proof.Machine Sys2Proof.Claims

/-! ## The exponent of a block -/

theorem maxExp_mem {l : List Int} {y : Int} (h : maxExp l = some y) : y ∈ l := by
  induction l generalizing y with
  | nil => cases h
  | cons x t ih =>
    rw [maxExp] at h
    split at h
    · cases h; exact List.mem_cons_self
    · next z hz =>
      cases h
      split
      · exact List.mem_cons_of_mem _ (ih hz)
      · exact List.mem_cons_self

/-- The largest exponent is the one that bounds the others. -/
theorem maxExp_eq {l : List Int} {e : Int} (hmem : e ∈ l) (hle : ∀ x ∈ l, x ≤ e) : maxExp l = some e := by
  induction l with
  | nil => cases hmem
  | cons x t ih =>
    have hx := hle x List.mem_cons_self
    have ht := fun y hy => hle y (List.mem_cons_of_mem x hy)
    rw [maxExp]
    rcases List.mem_cons.1 hmem with rfl | hmem
    · split
      · rfl
      · next y hy => rw [if_neg (not_lt.2 (ht y (maxExp_mem hy)))]
    · rw [ih hmem ht]
      dsimp only
      split
      · rfl
      · next h => rw [le_antisymm hx (not_lt.1 h)]

/-! ## Limbs of a block -/

/-- The limbs of an element as they are aligned to the exponent e of its block (R68). -/
def alignedLimbs (fmt : Nat) (e : Int) : Fl → List Int
  | .fin n m k => limbList (limbsOf fmt) (roundMag .rne false m (k + (alignF fmt : Int) - e) 0 false).1 n
  | _ => limbList (limbsOf fmt) 0 false

/-- The exponent of a block (R68). -/
def blockExp (fmt : Nat) (codes : List Nat) : Int :=
  (maxExp ((codes.map (decFl (fmtOf fmt))).filterMap (elemExp (fmtOf fmt)))).getD (1 - ((fmtOf fmt).bias : Int))

theorem alignBlock_special {fmt : Nat} (hfmt : 2 < fmt) {codes : List Nat}
    (h : ∃ x ∈ codes, ¬ isFin (decFl (fmtOf fmt) x)) : (alignBlock fmt codes).1.special = true := by
  obtain ⟨x, hx, hinf⟩ := h
  unfold alignBlock
  rw [if_neg (Nat.not_le.2 hfmt)]
  dsimp only
  split
  · rfl
  · next hany =>
    refine absurd (List.any_eq_true.2 ⟨_, List.mem_map.2 ⟨x, hx, rfl⟩, ?_⟩) hany
    split
    · next hdec => exact absurd (by rw [hdec]; trivial) hinf
    · rfl

theorem alignBlock_finite {fmt : Nat} (hfmt : 2 < fmt) {codes : List Nat}
    (h : ∀ x ∈ codes, isFin (decFl (fmtOf fmt) x)) :
    (alignBlock fmt codes).1 = ⟨blockExp fmt codes, false,
      codes.map (fun x => alignedLimbs fmt (blockExp fmt codes) (decFl (fmtOf fmt) x))⟩ := by
  unfold alignBlock
  rw [if_neg (Nat.not_le.2 hfmt)]
  dsimp only
  split
  · next hany =>
    obtain ⟨y, hy, hinf⟩ := List.any_eq_true.1 hany
    obtain ⟨x, hx, rfl⟩ := List.mem_map.1 hy
    obtain ⟨n, m, k, hdec⟩ := isFin_iff.1 (h x hx)
    rw [hdec] at hinf
    cases hinf
  · simp only [Block.mk.injEq, List.map_map, true_and]
    refine ⟨rfl, List.map_congr_left fun x _ => ?_⟩
    simp only [Function.comp]
    cases decFl (fmtOf fmt) x <;> rfl

/-- A row or column in one block of 128 is aligned as a whole (R66). -/
theorem alignVec_whole (fmt : Nat) {codes : List Nat} (hcodes : codes.length = 128) (scales : List Byte) :
    (alignVec fmt 2 codes scales).1 = ⟨[(alignBlock fmt codes).1.exp],
      scales.map (fun b => (scaleExp b).1), [(alignBlock fmt codes).1.special],
      (alignBlock fmt codes).1.limbs⟩ := by
  have htake : codes.take 128 = codes := List.take_of_length_le (by omega)
  simp [alignVec, List.range_succ, htake]

/-! ## Elements that are integers of 8 bits at the block's scale -/

/-- A finite value that is an integer multiple of 2^e has that integer's sign and magnitude. -/
theorem mag_of_flQ_eq {neg : Bool} {m : Nat} {k e n : Int} (h : flQ (.fin neg m k) = n * (2 : ℚ) ^ e) :
    (m : ℚ) * 2 ^ k = n.natAbs * 2 ^ e ∧ signInt neg n.natAbs = n := by
  by_cases hn : n = 0
  · subst hn
    have hm : m = 0 := by
      have hz : (2 : ℚ) ^ k ≠ 0 := zpow_ne_zero _ two_ne_zero
      cases neg <;> simpa [flQ, hz] using h
    simp [hm, signInt]
  · have hne : flQ (.fin (decide (n < 0)) n.natAbs e) ≠ 0 := by
      rw [flQ_of_int]
      exact mul_ne_zero (Int.cast_ne_zero.2 hn) (zpow_ne_zero _ two_ne_zero)
    obtain ⟨rfl, -, hmag⟩ := sign_and_mag_of_flQ_eq (h.trans (flQ_of_int n e).symm) hne
    refine ⟨hmag, ?_⟩
    simp only [signInt, decide_eq_true_eq]
    split <;> omega

/-- The code of an integer of at most 8 bits times 2^(e − 7). -/
structure ByteMultiple (f : Fmt) (e : Int) (x : Nat) (n : Int) : Prop where
  small : n.natAbs ≤ 255
  fin : isFin (decFl f x)
  value : flQ (decFl f x) = n * (2 : ℚ) ^ (e - 7)

/-- An integer of at most 8 bits aligns to itself, in one limb. -/
theorem alignedLimbs_of_int {fmt x : Nat} {e n : Int} (hlimbs : limbsOf fmt = 1) (hf : alignF fmt = 7)
    (h : ByteMultiple (fmtOf fmt) e x n) : alignedLimbs fmt e (decFl (fmtOf fmt) x) = [n] := by
  obtain ⟨hn, hfin, hv⟩ := h
  obtain ⟨neg, m, k, hdec⟩ := isFin_iff.1 hfin
  rw [hdec] at hv ⊢
  obtain ⟨hmag, hsign⟩ := mag_of_flQ_eq hv
  have hshift : (m : ℚ) * 2 ^ (k + 7 - e) = n.natAbs * 2 ^ (0 : Int) := by
    have hz : (2 : ℚ) ^ (k + 7 - e) = 2 ^ k / 2 ^ (e - 7) := by
      rw [← zpow_sub₀ two_ne_zero]; congr 1; ring
    rw [hz, ← mul_div_assoc, hmag, mul_div_assoc, div_self (zpow_ne_zero _ two_ne_zero), zpow_zero]
  have hsmall : n.natAbs % 256 = n.natAbs := Nat.mod_eq_of_lt (by omega)
  simp only [alignedLimbs, hlimbs, hf, Nat.cast_ofNat]
  rw [roundMag_exact .rne false hshift]
  simp [limbList, hsmall, hsign]

/-- The exponent of a normal element is that of its leading bit. -/
theorem elemExp_normal {f : Fmt} {neg : Bool} {m : Nat} {k : Int} (h : 2 ^ f.fb ≤ m) :
    elemExp f (.fin neg m k) = some ((Nat.log2 m : Int) + k) := by
  have hm : m ≠ 0 := (Nat.two_pow_pos f.fb).trans_le h |>.ne'
  simp [elemExp, hm, Nat.not_lt.2 h]

theorem log2_of_flQ_eq {neg : Bool} {m : Nat} {k e n : Int} (hv : flQ (.fin neg m k) = n * (2 : ℚ) ^ e)
    (hm : m ≠ 0) : (Nat.log2 m : Int) + k = Nat.log2 n.natAbs + e := by
  obtain ⟨hmag, -⟩ := mag_of_flQ_eq hv
  have hn : n.natAbs ≠ 0 := by
    intro h0
    rw [h0, Nat.cast_zero, zero_mul] at hmag
    exact absurd hmag (mul_ne_zero (Nat.cast_ne_zero.2 hm) (zpow_ne_zero _ two_ne_zero))
  exact log2_add_eq hmag hn hm

/-- A normal element of all 8 bits has the exponent e, and no subnormal lies above it. -/
theorem elemExp_top {f : Fmt} {e n : Int} {x : Nat} (h : ByteMultiple f e x n) (h128 : 128 ≤ n.natAbs)
    (hnormal : isSubnormal f x = false) : elemExp f (decFl f x) = some e ∧ 1 - (f.bias : Int) ≤ e := by
  obtain ⟨hsmall, hfin, hv⟩ := h
  obtain ⟨neg, m, k, hdec⟩ := isFin_iff.1 hfin
  have hcode := finCode_of_decFl hdec
  rw [hdec] at hv
  have hm : m ≠ 0 := by
    rintro rfl
    have hn : (n.natAbs : ℚ) ≠ 0 := Nat.cast_ne_zero.2 (by omega)
    exact absurd (mag_of_flQ_eq hv).1 (by simpa using (mul_ne_zero hn (zpow_ne_zero _ two_ne_zero)).symm)
  have hbig := hcode.normal hnormal hm
  have hlead := log2_of_flQ_eq hv hm
  have hlog : Nat.log2 n.natAbs = 7 := (Nat.log2_eq_iff (by omega)).2 ⟨by omega, by omega⟩
  have hlo : f.fb ≤ Nat.log2 m := (Nat.le_log2 hm).2 hbig
  have hexp := hcode.exp
  unfold Fmt.qmin at hexp
  exact ⟨by rw [hdec, elemExp_normal hbig]; congr 1; omega, by omega⟩

theorem elemExp_le {f : Fmt} {e n y : Int} {x : Nat} (h : ByteMultiple f e x n) (hmin : 1 - (f.bias : Int) ≤ e)
    (hy : elemExp f (decFl f x) = some y) : y ≤ e := by
  obtain ⟨hsmall, hfin, hv⟩ := h
  obtain ⟨neg, m, k, hdec⟩ := isFin_iff.1 hfin
  rw [hdec] at hy hv
  simp only [elemExp] at hy
  split at hy
  · cases hy
  · next hm =>
    split at hy
    · cases hy; exact hmin
    · cases hy
      have hlog : Nat.log2 n.natAbs < 8 := by
        by_cases h0 : n.natAbs = 0
        · rw [h0]; decide
        · exact (Nat.log2_lt h0).2 (by omega)
      have := log2_of_flQ_eq hv hm
      omega

/-- The largest element, normal and of all 8 bits, gives the block its exponent. -/
theorem blockExp_of_ints {fmt : Nat} {codes : List Nat} {e : Int}
    (hall : ∀ x ∈ codes, ∃ n, ByteMultiple (fmtOf fmt) e x n)
    (htop : ∃ x ∈ codes, ∃ n, ByteMultiple (fmtOf fmt) e x n ∧ 128 ≤ n.natAbs ∧ isSubnormal (fmtOf fmt) x = false) :
    blockExp fmt codes = e := by
  obtain ⟨x, hx, n, hn, h128, hnormal⟩ := htop
  obtain ⟨hexp, hmin⟩ := elemExp_top hn h128 hnormal
  have hmem : e ∈ (codes.map (decFl (fmtOf fmt))).filterMap (elemExp (fmtOf fmt)) :=
    List.mem_filterMap.2 ⟨_, List.mem_map.2 ⟨x, hx, rfl⟩, hexp⟩
  unfold blockExp
  rw [maxExp_eq hmem fun y hy => ?_, Option.getD_some]
  obtain ⟨a, ha, hy⟩ := List.mem_filterMap.1 hy
  obtain ⟨x', hx', rfl⟩ := List.mem_map.1 ha
  obtain ⟨n', hn'⟩ := hall x' hx'
  exact elemExp_le hn' hmin hy

/-- A block of integers of at most 8 bits times one power of two aligns without loss; a NaN or an infinity marks it
special (R68). -/
theorem alignment_exact {fmt : Nat} (hmem : fmt ∈ [6, 7, 8]) {codes : List Nat} (scales : List Byte)
    (hcodes : codes.length = 128) :
    let col := (alignVec fmt 2 codes scales).1
    ((∃ x ∈ codes, ¬ isFin (decFl (fmtOf fmt) x)) → col.special = [true])
    ∧ (∀ (e : Int) (n : Nat → Int), (∀ kk < 128, |n kk| ≤ 255
        ∧ isFin (decFl (fmtOf fmt) (nth codes kk 0))
        ∧ flQ (decFl (fmtOf fmt) (nth codes kk 0)) = n kk * (2 : ℚ) ^ (e - 7)) →
      (∃ kk < 128, 128 ≤ |n kk| ∧ isSubnormal (fmtOf fmt) (nth codes kk 0) = false) →
      col.special = [false] ∧ col.exps = [e] ∧ ∀ kk < 128, bElem col kk = n kk) := by
  have hfmt : 2 < fmt ∧ limbsOf fmt = 1 ∧ alignF fmt = 7 := by fin_cases hmem <;> decide
  obtain ⟨hbig, hlimbs, hf⟩ := hfmt
  intro col
  have hcol : col = _ := alignVec_whole fmt hcodes scales
  refine ⟨fun h => by rw [hcol, alignBlock_special hbig h], fun e n hall htop => ?_⟩
  have hbyte : ∀ kk < 128, ByteMultiple (fmtOf fmt) e (nth codes kk 0) (n kk) := by
    intro kk hkk
    obtain ⟨hle, hfin, hv⟩ := hall kk hkk
    exact ⟨by rw [Int.abs_eq_natAbs] at hle; omega, hfin, hv⟩
  have hat : ∀ x ∈ codes, ∃ kk < 128, nth codes kk 0 = x := by
    intro x hx
    obtain ⟨kk, hkk, rfl⟩ := List.mem_iff_getElem.1 hx
    exact ⟨kk, by omega, by simp [nth, hkk]⟩
  have hexp : blockExp fmt codes = e := by
    refine blockExp_of_ints (fun x hx => ?_) ?_
    · obtain ⟨kk, hkk, rfl⟩ := hat x hx
      exact ⟨n kk, hbyte kk hkk⟩
    · obtain ⟨kk, hkk, h128, hsub⟩ := htop
      have hin : kk < codes.length := by omega
      exact ⟨nth codes kk 0, by simp [nth, hin], n kk, hbyte kk hkk, by rw [Int.abs_eq_natAbs] at h128; omega, hsub⟩
  have hfin : ∀ x ∈ codes, isFin (decFl (fmtOf fmt) x) := by
    intro x hx
    obtain ⟨kk, hkk, rfl⟩ := hat x hx
    exact (hbyte kk hkk).fin
  rw [hcol, alignBlock_finite hbig hfin, hexp]
  refine ⟨rfl, rfl, fun kk hkk => ?_⟩
  rw [bElem, nth_map _ codes (hcodes ▸ hkk) 0, alignedLimbs_of_int hlimbs hf (hbyte kk hkk)]
  rfl

/-! ## Accumulation in FP32 -/

/-- A limb's weight in a block of its operand (R68, R71). -/
theorem limbAt_eq {fmt : Nat} (h : fmt ∈ [0, 1, 2, 6, 7, 8]) (col : PanelCol) :
    (if fmt ≤ 2 then 0 else nth col.exps 0 0) + limbExp fmt 0 = limbAt fmt col := by
  fin_cases h <;> simp [limbExp, limbAt, limbsOf, alignF] <;> ring

/-- One block sum in FP32: a special block's NaN, an element kept by a sum of zero, or the sum at its exponent. -/
theorem accum_float {c : MatCfg} (hla : c.la = 2) (hlb : c.lb = 2) (hflt : c.flt = true)
    (hfa : c.fa ∈ [0, 1, 2, 6, 7, 8]) (hfb : c.fb ∈ [0, 1, 2, 6, 7, 8]) (a b : PanelCol) (z : W32) :
    (accum c a b 0 0 0 z).1 =
      if nth a.special 0 false || nth b.special 0 false then 0x7FC00000#32
      else if dotSum a b = 0 then z
      else BitVec.ofNat 32 (flAdd (fmtOf 10) .rne false (decFl (fmtOf 10) z.toNat)
        (.fin (decide (dotSum a b < 0)) (dotSum a b).natAbs
          (limbAt c.fa a + limbAt c.fb b + nth a.scales 0 0 + nth b.scales 0 0))).1 := by
  have hsum : blockSum a.limbs b.limbs 0 0 0 128 = dotSum a b := blockSum_eq _ _ _
  have hexp : (if c.fa ≤ 2 then 0 else nth a.exps 0 0) + limbExp c.fa 0
      + (if c.fb ≤ 2 then 0 else nth b.exps 0 0) + limbExp c.fb 0 + nth a.scales 0 0 + nth b.scales 0 0
      = limbAt c.fa a + limbAt c.fb b + nth a.scales 0 0 + nth b.scales 0 0 := by
    rw [← limbAt_eq hfa, ← limbAt_eq hfb]; ring
  unfold accum
  simp only [hla, hlb, hflt, lt_irrefl, if_false, if_true, Nat.zero_mul, Nat.zero_div]
  rw [show 32 * 2 ^ 2 = 128 from rfl, hsum, hexp]
  split
  · rfl
  · split <;> rfl

/-- Where the exact total is an FP32 value other than zero, it is the new element. -/
theorem fp32_sum_exact {z x : W32} {sum k : Int} (hz : isFin (decFl (fmtOf 10) z.toNat))
    (hx : isFin (decFl (fmtOf 10) x.toNat)) (hx0 : flQ (decFl (fmtOf 10) x.toNat) ≠ 0)
    (hv : flQ (decFl (fmtOf 10) x.toNat) = flQ (decFl (fmtOf 10) z.toNat) + sum * (2 : ℚ) ^ k) :
    BitVec.ofNat 32 (flAdd (fmtOf 10) .rne false (decFl (fmtOf 10) z.toNat)
      (.fin (decide (sum < 0)) sum.natAbs k)).1 = x := by
  rw [← flQ_of_int] at hv
  rw [flAdd_exact (b := .fin (decide (sum < 0)) sum.natAbs k) hz trivial ⟨x.isLt, hx, hv, hv ▸ hx0, .inl rfl⟩]
  simp

end Sys2Proof.Proofs
end

section
/-! What `MST` stores (R53, R63, R72, R234), and the values of the matrix array. -/

namespace Sys2Proof.Proofs

open Sys2Proof Sys2Proof.Machine Sys2Proof.Claims

/-! ## Elements in bytes -/

theorem rowBytes_cons {fmt : Nat} (h : fmt ≠ 0) (a : Nat) (t : List Nat) :
    rowBytes fmt (a :: t) = bytesOf (fmtW fmt / 8) a ++ rowBytes fmt t := by
  cases t <;> exact if_neg h

theorem rowBytes_nibble (a : Nat) : rowBytes 0 [a] = [BitVec.ofNat 8 (a % 16)] := if_pos rfl

theorem rowBytes_nibbles (a b : Nat) (u : List Nat) :
    rowBytes 0 (a :: b :: u) = BitVec.ofNat 8 (a % 16 + b % 16 * 16) :: rowBytes 0 u := if_pos rfl

theorem rowBytes_bytes {fmt : Nat} (h : fmt ≠ 0) (l : List Nat) :
    rowBytes fmt l = l.flatMap (bytesOf (fmtW fmt / 8)) := by
  induction l with
  | nil => rfl
  | cons a t ih => rw [rowBytes_cons h, ih, List.flatMap_cons]

theorem rowBytes_nibbles_length : ∀ l : List Nat, (rowBytes 0 l).length = (l.length + 1) / 2
  | [] => rfl
  | [a] => by simp [rowBytes_nibble]
  | _ :: _ :: u => by
    rw [rowBytes_nibbles, List.length_cons, rowBytes_nibbles_length u, List.length_cons, List.length_cons]
    omega

/-- Formats but INT4S have whole bytes (R53, R54). -/
theorem fmtW_bytes {fmt : Nat} (h0 : fmt ≠ 0) (h11 : fmt ≤ 11) : fmtW fmt = 8 * (fmtW fmt / 8) := by
  interval_cases fmt
  · exact absurd rfl h0
  all_goals rfl

theorem rowBytes_length {fmt : Nat} (h11 : fmt ≤ 11) (l : List Nat) :
    (rowBytes fmt l).length = fmtBytes fmt l.length := by
  by_cases h0 : fmt = 0
  · subst h0
    rw [rowBytes_nibbles_length, fmtBytes, show fmtW 0 = 4 from rfl]
    omega
  · have hw := fmtW_bytes h0 h11
    rw [rowBytes_bytes h0, fmtBytes]
    generalize fmtW fmt / 8 = w at hw
    rw [hw, ← Nat.mul_assoc, Nat.mul_comm _ 8, Nat.mul_assoc]
    simp [List.length_flatMap, List.map_const']
    omega

/-- A cut of n-byte pieces is one of them. -/
theorem take_drop_flatMap {α β : Type} {f : α → List β} {w : Nat} (hf : ∀ x, (f x).length = w) {l : List α}
    {n : Nat} (hn : n < l.length) : ((l.flatMap f).drop (n * w)).take w = f l[n] := by
  induction l generalizing n with
  | nil => cases hn
  | cons x l ih =>
    rw [List.flatMap_cons]
    cases n with
    | zero => simp [← hf x]
    | succ n =>
      rw [Nat.succ_mul, Nat.add_comm, ← List.drop_drop, ← hf x, List.drop_left, hf x]
      exact ih (Nat.lt_of_succ_lt_succ hn)

/-! ## Rows of scratch -/

/-- The gang with n rows written from `a` on, `stride` apart. -/
def writeRows (g : Gang) (a stride : Nat) (bs : Nat → List Byte) (n : Nat) : Gang :=
  (List.range n).foldl (fun x i => x.scrWrite (a + i * stride) (bs i)) g

theorem writeRows_succ (g : Gang) (a stride : Nat) (bs : Nat → List Byte) (n : Nat) :
    writeRows g a stride bs (n + 1) = (writeRows g a stride bs n).scrWrite (a + n * stride) (bs n) := by
  simp [writeRows, List.range_succ]

/-- A row reads as it was written: later rows begin past it. -/
theorem writeRows_row {g : Gang} {a stride n : Nat} {bs : Nat → List Byte}
    (hbs : ∀ i, (bs i).length ≤ stride) {i p : Nat} (hi : i < n) (hp : p < (bs i).length) :
    (writeRows g a stride bs n).scratch.getD (a + i * stride + p) 0 = (bs i).getD p 0 := by
  induction n with
  | zero => cases hi
  | succ n ih =>
    rw [writeRows_succ, scrWrite_getD]
    rcases Nat.lt_succ_iff_lt_or_eq.1 hi with hlt | rfl
    · have hrow := Nat.mul_le_mul_right stride (Nat.succ_le_of_lt hlt)
      have hlen := hbs i
      rw [Nat.succ_mul] at hrow
      rw [if_neg (by omega), ih hlt]
    · rw [if_pos (by omega)]
      congr 1
      omega

/-- A byte outside the rows keeps its value. -/
theorem writeRows_frame {g : Gang} {a stride n x : Nat} {bs : Nat → List Byte}
    (hx : ∀ i < n, x < a + i * stride ∨ a + i * stride + (bs i).length ≤ x) :
    (writeRows g a stride bs n).scratch.getD x 0 = g.scratch.getD x 0 := by
  induction n with
  | zero => rfl
  | succ n ih =>
    have hn := hx n (Nat.lt_succ_self n)
    rw [writeRows_succ, scrWrite_getD, if_neg (by omega)]
    exact ih fun i hi => hx i (Nat.lt_succ_of_lt hi)

/-- A loop that writes rows, gathering flags, changes the gang alone. -/
theorem foldl_rows {s : State} {gn : Nat} {g : Gang} (hg : s.gangs.find gn = some g) (a stride : Nat)
    (bs : Nat → List Byte) (fl : State × W32 → Nat → W32) (n : Nat) :
    let t := ((List.range n).foldl (fun acc i =>
      (acc.1.modGang gn (fun x => x.scrWrite (a + i * stride) (bs i)), fl acc i)) (s, 0)).1
    t.cores = s.cores ∧ t.gangs.find gn = some (writeRows g a stride bs n) := by
  induction n with
  | zero => exact ⟨rfl, hg⟩
  | succ n ih =>
    obtain ⟨hcores, hgang⟩ := ih
    simp only [List.range_succ, List.foldl_append, List.foldl_cons, List.foldl_nil]
    rw [State.modGang_some _ _ hgang, writeRows_succ]
    exact ⟨hcores, Map.find_put_self _ _ _⟩

/-- The elements of row i that `MST` stores (R234). -/
def storedRow (s : State) (c : Nat) (o : WOp) (j : MatJob) (i : Nat) : List Nat :=
  (List.range (fld j.gc.toNat 40 11)).map (fun n =>
    (mstElem o (fld j.gb.toNat 32 4) (fld j.gb.toNat 0 32) ((s.core c).z.getD (zAt o i n) 0)).1)

/-- The gang after `MST` has written its rows (R234). -/
def storedGang (s : State) (c : Nat) (o : WOp) (j : MatJob) (g : Gang) : Gang :=
  writeRows g (j.ga.toNat % 2 ^ 32) (fld j.gc.toNat 0 32)
    (fun i => rowBytes (fld j.gb.toNat 32 4) (storedRow s c o j i)) (fld j.gc.toNat 32 7)

@[simp] theorem storedRow_length (s : State) (c : Nat) (o : WOp) (j : MatJob) (i : Nat) :
    (storedRow s c o j i).length = fld j.gc.toNat 40 11 := by simp [storedRow]

/-- `MST` on one core writes its rows into the gang's scratch, and keeps the tiles. -/
theorem exec_mst {s : State} {c : Nat} {j : MatJob} {rest : List MatJob} {o : WOp} {g : Gang}
    (h : AtArray s c j rest o (.mst o)) (hg : s.gangs.find j.gang = some g) (hcols : fld j.gc.toNat 40 11 ≤ 512) :
    ∃ t, exec (.matrixArrayExecute c) s = .next t ∧ (t.core c).z = (s.core c).z
      ∧ t.gangs.find j.gang = some (storedGang s c o j g) := by
  have heff : (s.chainCount c).matEffect o j = (s.chainCount c).doMst j.gang o j := by
    unfold State.matEffect; rw [h.op]
  have hrows : ∀ i, (List.range (fld j.gc.toNat 40 11)).map (fun col => (mstElem o (fld j.gb.toNat 32 4)
        (fld j.gb.toNat 0 32) (if col < 512 then (s.core (slotCore j.wave)).z.getD (zKey (o.d.toNat % 2) i col) 0
          else (s.core (slotCore j.wave + 1)).z.getD (zKey (o.d.toNat % 2) i (col - 512)) 0)).1)
      = storedRow s c o j i := by
    intro i
    refine List.map_congr_left fun n hn => ?_
    rw [if_pos ((List.mem_range.1 hn).trans_le hcols), h.here]
    rfl
  refine ⟨_, exec_atArray h rfl, ?_⟩
  have hsame := sameTiles_matRun (s.chainCount c) c j o
  rw [hsame.z, hsame.gangs, heff]
  have hloop := foldl_rows (s := s.chainCount c) hg (j.ga.toNat % 2 ^ 32) (fld j.gc.toNat 0 32)
    (fun i => rowBytes (fld j.gb.toNat 32 4) (storedRow s c o j i))
  simp only [storedGang, ← hrows] at hloop ⊢
  simp only [State.doMst, List.map_map]
  obtain ⟨hcores, hgang⟩ := hloop _ _
  exact ⟨congrArg (fun m : Map Core => (m.getD c Core.init).z) hcores, hgang⟩

/-- A stored element is the code at its place. -/
theorem codeAt_stored {t : State} {gn a stride N fmt : Nat} {g : Gang} {rows : Nat → List Nat}
    (ht : t.gangs.find gn = some (writeRows g a stride (fun i => rowBytes fmt (rows i)) N)) (h0 : fmt ≠ 0)
    (h11 : fmt ≤ 11) (hfit : ∀ i, fmtBytes fmt (rows i).length ≤ stride) {i n : Nat} (hi : i < N)
    (hn : n < (rows i).length) : codeAt t gn (a + i * stride) fmt n = (rows i)[n] % 2 ^ fmtW fmt := by
  have hw := fmtW_bytes h0 h11
  have hbytes := rowBytes_bytes h0 (rows i)
  have hlen : (rowBytes fmt (rows i)).length = (rows i).length * (fmtW fmt / 8) := by
    simp [hbytes, List.length_flatMap, List.map_const']
  have hrow : ∀ p < (rowBytes fmt (rows i)).length,
      scrByte t gn (a + i * stride + p) = (rowBytes fmt (rows i)).getD p 0 := by
    intro p hp
    rw [scrByte, ht]
    exact writeRows_row (fun i => by rw [rowBytes_length h11]; exact hfit i) hi hp
  generalize fmtW fmt / 8 = w at hw hbytes hlen
  have hend : n * w + w ≤ (rowBytes fmt (rows i)).length := by
    rw [hlen, ← Nat.succ_mul]; exact Nat.mul_le_mul_right w hn
  have hscr : t.scr gn (a + i * stride + n * w) w = bytesOf w (rows i)[n] := by
    rw [← take_drop_flatMap (fun x => bytesOf_length w x) hn, ← hbytes]
    refine List.ext_getElem (by simp; omega) fun p hp _ => ?_
    have hp' : p < w := by simpa using hp
    have hin : n * w + p < (rowBytes fmt (rows i)).length := by omega
    simp [scr_eq_map, Nat.add_assoc _ (n * w) p, hrow _ hin, hin]
  have hsh : n * (8 * w) = 8 * (n * w) := by ring
  have hround : (8 * w + 7) / 8 = w := by omega
  rw [codeAt, hw, hround, hsh, Nat.mul_div_cancel_left _ (by decide), Nat.mul_mod_right, hscr, natOf_bytesOf,
    pow_zero, Nat.div_one, pow_mul]
  exact Nat.mod_mod _ _

/-! ## Stored elements at a tile scale of 1 (R63, R72) -/

theorem decFl_fp32_one : decFl (fmtOf 10) 0x3F800000 = .fin false 8388608 (-23) := by decide

/-- A tile scale of 1 leaves a finite value and its sign. -/
theorem scaleVal_one (n : Bool) (m : Nat) (e : Int) :
    ∃ m' e', scaleVal (.fin n m e) (decFl (fmtOf 10) 0x3F800000) = (.fin n m' e', 0)
      ∧ (m' : ℚ) * 2 ^ e' = m * 2 ^ e := by
  rw [decFl_fp32_one]
  refine ⟨m * 8388608, e + -23, by simp [scaleVal], ?_⟩
  rw [zpow_add₀ two_ne_zero]
  push_cast
  norm_num
  ring

/-- An integer value converts to its clamped code (R63). -/
theorem toInt_exact (code : Nat) (rm : Rm) (sat : Bool) {n : Bool} {m : Nat} {e y : Int}
    (h : flQ (.fin n m e) = y) : (toInt code rm sat (.fin n m e)).1
      = intCode (intBits code) (clampInt (intRange code).1 (intRange code).2 y) := by
  obtain ⟨hmag, hsign⟩ := mag_of_flQ_eq (n := y) (e := 0) (by rw [h, zpow_zero, mul_one])
  simp only [toInt, roundMag_exact rm n hmag, hsign]
  split
  · rfl
  · next hin =>
    have hclamp : clampInt (intRange code).1 (intRange code).2 y = y := by
      unfold clampInt
      rw [if_neg (not_or.1 hin).1, if_neg (not_or.1 hin).2]
    rw [hclamp]

/-- A value of a format, zeros among them, converts to its code (R63). -/
theorem toFloat_exact {code x m M : Nat} {n : Bool} {e E : Int} (hx : x < 2 ^ (fmtOf code).width)
    (h : FinCode (fmtOf code) x n M E) (hv : (m : ℚ) * 2 ^ e = M * 2 ^ E) (rm : Rm) (sat : Bool) :
    (toFloat code rm sat (.fin n m e)).1 = x := by
  have hround : ∃ tiny, roundFmt (fmtOf code) rm n m e false
      = ⟨(E - (fmtOf code).qmin).toNat * 2 ^ (fmtOf code).fb + M, false, false, tiny⟩ := by
    by_cases hM : M = 0
    · have hm : m = 0 := by
        rw [hM, Nat.cast_zero, zero_mul] at hv
        exact_mod_cast (mul_eq_zero.1 hv).resolve_right (zpow_ne_zero _ two_ne_zero)
      have hE := h.low (hM ▸ Nat.two_pow_pos _)
      exact ⟨false, by simp [roundFmt, hm, hM, hE]⟩
    · exact roundFmt_exact h hM hv rm n
  obtain ⟨tiny, hr⟩ := hround
  unfold toFloat
  simp only [hr, Bool.false_eq_true, if_false]
  exact (h.code hx).symm

/-- An integer element is stored clamped to its format. -/
theorem mstElem_int {o : WOp} {fmt : Nat} (hint : o.m.getLsbD 3 = true) (hfmt : fmt ≤ 5) (z : W32) :
    (mstElem o fmt 0x3F800000 z).1 = intCode (intBits fmt) (clampInt (intRange fmt).1 (intRange fmt).2 z.toInt) := by
  obtain ⟨m', e', hscale, hv⟩ := scaleVal_one (decide (z.toInt < 0)) z.toInt.natAbs 0
  have hval : flQ (.fin (decide (z.toInt < 0)) m' e') = z.toInt := by
    have h := flQ_of_int z.toInt 0
    rw [zpow_zero, mul_one] at h
    rw [← h]
    simp only [flQ, mul_assoc, hv]
  simp only [mstElem, hint, if_true, hscale, hfmt]
  exact toInt_exact fmt .rne _ hval

/-- An FP32 element is stored as it is. -/
theorem mstElem_fp32 {o : WOp} (hint : o.m.getLsbD 3 = false) {z : W32} (hz : isFin (decFl (fmtOf 10) z.toNat)) :
    (mstElem o 10 0x3F800000 z).1 = z.toNat := by
  obtain ⟨n, m, e, hdec⟩ := isFin_iff.1 hz
  obtain ⟨m', e', hscale, hv⟩ := scaleVal_one n m e
  simp only [mstElem, hint, Bool.false_eq_true, if_false, hdec, hscale]
  exact toFloat_exact z.isLt (finCode_of_decFl hdec) hv .rne _

theorem clampInt_eq {lo hi : Int} (h : lo ≤ hi) (x : Int) : clampInt lo hi x = max lo (min hi x) := by
  unfold clampInt
  split_ifs <;> omega

theorem intCode_mod (w : Nat) (x : Int) : ((intCode w x % 2 ^ w : Nat) : Int) = x % 2 ^ w := by
  have hpos : (0 : Int) < 2 ^ w := by positivity
  rw [Int.natCast_mod, intCode, Int.toNat_of_nonneg (Int.emod_nonneg _ hpos.ne')]
  push_cast
  exact Int.emod_emod_of_dvd _ dvd_rfl

theorem intRange_le (fmt : Nat) : (intRange fmt).1 ≤ (intRange fmt).2 := by
  unfold intRange
  split <;> decide

/-! ## The clauses on `MMA` and `MST` -/

section
variable {s : State} {c : Nat} {j : MatJob} {rest : List MatJob} {o : WOp}

theorem limbsOf_one {fmt : Nat} (h : fmt ∈ [0, 1, 2, 6, 7, 8]) : limbsOf fmt = 1 := by
  fin_cases h <;> rfl

/-- An element after `MMA` in FP32 of operands of one limb, in blocks of 128 (R71, R233). -/
theorem exec_mma_float (hat : AtArray s c j rest o (.mma o)) (hpair : o.m.getLsbD 0 = false)
    (hfa : fld j.blk.toNat 0 4 ∈ [0, 1, 2, 6, 7, 8]) (hfb : (s.core c).panel.fmt ∈ [0, 1, 2, 6, 7, 8])
    (hla : fld j.blk.toNat 4 2 = 2) (hlb : (s.core c).panel.len = 2)
    (hflt : 2 < fld j.blk.toNat 0 4 ∨ 2 < (s.core c).panel.fmt ∨ fld j.blk.toNat 64 64 ≠ 0
      ∨ (s.core c).panel.scaled = true)
    (hcols : rising (s.core c).panel.cols) (h512 : ∀ q : Nat × PanelCol, q ∈ (s.core c).panel.cols → q.1 < 512)
    (hz : rising (s.core c).z) :
    ∃ t, exec (.matrixArrayExecute c) s = .next t ∧ ∀ i < fld j.gc.toNat 32 7, ∀ n col,
      (s.core c).panel.cols.find n = some col →
      (t.core c).z.getD (zAt o i n) 0 =
        if nth (rowOfA s o j i).special 0 false || nth col.special 0 false then 0x7FC00000#32
        else if dotSum (rowOfA s o j i) col = 0 then (s.core c).z.getD (zAt o i n) 0
        else BitVec.ofNat 32 (flAdd (fmtOf 10) .rne false (decFl (fmtOf 10) ((s.core c).z.getD (zAt o i n) 0).toNat)
          (.fin (decide (dotSum (rowOfA s o j i) col < 0)) (dotSum (rowOfA s o j i) col).natAbs
            (limbAt (fld j.blk.toNat 0 4) (rowOfA s o j i) + limbAt (s.core c).panel.fmt col
              + nth (rowOfA s o j i).scales 0 0 + nth col.scales 0 0))).1 := by
  obtain ⟨t, hexec, htile⟩ := exec_mma hat hpair
  refine ⟨t, hexec, fun i hi n col hcol => ?_⟩
  have hcfg : (mmaCfg (s.core c) (fld j.blk.toNat 0 4) (fld j.blk.toNat 4 2) (fld j.blk.toNat 64 64 != 0)).flt
      = true := by
    simpa [mmaCfg, or_assoc] using hflt
  have hrow : ((List.range (fld j.gc.toNat 32 7)).map (rowOfA s o j))[i]? = some (rowOfA s o j i) := by
    simp [hi]
  rw [htile]
  refine (doMma_getD hcols h512 hz hrow hcol).trans ?_
  rw [accumAll_whole hla hlb (limbsOf_one hfa) (limbsOf_one hfb), accum_float hla hlb hcfg hfa hfb]
  rfl

/-- Element n of row i of the stored rows (R234). -/
theorem codeAt_mst {t : State} {g : Gang} (ht : t.gangs.find j.gang = some (storedGang s c o j g))
    (h0 : fld j.gb.toNat 32 4 ≠ 0) (h11 : fld j.gb.toNat 32 4 ≤ 11)
    (hfit : fmtBytes (fld j.gb.toNat 32 4) (fld j.gc.toNat 40 11) ≤ fld j.gc.toNat 0 32) {i n : Nat}
    (hi : i < fld j.gc.toNat 32 7) (hn : n < fld j.gc.toNat 40 11) :
    codeAt t j.gang (j.ga.toNat % 2 ^ 32 + i * fld j.gc.toNat 0 32) (fld j.gb.toNat 32 4) n
      = (mstElem o (fld j.gb.toNat 32 4) (fld j.gb.toNat 0 32) ((s.core c).z.getD (zAt o i n) 0)).1
        % 2 ^ fmtW (fld j.gb.toNat 32 4) := by
  rw [codeAt_stored ht h0 h11 (fun i => by simpa using hfit) hi (by simpa using hn)]
  simp only [storedRow, List.getElem_map, List.getElem_range]

/-- A byte of scratch outside the rows keeps its value (R234). -/
theorem scr_stored_frame {t : State} {g : Gang} (hg : s.gangs.find j.gang = some g)
    (ht : t.gangs.find j.gang = some (storedGang s c o j g)) (h11 : fld j.gb.toNat 32 4 ≤ 11) {x : Nat}
    (hx : ∀ i < fld j.gc.toNat 32 7, x < j.ga.toNat % 2 ^ 32 + i * fld j.gc.toNat 0 32
      ∨ j.ga.toNat % 2 ^ 32 + i * fld j.gc.toNat 0 32 + fmtBytes (fld j.gb.toNat 32 4) (fld j.gc.toNat 40 11) ≤ x) :
    t.scr j.gang x 1 = s.scr j.gang x 1 := by
  have hframe : scrByte t j.gang x = scrByte s j.gang x := by
    rw [scrByte, scrByte, ht, hg]
    refine writeRows_frame fun i hi => ?_
    rw [rowBytes_length h11, storedRow_length]
    exact hx i hi
  rw [scr_one, scr_one, hframe]

end

/-- Two codes of one value other than zero are the same. -/
theorem code_eq_of_flQ_eq {f : Fmt} {x y : Nat} (hx : x < 2 ^ f.width) (hy : y < 2 ^ f.width)
    (hxf : isFin (decFl f x)) (hyf : isFin (decFl f y)) (h : flQ (decFl f x) = flQ (decFl f y))
    (h0 : flQ (decFl f x) ≠ 0) : x = y := by
  obtain ⟨n, m, e, hdec⟩ := isFin_iff.1 hxf
  have hxv := finish_exact (x := x) (ftz := false) ⟨hx, hxf, rfl, h0, .inl rfl⟩ (congrArg flQ hdec.symm) .rne
  have hyv := finish_exact (x := y) (ftz := false) ⟨hy, hyf, h.symm, h0, .inl rfl⟩ (congrArg flQ hdec.symm) .rne
  exact hxv.symm.trans hyv

/-- Settles O36: the panel's columns and the tile's elements by the clauses above, each stored element by its place
in its row, and the alignment of a block whose elements are integers at its scale. -/
theorem matrixValues : Obligations.MatrixValues := by
  refine ⟨fun o s c j rest hpair => ⟨fun hat hfmt hlen h512 => ?_, fun hat => ?_, fun hat g hg => ?_⟩,
    fun fmt hfmt codes scales hcodes _ => alignment_exact hfmt scales hcodes⟩
  · obtain ⟨t, hexec, hf, hl, hs, hn, hcols⟩ := mldb_panel hpair hat h512
    exact ⟨t, hexec, hf, hl, hs, hn, fun n hn => ⟨loadedCol s j n, hcols n hn,
      fun kk hkk => bElem_loadedCol hfmt hlen n hkk, fun htab b hb => scales_loadedCol htab n hb⟩⟩
  · intro p fa hfa hfb hla hlb hflt hcols h512 hz _
    obtain ⟨t, hexec, helem⟩ := exec_mma_float hat hpair hfa hfb hla hlb hflt hcols h512 hz
    refine ⟨t, hexec, fun i hi n col hcol => ?_⟩
    intro row sum z z'
    have hrow : rowOfA s o j i = row := by simp only [rowOfA, hla]; rfl
    have hz' := helem i hi n col hcol
    rw [hrow] at hz'
    refine ⟨fun hspecial => hz'.trans (if_pos (by simpa using hspecial)), fun hrs hcs => ?_⟩
    rw [if_neg (by simp [hrs, hcs])] at hz'
    refine ⟨fun hsum => hz'.trans (if_pos hsum), fun x hzf hxf hx0 hv => ?_⟩
    by_cases hsum : dotSum row col = 0
    · have hsame : flQ (decFl (fmtOf 10) x.toNat) = flQ (decFl (fmtOf 10) z.toNat) := by
        rw [hv, show sum = 0 from hsum]; simp
      rw [if_pos hsum] at hz'
      exact hz'.trans (BitVec.eq_of_toNat_eq (code_eq_of_flQ_eq x.isLt z.isLt hxf hzf hsame hx0)).symm
    · rw [if_neg hsum] at hz'
      exact hz'.trans (fp32_sum_exact hzf hxf hx0 hv)
  · intro fmt rows cols h11 h512 hfit
    obtain ⟨t, hexec, htile, hgang⟩ := exec_mst hat hg h512
    refine ⟨t, hexec, htile, fun i hi n hn hscale => ⟨fun hint h1 h5 => ?_, fun hfp hfmt hfin => ?_⟩,
      fun x hx => scr_stored_frame hg hgang h11 hx⟩
    · have hw : fmtW fmt = intBits fmt := if_pos h5
      rw [codeAt_mst hgang (by omega) h11 hfit hi hn, hscale, mstElem_int hint h5, hw, intCode_mod,
        clampInt_eq (intRange_le fmt)]
    · have h0 : fld j.gb.toNat 32 4 ≠ 0 := by rw [show fld j.gb.toNat 32 4 = 10 from hfmt]; decide
      rw [codeAt_mst hgang h0 h11 hfit hi hn, hscale, show fld j.gb.toNat 32 4 = 10 from hfmt, mstElem_fp32 hfp hfin]
      exact Nat.mod_eq_of_lt (BitVec.isLt _)

end Sys2Proof.Proofs
end

section
/-! How a matrix instruction issues (R110, R206, R229, R231, R236, R237). -/

namespace Sys2Proof.Proofs

open Sys2Proof Sys2Proof.Machine Sys2Proof.Claims

theorem exec_matOp_eq_matIssue {mk : WOp → Instr} (hmk : mk ∈ matOps) (o : WOp) (s : State) :
    ∃ name, exec (mk o) s = matIssue (mk o) o s name := by
  unfold matOps at hmk
  fin_cases hmk <;> exact ⟨_, rfl⟩

/-- Where `.pair` is not allowed an instruction has no array (R236). -/
theorem matCores_eq_none {o : WOp} {k : Nat} {g : Gang} (hm : o.m.getLsbD 0 = true)
    (hpairs : ¬ ((g.cores.length = 2 ∨ g.cores.length = 4) ∧ slotCore k % 2 = 0)) : matCores o k g = none := by
  unfold matCores matPair
  rw [hm]
  simpa using hpairs

theorem matCores_eq_matPlaces {o : WOp} {k : Nat} {g : Gang}
    (hpairs : o.m.getLsbD 0 = true → (g.cores.length = 2 ∨ g.cores.length = 4) ∧ slotCore k % 2 = 0) :
    matCores o k g = some (matPlaces o k) := by
  unfold matCores matPair matPlaces
  cases hm : o.m.getLsbD 0
  · rfl
  · simpa using hpairs hm

/-- No core of a list keeps the wave waiting when each is free or claimed by the wave (R229). -/
theorem find_taken_eq_none {s : State} {k : Nat} {cs : List Nat}
    (h : ∀ d ∈ cs, (s.core d).claim = none ∨ s.holdsClaim k d = true) :
    cs.find? (fun d => !(s.holdsClaim k d || (s.core d).claim.isNone)) = none := by
  rw [List.find?_eq_none]
  intro d hd
  rcases h d hd with hfree | hheld <;> simp [*]

/-- An instruction asks for its own core's array before any other (R236). -/
theorem matPlaces_eq_cons (o : WOp) (k : Nat) : ∃ rest, matPlaces o k = slotCore k :: rest := by
  unfold matPlaces
  split <;> exact ⟨_, rfl⟩

section
variable {mk : WOp → Instr} {o : WOp} {s : State} {k : Nat} {w : Wave} {g : Gang}

theorem exec_matOp_pair_illegal (hmk : mk ∈ matOps) (hat : At s k w) (hgang : inGang s w g)
    (hguard : w.guardGrp o.guard = true) (hcores : matCores o k g = none) :
    exec (mk o) s = .next (illegalAt s k w 56) := by
  obtain ⟨name, hexec⟩ := exec_matOp_eq_matIssue hmk o s
  rw [hexec, matIssue, onGang_run hat hgang hguard, hcores]
  rfl

variable (hmk : mk ∈ matOps) (hat : At s k w) (hgang : inGang s w g) (hguard : w.guardGrp o.guard = true)
  (hcores : matCores o k g = some (matPlaces o k))
include hmk hat hgang hguard hcores

theorem exec_matOp_block_busy (hbusy : (matBlockAt (mk o) w o).any (fun off => s.scrBusy k off 32) = true) :
    exec (mk o) s = .next s := by
  obtain ⟨name, hexec⟩ := exec_matOp_eq_matIssue hmk o s
  simp only [hexec, matIssue, onGang_run hat hgang hguard, hcores, hbusy, if_true]
  rfl

variable (hbusy : (matBlockAt (mk o) w o).any (fun off => s.scrBusy k off 32) = false)
include hbusy

theorem exec_matOp_block_held {x : Nat} (hheld : s.fmtHeld w (matBlockAt (mk o) w o) = some x) :
    exec (mk o) s = .next (s.waitOn k w .footprint x 0 (mk o)) := by
  obtain ⟨name, hexec⟩ := exec_matOp_eq_matIssue hmk o s
  simp only [hexec, matIssue, onGang_run hat hgang hguard, hcores, hbusy, hheld, Bool.false_eq_true, if_false]

variable (hfmt : s.fmtHeld w (matBlockAt (mk o) w o) = none)
include hfmt

theorem exec_matOp_check_fails {lo : Nat} (hcheck : matCheck (mk o) o w g = .error lo) :
    exec (mk o) s = .next (illegalAt s k w lo) := by
  obtain ⟨name, hexec⟩ := exec_matOp_eq_matIssue hmk o s
  simp only [hexec, matIssue, onGang_run hat hgang hguard, hcores, hbusy, hfmt, hcheck, Bool.false_eq_true, if_false]
  rfl

variable {blk : Nat} (hcheck : matCheck (mk o) o w g = .ok blk)
include hcheck

theorem exec_matOp_ranges_busy (hstalls : s.matStalls k (matJob (mk o) o k w blk) = true) :
    exec (mk o) s = .next s := by
  obtain ⟨name, hexec⟩ := exec_matOp_eq_matIssue hmk o s
  unfold matJob at hstalls
  simp only [hexec, matIssue, onGang_run hat hgang hguard, hcores, hbusy, hfmt, hcheck, hstalls, Bool.false_eq_true,
    if_false, if_true]
  rfl

variable (hstalls : s.matStalls k (matJob (mk o) o k w blk) = false)
include hstalls

theorem exec_matOp_ranges_held {x : Nat} (hheld : s.matHeld w (matJob (mk o) o k w blk) = some x) :
    exec (mk o) s = .next (s.waitOn k w .footprint x 0 (mk o)) := by
  obtain ⟨name, hexec⟩ := exec_matOp_eq_matIssue hmk o s
  unfold matJob at hstalls hheld
  simp only [hexec, matIssue, onGang_run hat hgang hguard, hcores, hbusy, hfmt, hcheck, hstalls, hheld,
    Bool.false_eq_true, if_false]

variable (hheld : s.matHeld w (matJob (mk o) o k w blk) = none)
include hheld

theorem exec_matOp_claims (hfree : ∀ d ∈ matPlaces o k, (s.core d).claim = none ∨ s.holdsClaim k d = true) :
    exec (mk o) s = .next (((claimAll s k (matPlaces o k)).modCore (slotCore k) (fun y => { y with
      matq := y.matq ++ [matJob (mk o) o k w blk] })).retire k w o.len) := by
  obtain ⟨name, hexec⟩ := exec_matOp_eq_matIssue hmk o s
  unfold matJob at hstalls hheld
  simp only [hexec, matIssue, onGang_run hat hgang hguard, hcores, hbusy, hfmt, hcheck, hstalls, hheld,
    find_taken_eq_none hfree, Bool.false_eq_true, if_false]
  rfl

theorem exec_matOp_claim_taken {q : Nat} (hclaim : (s.core (slotCore k)).claim = some q) (hq : q ≠ k) :
    exec (mk o) s = .next (s.waitOn k w .claim (slotCore k) 0 (mk o)) := by
  obtain ⟨name, hexec⟩ := exec_matOp_eq_matIssue hmk o s
  obtain ⟨rest, hplaces⟩ := matPlaces_eq_cons o k
  have hfind : (slotCore k :: rest).find? (fun d => !(s.holdsClaim k d || (s.core d).claim.isNone))
      = some (slotCore k) := List.find?_cons_of_pos (by simp [State.holdsClaim, hclaim, hq])
  have hbefore : (slotCore k :: rest).takeWhile (· != slotCore k) = [] := by simp
  unfold matJob at hstalls hheld
  simp only [hexec, matIssue, onGang_run hat hgang hguard, hcores, hplaces, hbusy, hfmt, hcheck, hstalls, hheld,
    hfind, hbefore, Bool.false_eq_true, if_false, List.foldl_nil]

end

end Sys2Proof.Proofs
end

section
/-! How the array ends its oldest instruction (R229, R232-R237): its order, its claims, and the waves. -/

namespace Sys2Proof.Proofs

open Sys2Proof Sys2Proof.Machine Sys2Proof.Claims

/-! ## What an effect keeps -/

theorem core_modCore (s : State) (c d : Nat) (f : Core → Core) :
    (s.modCore c f).core d = if d = c then f (s.core c) else s.core d := core_setCore s c d _

/-- `t` has the orders, the claims, the waves and the memory of `s`. -/
structure SameOrders (s t : State) : Prop where
  matq : ∀ d, (t.core d).matq = (s.core d).matq
  claim : ∀ d, (t.core d).claim = (s.core d).claim
  waves : t.waves = s.waves
  mem : t.mem = s.mem

namespace SameOrders

theorem refl (s : State) : SameOrders s s := ⟨fun _ => rfl, fun _ => rfl, rfl, rfl⟩

theorem trans {s t u : State} (h1 : SameOrders s t) (h2 : SameOrders t u) : SameOrders s u :=
  ⟨fun d => (h2.matq d).trans (h1.matq d), fun d => (h2.claim d).trans (h1.claim d), h2.waves.trans h1.waves,
    h2.mem.trans h1.mem⟩

theorem setCore (s : State) (c : Nat) {x : Core} (hq : x.matq = (s.core c).matq) (hc : x.claim = (s.core c).claim) :
    SameOrders s (s.setCore c x) := by
  refine ⟨fun d => ?_, fun d => ?_, rfl, rfl⟩ <;> rw [core_setCore] <;> split
  · next h => rw [h, hq]
  · rfl
  · next h => rw [h, hc]
  · rfl

theorem modGang (s : State) (g : Nat) (f : Gang → Gang) : SameOrders s (s.modGang g f) := by
  unfold State.modGang
  split <;> exact ⟨fun _ => rfl, fun _ => rfl, rfl, rfl⟩

theorem foldl_modGang (s : State) (g : Nat) {f : State × W32 → Nat → Gang → Gang}
    {fl : State × W32 → Nat → W32} (l : List Nat) (x : W32) :
    SameOrders s (l.foldl (fun acc i => (acc.1.modGang g (f acc i), fl acc i)) (s, x)).1 := by
  induction l generalizing s x with
  | nil => exact refl s
  | cons i l ih => exact (modGang s g _).trans (ih _ _)

/-- The instructions' effects are on tiles, panels and scratch (R232-R235). -/
theorem matEffect (s : State) (o : WOp) (j : MatJob) : SameOrders s (s.matEffect o j).1 := by
  unfold State.matEffect
  split
  · unfold State.doMldb
    dsimp only
    split
    · refine (setCore s _ ?_ ?_).trans (setCore _ _ ?_ ?_) <;> rfl
    · exact setCore s _ rfl rfl
  · unfold State.doMma
    dsimp only
    split
    · refine (setCore s _ ?_ ?_).trans (setCore _ _ ?_ ?_) <;> rfl
    · exact setCore s _ rfl rfl
  · exact foldl_modGang s _ _ _
  · unfold State.doMz
    dsimp only
    split
    · refine (setCore s _ ?_ ?_).trans (setCore _ _ ?_ ?_) <;> rfl
    · exact setCore s _ rfl rfl

end SameOrders

/-! ## The instruction leaves its order -/

/-- The state after an instruction's effect, with the instruction out of its core's order (R229, R237). -/
def matDone (s : State) (c : Nat) (j : MatJob) (o : WOp) : State :=
  let s1 := (s.matEffect o j).1.modCore c (fun x => { x with matq := x.matq.drop 1, lastMat := x.cycle })
  if matPair o then s1.modCore (c + 1) (fun x => { x with lastMat := x.cycle }) else s1

/-- Past the effect and the order's head, only the follower's idle count may move. -/
theorem matDone_sameOrders (s : State) (c : Nat) (j : MatJob) (o : WOp) :
    SameOrders ((s.matEffect o j).1.modCore c (fun x => { x with matq := x.matq.drop 1, lastMat := x.cycle }))
      (matDone s c j o) := by
  unfold matDone
  dsimp only
  split
  · exact .setCore _ _ rfl rfl
  · exact .refl _

section
variable (s : State) (c : Nat) (j : MatJob) (o : WOp)

@[simp] theorem matDone_matq : ((matDone s c j o).core c).matq = (s.core c).matq.drop 1 := by
  rw [(matDone_sameOrders s c j o).matq, core_modCore_self, (SameOrders.matEffect s o j).matq]

@[simp] theorem matDone_claim (d : Nat) : ((matDone s c j o).core d).claim = (s.core d).claim := by
  rw [(matDone_sameOrders s c j o).claim, ← (SameOrders.matEffect s o j).claim d, core_modCore]
  split
  · next h => rw [h]
  · rfl

@[simp] theorem matDone_waves : (matDone s c j o).waves = s.waves :=
  (matDone_sameOrders s c j o).waves.trans (SameOrders.matEffect s o j).waves

@[simp] theorem matDone_mem : (matDone s c j o).mem = s.mem :=
  (matDone_sameOrders s c j o).mem.trans (SameOrders.matEffect s o j).mem

end

/-! ## Releases of claims (R229, R236) -/

/-- No wave waits for a claim. -/
def NoClaimWaits (s : State) : Prop := WaitsAll s (fun x => x.kind ≠ .claim)

/-- The claims of a core and of its follower that a wave holds are released. -/
def releaseBoth (s : State) (c k : Nat) : State := (s.freeClaim c k).freeClaim (c + 1) k

theorem modWave_cores (s : State) (k : Nat) (f : Wave → Wave) : (s.modWave k f).cores = s.cores := by
  unfold State.modWave
  split <;> rfl

@[simp] theorem modWave_mem (s : State) (k : Nat) (f : Wave → Wave) : (s.modWave k f).mem = s.mem := by
  unfold State.modWave
  split <;> rfl

@[simp] theorem modWave_core (s : State) (k d : Nat) (f : Wave → Wave) : (s.modWave k f).core d = s.core d := by
  rw [State.core, modWave_cores, State.core]

/-- A claim that is passed on moves nothing of an order, nor memory. -/
theorem passClaim_keeps (s : State) (c d : Nat) :
    ((s.passClaim c).core d).matq = (s.core d).matq ∧ (s.passClaim c).mem = s.mem := by
  have hcore : ∀ x : Option Nat, ((s.modCore c (fun y => { y with claim := x })).core d).matq = (s.core d).matq := by
    intro x
    rw [core_modCore]
    split
    · next h => rw [h]
    · rfl
  unfold State.passClaim State.reissue
  split
  · rw [modWave_core, modWave_mem]
    exact ⟨hcore _, rfl⟩
  · exact ⟨hcore _, rfl⟩

theorem freeClaim_keeps (s : State) (c k d : Nat) :
    ((s.freeClaim c k).core d).matq = (s.core d).matq ∧ (s.freeClaim c k).mem = s.mem := by
  unfold State.freeClaim
  split
  · exact passClaim_keeps s c d
  · exact ⟨rfl, rfl⟩

@[simp] theorem releaseBoth_matq (s : State) (c k d : Nat) : ((releaseBoth s c k).core d).matq = (s.core d).matq :=
  (freeClaim_keeps _ _ _ d).1.trans (freeClaim_keeps _ _ _ d).1

@[simp] theorem releaseBoth_mem (s : State) (c k : Nat) : (releaseBoth s c k).mem = s.mem :=
  (freeClaim_keeps _ (c + 1) k 0).2.trans (freeClaim_keeps _ c k 0).2

/-- A claim that no wave waits for is left free. -/
theorem passClaim_of_noClaimWaits {s : State} (h : NoClaimWaits s) (c : Nat) :
    s.passClaim c = s.modCore c (fun y => { y with claim := none }) := by
  have hwait : s.waiters (fun _ x => x.kind = .claim && x.obj = c) = [] :=
    waiters_eq_nil h fun w x hx => by simp [hx]
  rw [State.passClaim, hwait]

theorem freeClaim_of_noClaimWaits {s : State} (h : NoClaimWaits s) (c k : Nat) :
    s.freeClaim c k = if (s.core c).claim = some k then s.modCore c (fun y => { y with claim := none }) else s := by
  rw [State.freeClaim, passClaim_of_noClaimWaits h]

/-- Releases that no wave waits for change no wave, and leave the claim of the core free. -/
theorem releaseBoth_of_noClaimWaits {s : State} (h : NoClaimWaits s) (c k : Nat) :
    (releaseBoth s c k).waves = s.waves
      ∧ ((s.core c).claim = some k → ((releaseBoth s c k).core c).claim = none) := by
  have hwaves : (s.freeClaim c k).waves = s.waves := by
    rw [freeClaim_of_noClaimWaits h]
    split <;> rfl
  have h' : NoClaimWaits (s.freeClaim c k) := fun p hp => h p (hwaves ▸ hp)
  unfold releaseBoth
  rw [freeClaim_of_noClaimWaits h' (c + 1)]
  refine ⟨?_, fun hclaim => ?_⟩
  · split <;> exact hwaves
  · have hfree : ((s.freeClaim c k).core c).claim = none := by
      rw [freeClaim_of_noClaimWaits h, if_pos hclaim, core_modCore_self]
    split
    · rw [core_modCore, if_neg (Nat.ne_of_lt c.lt_succ_self), hfree]
    · exact hfree

/-! ## The end of the oldest instruction -/

/-- The wave that issued an instruction is still in its slot. -/
def IssuerStays (s : State) (j : MatJob) : Prop := ∃ w, s.waves.find j.wave = some w ∧ w.gang = j.gang

section
variable {s : State} {c : Nat} {j : MatJob} {o : WOp}

theorem any_issuer_iff : ((matDone s c j o).waves.find j.wave).any (fun w => w.gang = j.gang) = true
    ↔ IssuerStays s j := by
  rw [matDone_waves, IssuerStays]
  cases s.waves.find j.wave <;> simp

/-- The issuer gets the flags, and with `.free` its claims go (R229, R236). -/
theorem matRun_of_issuerStays (h : IssuerStays s j) :
    let s3 := (matDone s c j o).modWave j.wave (fun w => w.orFlags (s.matEffect o j).2)
    s.matRun c j o = if matFree o then releaseBoth s3 c j.wave else s3 :=
  if_pos (any_issuer_iff.2 h)

/-- A discarded issuer's last instruction lets its claims go (R229). -/
theorem matRun_of_not_issuerStays (h : ¬ IssuerStays s j) :
    s.matRun c j o = if ((matDone s c j o).core c).matq.any (fun x => x.wave = j.wave && x.gang = j.gang)
      then matDone s c j o else releaseBoth (matDone s c j o) c (lateClaim j.wave) :=
  if_neg (mt any_issuer_iff.1 h)

/-- The instruction leaves its order, and memory stays (R229, R237). -/
theorem matRun_keeps : ((s.matRun c j o).core c).matq = (s.core c).matq.drop 1 ∧ (s.matRun c j o).mem = s.mem := by
  by_cases h : IssuerStays s j
  · rw [matRun_of_issuerStays h]
    split <;> simp
  · rw [matRun_of_not_issuerStays h]
    split <;> simp

theorem noClaimWaits_matDone (h : NoClaimWaits s) : NoClaimWaits (matDone s c j o) :=
  fun p hp => h p (matDone_waves s c j o ▸ hp)

theorem noClaimWaits_modWave_orFlags (h : NoClaimWaits s) (k : Nat) (f : W32) :
    NoClaimWaits (s.modWave k (fun w => w.orFlags f)) := by
  unfold State.modWave
  split
  · next w hw =>
    intro p hp
    rcases Map.mem_put hp with rfl | hp
    · exact h (k, w) (mem_of_find hw)
    · exact h p hp
  · exact h

/-- An issuer's instruction gives it flags, and changes no other wave unless a claim goes to one (R229). -/
theorem matRun_waves_of_issuer {w : Wave} (hw : s.waves.find j.wave = some w) (hgang : w.gang = j.gang)
    (h : matFree o = false ∨ NoClaimWaits s) :
    (s.matRun c j o).waves = s.waves.put j.wave (w.orFlags (s.matEffect o j).2) := by
  have hflags : ((matDone s c j o).modWave j.wave (fun w => w.orFlags (s.matEffect o j).2)).waves
      = s.waves.put j.wave (w.orFlags (s.matEffect o j).2) := by
    rw [State.modWave_some _ _ (by rwa [matDone_waves]), State.setWave_waves, matDone_waves]
  rw [matRun_of_issuerStays ⟨w, hw, hgang⟩]
  split
  · next hfree =>
    have hno := h.resolve_left (by simp [hfree])
    rw [(releaseBoth_of_noClaimWaits (noClaimWaits_modWave_orFlags (noClaimWaits_matDone hno) _ _) _ _).1, hflags]
  · exact hflags

/-- A discarded issuer's instruction changes no wave unless a claim goes to one (R229). -/
theorem matRun_waves_of_discarded (h : ¬ IssuerStays s j) (hno : NoClaimWaits s) :
    (s.matRun c j o).waves = s.waves := by
  rw [matRun_of_not_issuerStays h]
  split
  · exact matDone_waves s c j o
  · rw [(releaseBoth_of_noClaimWaits (noClaimWaits_matDone hno) _ _).1, matDone_waves]

@[simp] theorem orFlags_zero (w : Wave) : w.orFlags 0 = w := by
  simp [Wave.orFlags, Regs.orFlags]

/-- No wave but the issuer changes, and that in its flags alone (R229). -/
theorem matRun_find (h : (matFree o = false ∧ IssuerStays s j) ∨ NoClaimWaits s) {q : Nat} {w : Wave}
    (hw : s.waves.find q = some w) :
    (q ≠ j.wave ∨ w.gang ≠ j.gang → (s.matRun c j o).waves.find q = some w)
      ∧ (q = j.wave → ∃ f, (s.matRun c j o).waves.find q = some (w.orFlags f)) := by
  by_cases hissuer : IssuerStays s j
  · obtain ⟨wi, hwi, hgang⟩ := hissuer
    rw [matRun_waves_of_issuer hwi hgang (h.imp_left And.left)]
    refine ⟨fun hne => ?_, fun hq => ?_⟩
    · have hq : q ≠ j.wave := by
        rintro rfl
        obtain rfl : wi = w := Option.some.inj (hwi.symm.trans hw)
        exact hne.elim (· rfl) (· hgang)
      rw [Map.find_put_ne _ _ hq, hw]
    · subst hq
      obtain rfl : wi = w := Option.some.inj (hwi.symm.trans hw)
      exact ⟨_, Map.find_put_self _ _ _⟩
  · rw [matRun_waves_of_discarded hissuer (h.resolve_left fun hi => hissuer hi.2)]
    exact ⟨fun _ => hw, fun _ => ⟨0, by rw [orFlags_zero, hw]⟩⟩

/-- With `.free` the claim is free again when no wave waits for one (R229, R236). -/
theorem matRun_claim_of_free (hfree : matFree o = true) (hclaim : (s.core c).claim = some j.wave)
    (hissuer : IssuerStays s j) (hno : NoClaimWaits s) : ((s.matRun c j o).core c).claim = none := by
  rw [matRun_of_issuerStays hissuer, if_pos hfree]
  refine (releaseBoth_of_noClaimWaits (noClaimWaits_modWave_orFlags (noClaimWaits_matDone hno) _ _) _ _).2 ?_
  rw [modWave_core, matDone_claim, hclaim]

/-- So is the claim of a discarded wave after its last instruction (R229). -/
theorem matRun_claim_of_discarded (hclaim : (s.core c).claim = some (lateClaim j.wave)) (hgone : ¬ IssuerStays s j)
    (hlast : ∀ x ∈ (s.core c).matq.drop 1, x.wave ≠ j.wave) (hno : NoClaimWaits s) :
    ((s.matRun c j o).core c).claim = none := by
  have hnone : ((matDone s c j o).core c).matq.any (fun x => x.wave = j.wave && x.gang = j.gang) = false := by
    rw [matDone_matq, List.any_eq_false]
    intro x hx
    simp [hlast x hx]
  rw [matRun_of_not_issuerStays hgone, hnone, if_neg Bool.false_ne_true]
  exact (releaseBoth_of_noClaimWaits (noClaimWaits_matDone hno) _ _).2 (by rw [matDone_claim, hclaim])

end

/-! ## `MZ` (R235) -/

theorem getD_filter_key {α : Type} (m : Map α) (f : Nat → Bool) (k : Nat) (d : α) :
    Map.getD (m.filter (fun p => f p.1)) k d = if f k then m.getD k d else d := by
  induction m with
  | nil => simp [Map.getD]
  | cons p t ih =>
    obtain ⟨a, x⟩ := p
    rw [List.filter_cons, getD_cons]
    by_cases hak : a = k
    · subst hak
      by_cases hf : f a = true
      · rw [if_pos hf, getD_cons]; simp [hf]
      · rw [if_neg hf, ih]; simp [hf]
    · rw [if_neg hak, ← ih]
      split
      · rw [getD_cons, if_neg hak]
      · rfl

/-- A cleared tile reads zero, and the other as before (R235). -/
theorem clearZ_getD (x : Core) (z : Nat) {tile i n : Nat} (hi : i < 64) (hn : n < 512) :
    (x.clearZ z).z.getD (tile * 32768 + i * 512 + n) 0
      = if tile = z then 0 else x.z.getD (tile * 32768 + i * 512 + n) 0 := by
  have hkey : (tile * 32768 + i * 512 + n) / 32768 = tile := by omega
  rw [Core.clearZ, getD_filter_key x.z (fun k => k / 32768 != z), hkey]
  by_cases h : tile = z <;> simp [h]

/-- `MZ` clears its tile on its own core, and with `.pair` on the follower (R235, R236). -/
theorem matRun_mz_z {s : State} {c : Nat} {j : MatJob} {o : WOp} (hop : j.op = .mz o) (hhere : slotCore j.wave = c)
    {d : Nat} (hd : d = c ∨ (matPair o = true ∧ d = c + 1)) :
    ((s.matRun c j o).core d).z = ((s.core d).clearZ (o.d.toNat % 2)).z := by
  have heff : (s.matEffect o j).1 = s.doMz o j := by unfold State.matEffect; rw [hop]
  rw [(sameTiles_matRun s c j o).z, heff, State.doMz, hhere]
  rcases hd with rfl | ⟨hpair, rfl⟩
  · split
    · rw [core_modCore, if_neg (Nat.ne_of_lt d.lt_succ_self), core_modCore_self]
    · rw [core_modCore_self]
  · rw [if_pos hpair, core_modCore_self, core_modCore, if_neg (Nat.ne_of_gt c.lt_succ_self)]

/-! ## The array's step -/

theorem matOp_wave {mk : WOp → Instr} (hmk : mk ∈ matOps) (o : WOp) : ∃ op, (mk o).wave? = some (op, o) := by
  unfold matOps at hmk
  fin_cases hmk <;> exact ⟨_, rfl⟩

/-- An array that may start executes the oldest matrix instruction of its core (R237, R238, R399, R401). -/
theorem exec_array_oldest {mk : WOp → Instr} (hmk : mk ∈ matOps) {o : WOp} {s : State} {c : Nat} {j : MatJob}
    {rest : List MatJob} (hhead : (s.core c).matq = j :: rest) (hop : j.op = mk o) (htoken : s.chainOk c = true)
    (hon : s.islandOn (arrayIsland c) = true) (hawake : (s.core c).fgated = false)
    (hpair : o.m.getLsbD 0 = true → s.islandOn (arrayIsland (c + 1)) = true ∧ (s.core (c + 1)).fgated = false) :
    exec (.matrixArrayExecute c) s = .next ((s.chainCount c).matRun c j o) := by
  obtain ⟨op, hwave⟩ := matOp_wave hmk o
  have hfollower : (matPair o && !s.islandOn (arrayIsland (c + 1))) = false
      ∧ (matPair o && (s.core (c + 1)).fgated) = false := by
    cases hm : matPair o
    · exact ⟨rfl, rfl⟩
    · obtain ⟨hon', hawake'⟩ := hpair hm
      simp [hon', hawake']
  change execMatrixArrayExecute c s = _
  unfold execMatrixArrayExecute
  simp only [hhead, hop, hwave, hon, hawake, htoken, hfollower]
  rfl

/-- Settles O34: the waits, checks and claims of an issue in the order of `matIssue`; then the array's step, whose
effect leaves orders, claims, waves and memory alone. -/
theorem matrixIssueAndArray : Obligations.MatrixIssueAndArray := by
  refine ⟨fun mk hmk o s k w g hat hgang hguard => ⟨fun hm hpairs => ?_, fun hpairs => ?_⟩,
    fun mk hmk o s c j rest hhead hop htoken hon hawake hpair => ?_⟩
  · exact exec_matOp_pair_illegal hmk hat hgang hguard (matCores_eq_none hm hpairs)
  · have hcores := matCores_eq_matPlaces hpairs
    exact ⟨exec_matOp_block_busy hmk hat hgang hguard hcores,
      fun x hbusy => exec_matOp_block_held hmk hat hgang hguard hcores hbusy,
      fun hbusy hfmt => ⟨fun lo => exec_matOp_check_fails hmk hat hgang hguard hcores hbusy hfmt,
        fun blk hcheck => ⟨exec_matOp_ranges_busy hmk hat hgang hguard hcores hbusy hfmt hcheck,
          fun x hstalls => exec_matOp_ranges_held hmk hat hgang hguard hcores hbusy hfmt hcheck hstalls,
          fun hstalls hheld => ⟨exec_matOp_claims hmk hat hgang hguard hcores hbusy hfmt hcheck hstalls hheld,
            fun q => exec_matOp_claim_taken hmk hat hgang hguard hcores hbusy hfmt hcheck hstalls hheld⟩⟩⟩⟩
  · have hrest : ((s.chainCount c).core c).matq.drop 1 = rest := congrArg (List.drop 1) hhead
    obtain ⟨hmatq, hmem⟩ := matRun_keeps (s := s.chainCount c) (c := c) (j := j) (o := o)
    refine ⟨_, exec_array_oldest hmk hhead hop htoken hon hawake hpair, hmatq.trans hrest, hmem,
      fun h q w hw => matRun_find (s := s.chainCount c) h hw, fun hfree hclaim hissuer hno => ?_,
      fun hclaim hgone hlast hno => ?_, fun hmz hhere d hd tile i n _ hi hn => ?_⟩
    · exact matRun_claim_of_free hfree hclaim hissuer hno
    · exact matRun_claim_of_discarded hclaim (fun ⟨w, hw, hgang⟩ => hgone w hw hgang)
        (fun x hx => hlast x (hrest ▸ hx)) hno
    · rw [matRun_mz_z (hop.trans hmz) hhere hd, clearZ_getD _ _ hi hn]
      rfl

end Sys2Proof.Proofs
end

section
/-! Words of the wave instructions (R123-R135): the fields of a word and the word of the fields undo each other, an
entry of the opcode map builds instructions of its own opcode, and so decoding and encoding agree. -/

namespace Sys2Proof.Proofs

open Sys2Proof Sys2Proof.Machine Sys2Proof.Claims

/-! ## Fields and words (R123) -/

/-- The fields are those of some words: without X there is no word 1, and its field is zero (R123). -/
def OfWords (r : RawW) : Prop := r.x = false → r.ext = 0

theorem ofWords_rawOf (w0 w1 : W64) : OfWords (rawOf w0 w1) := fun hx => if_neg (Bool.eq_false_iff.1 hx)

theorem ofWords_toRaw (o : WOp) (op : BitVec 8) : OfWords (o.toRaw op) := by
  intro hx
  have hnone : o.ext = none := Option.isSome_eq_false_iff.1 hx |> Option.isNone_iff_eq_none.1
  simp [WOp.toRaw, hnone]

@[simp] theorem bit1_getLsbD_zero (b : Bool) : (bit1 b).getLsbD 0 = b := by cases b <;> rfl

theorem bit1_getLsbD {n : Nat} (x : BitVec n) (i : Nat) : bit1 (x.getLsbD i) = x.extractLsb' i 1 := by
  refine BitVec.eq_of_getLsbD_eq fun j hj => ?_
  obtain rfl : j = 0 := by omega
  rw [bit1_getLsbD_zero, BitVec.getLsbD_extractLsb']
  simp

/-- Every bit of word 0 lies in one field, and the fields stand in `word0` in their order. -/
theorem word0_rawOf (w0 w1 : W64) : (rawOf w0 w1).word0 = w0 := by
  simp only [RawW.word0, rawOf, bit1_getLsbD]
  repeat rw [BitVec.extractLsb'_append_extractLsb'_eq_extractLsb' (by decide)]
  exact BitVec.extractLsb'_eq_self

/-- Each field is read back from where `word0` puts it. -/
theorem rawOf_word0 {r : RawW} (h : OfWords r) : rawOf r.word0 r.ext = r := by
  have hext : (if r.x = true then r.ext else 0) = r.ext := by
    cases hx : r.x
    · exact (h hx).symm
    · rfl
  simp (disch := decide) only [rawOf, RawW.word0, BitVec.extractLsb'_append_eq_of_le,
    BitVec.extractLsb'_append_eq_of_add_le, BitVec.getLsbD_append, Nat.reduceLT, Nat.reduceSub, if_true, if_false,
    bit1_getLsbD_zero, BitVec.extractLsb'_eq_self, hext]

/-! ## The guard's field (R124) -/

/-- A guard is read back from its own field, or the field is one that R124 does not assign. -/
theorem guardOf_sel {g g' : Guard} (h : guardOf g.sel g.gn = some g') : g' = g := by
  cases g with
  | always => simpa [guardOf, Guard.sel, Guard.gn, eq_comm] using h
  | p n neg =>
    have hsel : (Guard.p n neg).sel.toNat = n.toNat := by simp [Guard.sel]; omega
    have hlt := n.isLt
    by_cases hn : n.toNat < 48
    · simpa [guardOf, hsel, hn, Guard.gn, eq_comm] using h
    · have hnone : guardOf (Guard.p n neg).sel (Guard.p n neg).gn = none := by
        simp only [guardOf, hsel]
        rw [if_neg hn, if_neg (by omega), if_neg (by omega)]
      rw [hnone] at h
      cases h
  | gp n neg =>
    have hsel : (Guard.gp n neg).sel.toNat = 64 + n.toNat := by simp [Guard.sel]; omega
    have hlt := n.isLt
    simpa [guardOf, hsel, show ¬ 64 + n.toNat < 48 by omega, show 64 + n.toNat < 80 by omega, Guard.gn, eq_comm]
      using h

/-- The field of the guard that a field names is that field. -/
theorem sel_of_guardOf {f : BitVec 7} {gn : Bool} {g : Guard} (h : guardOf f gn = some g) :
    g.sel = f ∧ g.gn = gn := by
  simp only [guardOf] at h
  split at h
  · cases h
    exact ⟨BitVec.eq_of_toNat_eq (by simp [Guard.sel]; omega), rfl⟩
  · split at h
    · cases h
      exact ⟨BitVec.eq_of_toNat_eq (by simp [Guard.sel]; omega), rfl⟩
    · split at h
      next halways =>
        cases h
        exact ⟨BitVec.eq_of_toNat_eq halways.1.symm, halways.2.symm⟩
      next => cases h

/-! ## Fields and operand records -/

theorem toWOp_toRaw (o : WOp) (op : BitVec 8) : (o.toRaw op).toWOp o.guard = o := by
  obtain ⟨_, _, _, _, _, _, _, _, _, ext⟩ := o
  cases ext <;> rfl

theorem toRaw_toWOp {r : RawW} {g : Guard} (h : OfWords r) (hg : guardOf r.guard r.gn = some g) :
    (r.toWOp g).toRaw r.op = r := by
  obtain ⟨hsel, hgn⟩ := sel_of_guardOf hg
  obtain ⟨op, x, w, s, guard, gn, fn, d, a, b, c, m, ext⟩ := r
  cases x
  · obtain rfl : ext = 0 := h rfl
    simp [RawW.toWOp, WOp.toRaw, hsel, hgn]
  · simp [RawW.toWOp, WOp.toRaw, hsel, hgn]

/-! ## The opcode map (R133, R134) -/

/-- What the map holds for an opcode belongs to it: an entry stands at an assigned value alone, and builds
instructions of that opcode with the operands it is given. -/
inductive BelongsTo (op : BitVec 8) : FnRes → Prop
  | minor : BelongsTo op .minor
  | illegal : BelongsTo op .illegal
  | shape (sh : Shape) (assigned : opFate op = .assigned) (builds : ∀ o, (sh.build o).wave? = some (op, o)) :
      BelongsTo op (.shape sh)

theorem eq_ofNat_of_toNat_eq {n : Nat} {op : BitVec 8} (h : op.toNat = n) : op = BitVec.ofNat 8 n := by
  rw [← h, BitVec.ofNat_toNat, BitVec.setWidth_eq]

/-- Opcode by opcode and function by function. -/
theorem belongsTo_shapeOf (op : BitVec 8) (fn : BitVec 5) (m : BitVec 8) : BelongsTo op (shapeOf op fn m) := by
  unfold shapeOf cvtFn
  dsimp only
  split
  any_goals obtain rfl := eq_ofNat_of_toNat_eq ‹op.toNat = _›
  all_goals repeat' split
  all_goals constructor
  all_goals intros; rfl

theorem opFate_of_shapeOf {op : BitVec 8} {fn : BitVec 5} {m : BitVec 8} {sh : Shape}
    (h : shapeOf op fn m = .shape sh) : opFate op = .assigned := by
  cases h ▸ belongsTo_shapeOf op fn m with
  | shape _ assigned _ => exact assigned

theorem wave?_build {op : BitVec 8} {fn : BitVec 5} {m : BitVec 8} {sh : Shape} (h : shapeOf op fn m = .shape sh)
    (o : WOp) : (sh.build o).wave? = some (op, o) := by
  cases h ▸ belongsTo_shapeOf op fn m with
  | shape _ _ builds => exact builds o

/-! ## What decoding accepts (R135) -/

/-- The fields pass the steps of R135: OP and FN have an entry, the privilege suffices, the checks of the entry pass,
and the guard is `g`. -/
structure Accepts (cx : DecodeCtx) (r : RawW) (sh : Shape) (g : Guard) : Prop where
  entry : shapeOf r.op r.fn r.m = .shape sh
  privilege : isSystemOp r.op = false ∨ cx.sup = true
  checks : checkShape cx sh r = none
  guard : guardOf r.guard r.gn = some g

/-- Decoding answers an instruction just when each of its steps passes, and then the one that the entry builds. -/
theorem decodeRaw_eq_ok_iff {cx : DecodeCtx} {r : RawW} {i : Instr} :
    decodeRaw cx r = .ok i ↔ ∃ sh g, Accepts cx r sh g ∧ sh.build (r.toWOp g) = i := by
  constructor
  · intro h
    unfold decodeRaw at h
    split at h
    · cases h
    · cases h
    · split at h
      · cases h
      next hpriv =>
        split at h
        · cases h
        · cases h
        next sh hentry =>
          split at h
          · cases h
          next hchecks =>
            split at h
            next g hg =>
              cases h
              refine ⟨sh, g, ⟨hentry, ?_, hchecks, hg⟩, rfl⟩
              simpa [Decidable.imp_iff_not_or] using hpriv
            · cases h
  · rintro ⟨sh, g, ⟨hentry, hpriv, hchecks, hg⟩, rfl⟩
    have hsys : (isSystemOp r.op && !cx.sup) = false := by rcases hpriv with h | h <;> simp [h]
    simp [decodeRaw, opFate_of_shapeOf hentry, hsys, hentry, hchecks, hg]

/-- Fields that pass the checks have a guard that R124 assigns. -/
theorem exists_guard_of_checkShape {cx : DecodeCtx} {sh : Shape} {r : RawW} (h : checkShape cx sh r = none) :
    ∃ g, guardOf r.guard r.gn = some g := by
  have hok : guardOk sh r = true := by
    unfold checkShape at h
    split at h
    · cases h
    · cases h
    · by_contra hbad
      split at h
      · cases h
      · rw [if_pos (by simpa using hbad)] at h
        cases h
  cases hg : guardOf r.guard r.gn with
  | none => simp [guardOk, hg] at hok
  | some g => exact ⟨g, rfl⟩

theorem acceptedAs_iff {op : BitVec 8} {o : WOp} {i : Instr} {cx : DecodeCtx} :
    o.acceptedAs op i cx = true ↔
      ∃ sh, shapeOf op o.fn o.m = .shape sh ∧ sh.build o = i ∧ checkShape cx sh (o.toRaw op) = none := by
  unfold WOp.acceptedAs
  split
  next sh hentry => simp [hentry]
  next hno =>
    refine ⟨fun h => absurd h Bool.false_ne_true, ?_⟩
    rintro ⟨sh, hentry, _⟩
    exact absurd hentry (hno sh)

/-! ## Decoding and encoding agree -/

theorem encodeWave_of_wave? {i : Instr} {op : BitVec 8} {o : WOp} (h : i.wave? = some (op, o)) :
    encodeWave i = some ((o.toRaw op).word0, (o.toRaw op).ext) := by
  rw [encodeWave, h]; rfl

/-- An accepted instruction is decoded from its own words. -/
theorem decodeWave_word0_toRaw {i : Instr} {op : BitVec 8} {o : WOp} {cx : DecodeCtx}
    (haccepted : o.acceptedAs op i cx = true) (hpriv : isSystemOp op = false ∨ cx.sup = true) :
    decodeWave cx (o.toRaw op).word0 (o.toRaw op).ext = .ok i := by
  obtain ⟨sh, hentry, hbuild, hchecks⟩ := acceptedAs_iff.1 haccepted
  obtain ⟨g, hg⟩ := exists_guard_of_checkShape hchecks
  obtain rfl : g = o.guard := guardOf_sel hg
  rw [decodeWave, rawOf_word0 (ofWords_toRaw o op), decodeRaw_eq_ok_iff]
  exact ⟨sh, o.guard, ⟨hentry, hpriv, hchecks, hg⟩, by rw [toWOp_toRaw, hbuild]⟩

/-- The words of an instruction that decodes are its own. -/
theorem encodeWave_of_decodeWave {cx : DecodeCtx} {w0 w1 : W64} {i : Instr} (h : decodeWave cx w0 w1 = .ok i) :
    encodeWave i = some (w0, if w0.getLsbD 8 then w1 else 0) := by
  obtain ⟨sh, g, haccepts, rfl⟩ := decodeRaw_eq_ok_iff.1 h
  rw [encodeWave_of_wave? (wave?_build haccepts.entry _), toRaw_toWOp (ofWords_rawOf w0 w1) haccepts.guard,
    word0_rawOf]
  rfl

/-- Settles O56: `decodeWave_word0_toRaw` one way, `encodeWave_of_decodeWave` the other. -/
theorem waveRoundTrip : Obligations.WaveRoundTrip :=
  ⟨fun _ _ _ _ hwave haccepted hpriv =>
      ⟨_, _, encodeWave_of_wave? hwave, decodeWave_word0_toRaw haccepted hpriv⟩,
    fun _ _ _ _ => encodeWave_of_decodeWave⟩

/-- Settles O55: ten fixed words, each decoded by evaluation. -/
theorem decodeSamples : Obligations.DecodeSamples := by
  unfold Obligations.DecodeSamples
  decide

end Sys2Proof.Proofs
end

section
/-! `MODE`, `FLAGS`, `GETID` and `GETCAP` (R20-R25, R55, R56, R139, R140). -/

namespace Sys2Proof.Proofs

open Sys2Proof Sys2Proof.Machine Sys2Proof.Claims

/-! ## `MODE` and `FLAGS` -/

theorem modeVal_of_ext {w : Wave} {o : WOp} {x : W64} (h : o.ext = some x) : w.modeVal o = x.setWidth 32 := by
  simp [Wave.modeVal, WOp.imm32, h, BitVec.setWidth_eq_extractLsb']

theorem modeVal_of_reg {w : Wave} {o : WOp} (h : o.ext = none) :
    w.modeVal o = (w.greg o.a.toNat).setWidth 32 := by
  simp [Wave.modeVal, h, BitVec.setWidth_eq_extractLsb']

section
variable {o : WOp} {s : State} {k : Nat} {w : Wave} (hat : At s k w) (hg : w.guardGrp o.guard = true)
include hat hg

theorem exec_getmode : exec (.getmode o) s =
    .next (s.retire k (w.setG o.d.toNat (w.regs.mode.setWidth 64)) o.len) := onGroup_run hat.cur hat.wave hg _

theorem exec_setmode : exec (.setmode o) s =
    .next (s.retire k { w with regs := { w.regs with mode := w.modeVal o &&& 0x00001F3F } } o.len) :=
  onGroup_run hat.cur hat.wave hg _

/-- An instruction on `FLAGS` waits for the wave's matrix instructions (R140). -/
theorem onFlags_eq (f : Wave → Wave) :
    onFlags o s f = if s.matBusy k then .next s else .next (s.retire k (f w) o.len) :=
  onGroup_run hat.cur hat.wave hg _

theorem exec_getflags : exec (.getflags o) s = if s.matBusy k then .next s else
    .next (s.retire k (w.setG o.d.toNat (w.regs.flags.setWidth 64)) o.len) := onFlags_eq hat hg _

theorem exec_setflags : exec (.setflags o) s = if s.matBusy k then .next s else
    .next (s.retire k { w with regs := { w.regs with flags := w.modeVal o &&& 0x00001F1F } } o.len) :=
  onFlags_eq hat hg _

theorem exec_clrflags : exec (.clrflags o) s = if s.matBusy k then .next s else
    .next (s.retire k { w with regs := { w.regs with flags := w.regs.flags &&& ~~~(w.modeVal o) } } o.len) :=
  onFlags_eq hat hg _

end

/-! ## A selector's value in D (R21) -/

/-- The lane whose value a cell takes: its own, and lane 0's in the group-wide form. -/
def cellLane : Machine.Cell → Nat
  | .lane l => l
  | .grp => 0

/-- The wave after `GETID` or `GETCAP`: each cell holds its value, all 64 bits of it in the group-wide form, and no
flag rises. -/
def idWritten (w : Wave) (o : WOp) (wide : Bool) (f : Nat → Nat) : Wave :=
  writeCells w (o.grp || wide) false o.d.toNat ((w.cells o).map fun c => (c, f (cellLane c), 0))

theorem idWrite_eq {o : WOp} {s : State} {k : Nat} {w : Wave} (hat : At s k w) (wide : Bool)
    (f : Nat → Wave → Nat → Nat) :
    idWrite o s wide f = .next (s.retire k (idWritten w o wide (f k w)) o.len) := by
  unfold idWrite
  rw [onWave_at hat.cur hat.wave, idWritten, writeCells, List.foldl_map]
  refine congrArg (fun x => (.next (s.retire k x o.len) : Out)) (List.foldl_ext _ _ _ fun x c hc => ?_)
  rw [orFlags_zero]
  cases c with
  | lane l => rw [(cells_lane hc).1]; rfl
  | grp => rw [(cells_grp hc).1]; rfl

/-- The vector form alone writes V registers, so the width of the group-wide form does not count. -/
theorem dstV_grp_or (w : Wave) (o : WOp) (wide : Bool) : dstV w o (o.grp || wide) = dstV w o wide := by
  cases hgrp : o.grp
  · rfl
  · funext r l
    simp [dstV, hgrp]

theorem retires_of_idWrite {i : Instr} {o : WOp} {s : State} {k : Nat} {w : Wave} {wide : Bool}
    {f : Nat → Wave → Nat → Nat} (hat : At s k w) (hexec : exec i s = idWrite o s wide f) :
    Retires i o s k w (idWritten w o wide (f k w)) wide 0 := by
  refine ⟨hexec.trans (idWrite_eq hat wide f), ?_, ⟨fun _ => rfl, rfl, rfl⟩, fun j hj => ?_⟩
  · rw [← dstV_grp_or]
    exact onlyRegs_writeCells w o _ false (fun c => (f k w (cellLane c), 0)) 0 fun _ _ => BitVec.zero_and
  · rw [State.retire_waves, Map.find_put_ne _ _ hj]

/-- An active lane holds the low bits of its value. -/
theorem idWritten_vgrp {w : Wave} {o : WOp} {l : Nat} (hl : Machine.Cell.lane l ∈ w.cells o) (wide : Bool)
    (f : Nat → Nat) : (idWritten w o wide f).vgrp (if wide then 2 else 1) o.d.toNat l
      = f l % 2 ^ (if wide then 64 else 32) := by
  have hreg := writeCells_reg w o (o.grp || wide) false o.d.toNat (fun c => (f (cellLane c), 0)) w _ hl
  rw [(cells_lane hl).1] at hreg
  rwa [idWritten, (cells_lane hl).1]

/-- G[D] holds all 64 bits of the value. -/
theorem idWritten_greg {w : Wave} {o : WOp} (hc : Machine.Cell.grp ∈ w.cells o) (wide : Bool) (f : Nat → Nat) :
    (idWritten w o wide f).greg o.d.toNat = BitVec.ofNat 64 (f 0) := by
  have hreg := writeCells_reg w o (o.grp || wide) false o.d.toNat (fun c => (f (cellLane c), 0)) w _ hc
  rw [(cells_grp hc).1] at hreg
  refine BitVec.eq_of_toNat_eq ?_
  rw [idWritten, (cells_grp hc).1, BitVec.toNat_ofNat]
  exact hreg

/-- A cell's register of 32 bits holds the low 32 bits of its value. -/
theorem idWritten_reg {w : Wave} {o : WOp} {c : Machine.Cell} (hc : c ∈ w.cells o) (f : Nat → Nat) :
    (idWritten w o false f).reg c false o.d.toNat = f (cellLane c) % 2 ^ 32 := by
  cases c with
  | lane l => exact idWritten_vgrp hc false f
  | grp =>
    change ((idWritten w o false f).greg o.d.toNat).toNat % 2 ^ 32 = _
    rw [idWritten_greg hc, BitVec.toNat_ofNat, Nat.mod_mod_of_dvd _ (by decide)]
    rfl

/-- Settles O17: the instructions on `MODE` and `FLAGS` run behind their guard, those on `FLAGS` behind the wait
of R140 too; `GETID` and `GETCAP` write a selector's value to their cells. -/
theorem modeFlagsIdentity : Obligations.ModeFlagsIdentity := by
  refine ⟨fun o s k w v hat hg hv => ?_, fun o s k w g hat hgang => ⟨?_, ?_⟩⟩
  · have hval : w.modeVal o = v := by
      cases hext : o.ext with
      | none => rw [hext] at hv; rw [modeVal_of_reg hext, hv]
      | some x => rw [hext] at hv; rw [modeVal_of_ext hext, hv]
    subst hval
    refine ⟨exec_getmode hat hg, exec_setmode hat hg, fun hfree => ⟨?_, ?_, ?_⟩, fun hbusy => ⟨?_, ?_, ?_⟩⟩
    · simp [exec_getflags hat hg, hfree]
    · simp [exec_setflags hat hg, hfree]
    · simp [exec_clrflags hat hg, hfree]
    · simp [exec_getflags hat hg, hbusy]
    · simp [exec_setflags hat hg, hbusy]
    · simp [exec_clrflags hat hg, hbusy]
  · refine ⟨_, retires_of_idWrite hat rfl, fun l hl => ?_, fun hc => idWritten_greg hc _ _⟩
    have hlane : l < 64 := w.active_lt (cells_lane hl).2
    have hwidth := w.width_le
    intro x
    have hx : x = s.idVal k w o.c.toNat l % 2 ^ (if idSel64 o.c.toNat then 64 else 32) := idWritten_vgrp hl _ _
    refine ⟨?_, ?_, ?_, ?_, ?_, ?_, ?_, ?_, ?_, ?_, ?_, hx⟩
    all_goals
      intro hsel
      rw [hx, hsel]
      simp [State.idVal, hgang, idSel64]
    all_goals omega
  · refine ⟨_, retires_of_idWrite hat rfl, fun c hc x hx => ?_⟩
    subst hx
    rw [idWritten_reg hc]
    refine ⟨?_, ?_, ?_, ?_, ?_⟩ <;> intro hsel <;> rw [hsel] <;> simp [State.capVal, hgang]

end Sys2Proof.Proofs
end

section
/-! Computing instructions and the exceptions they raise (R8, R61, R147, R150): those whose flags are none that is
enabled retire with D written, and an enabled one in some cell is the arithmetic-exception trap. -/

namespace Sys2Proof.Proofs

open Sys2Proof Sys2Proof.Machine Sys2Proof.Claims

/-! ## Flags gathered over cells and elements -/

theorem getLsbD_foldl_or {α : Type} {n : Nat} (g : α → BitVec n) (l : List α) (a : BitVec n) (i : Nat) :
    (l.foldl (fun x r => x ||| g r) a).getLsbD i = true
      ↔ a.getLsbD i = true ∨ ∃ r ∈ l, (g r).getLsbD i = true := by
  induction l generalizing a with
  | nil => simp
  | cons x l ih => simp [ih, or_assoc]

/-- No flag lies outside `df` just when every flag is one of `df`. -/
theorem and_not_eq_zero_iff {fl df : W32} :
    fl &&& ~~~df = 0 ↔ ∀ i, fl.getLsbD i = true → df.getLsbD i = true := by
  constructor
  · intro h i hi
    have hbit := congrArg (fun x : W32 => x.getLsbD i) h
    have hlt := BitVec.lt_of_getLsbD hi
    simpa [hi, hlt] using hbit
  · intro h
    refine BitVec.eq_of_getLsbD_eq fun i hlt => ?_
    have := h i
    cases hfl : fl.getLsbD i <;> simp_all

theorem eq_zero_of_getLsbD_ne {fl : W32} (h : ∀ i, fl.getLsbD i ≠ true) : fl = 0 :=
  BitVec.eq_of_getLsbD_eq fun i _ => (Bool.eq_false_iff.2 (h i)).trans BitVec.getLsbD_zero.symm

theorem foldl_or_and_not {α : Type} {g : α → W32} {l : List α} {df : W32} (h : ∀ r ∈ l, g r &&& ~~~df = 0) :
    l.foldl (fun x r => x ||| g r) 0 &&& ~~~df = 0 := by
  refine and_not_eq_zero_iff.2 fun i hi => ?_
  rcases (getLsbD_foldl_or g l 0 i).1 hi with h0 | ⟨r, hr, hbit⟩
  · simp at h0
  · exact and_not_eq_zero_iff.1 (h r hr) i hbit

/-- A condition is enabled when its flag and its bit of MODE[12:8] are set (R61). -/
theorem getLsbD_enabledOf {mode fl : W32} {i : Nat} :
    (enabledOf mode fl).getLsbD i = true ↔ i < 5 ∧ mode.getLsbD (8 + i) = true ∧ fl.getLsbD i = true := by
  have h1F : (0x1F : W32).getLsbD i = decide (i < 5) := Nat.testBit_two_pow_sub_one 5 i
  simp only [enabledOf, BitVec.getLsbD_and, BitVec.getLsbD_ushiftRight, h1F, Bool.and_eq_true, decide_eq_true_eq]
  tauto

/-- Flags of which none is enabled enable none. -/
theorem enabledOf_of_and_not {mode fl df : W32} (hoff : enabledOf mode df = 0) (h : fl &&& ~~~df = 0) :
    enabledOf mode fl = 0 := by
  refine eq_zero_of_getLsbD_ne fun i hi => ?_
  obtain ⟨h5, hmode, hfl⟩ := getLsbD_enabledOf.1 hi
  have hdf := getLsbD_enabledOf.2 ⟨h5, hmode, and_not_eq_zero_iff.1 h i hfl⟩
  rw [hoff] at hdf
  simp at hdf

@[simp] theorem enabledOf_zero (mode : W32) : enabledOf mode 0 = 0 := by simp [enabledOf]

/-- Saturation is no condition of R61. -/
@[simp] theorem enabledOf_flISAT (mode : W32) : enabledOf mode flISAT = 0 := by
  rw [enabledOf, BitVec.and_assoc]
  exact BitVec.and_zero

theorem getLsbD_perElem (t : Nat) (g : Nat → Nat × W32) (i : Nat) :
    (perElem t g).2.getLsbD i = true ↔ ∃ e < tyCount t, (g e).2.getLsbD i = true := by
  rw [perElem]
  dsimp only
  rw [getLsbD_foldl_or (fun r : Nat × W32 => r.2)]
  simp

theorem perElem_and_not (t : Nat) {g : Nat → Nat × W32} {df : W32} (h : ∀ e, (g e).2 &&& ~~~df = 0) :
    (perElem t g).2 &&& ~~~df = 0 :=
  foldl_or_and_not (g := fun r : Nat × W32 => r.2) (List.forall_mem_map.2 fun e _ => h e)

theorem flIf_and_not (b : Bool) (fl : W32) : flIf b fl &&& ~~~fl = 0 := by
  refine and_not_eq_zero_iff.2 fun i hi => ?_
  cases b
  · simp [flIf] at hi
  · exact hi

theorem getLsbD_flIf_flIV (b : Bool) : (flIf b flIV).getLsbD 0 = b := by cases b <;> decide

theorem getLsbD_flIf_flISAT (b : Bool) : (flIf b flISAT).getLsbD 10 = b := by cases b <;> decide

/-! ## Results in a register of each cell -/

/-- The wave once every cell has its result and its flags. -/
def computed (w : Wave) (o : WOp) (wide sgn : Bool) (f : Machine.Cell → Nat × W32) : Wave :=
  writeCells w wide sgn o.d.toNat ((w.cells o).map (fun c => (c, f c)))

section
variable {i : Instr} {o : WOp} {s : State} {k : Nat} {w : Wave} {wide sgn : Bool} {df : W32}

/-- An instruction none of whose conditions is enabled retires with its cells computed. -/
theorem retires_computed {f : Wave → Machine.Cell → Nat × W32} (hat : At s k w)
    (hexec : exec i s = runCells o s f (fun w c x => w.setReg c wide sgn o.d.toNat x))
    (hoff : enabledOf w.regs.mode df = 0) (hf : ∀ c ∈ w.cells o, (f w c).2 &&& ~~~df = 0) :
    Retires i o s k w (computed w o wide sgn (f w)) wide df := by
  refine ⟨hexec.trans (runCells_setReg_next hat wide sgn f fun c hc => enabledOf_of_and_not hoff (hf c hc)),
    onlyRegs_writeCells w o wide sgn (f w) df hf, ⟨fun _ => rfl, rfl, rfl⟩, fun j hj => ?_⟩
  rw [State.retire_waves, Map.find_put_ne _ _ hj]

theorem retires_computed_noFlag {f : Wave → Machine.Cell → Nat} (hat : At s k w)
    (hexec : exec i s = runCells o s (fun w c => (f w c, 0)) (fun w c x => w.setReg c wide sgn o.d.toNat x)) :
    Retires i o s k w (computed w o wide sgn (fun c => (f w c, 0))) wide 0 :=
  retires_computed hat hexec (enabledOf_zero _) fun _ _ => BitVec.zero_and

variable {f : Machine.Cell → Nat × W32} {c : Machine.Cell}

theorem computed_reg (hc : c ∈ w.cells o) :
    (computed w o wide sgn f).reg c wide o.d.toNat = (f c).1 % 2 ^ (if wide then 64 else 32) :=
  writeCells_reg w o wide sgn o.d.toNat f w c hc

theorem computed_elem {g : Machine.Cell → Nat → Nat × W32} (hc : c ∈ w.cells o) {e : Nat} (he : e < tyCount o.ty) :
    elem o.ty ((computed w o (ty64 o.ty) sgn (fun c => perElem o.ty (g c))).reg c (ty64 o.ty) o.d.toNat) e
      = (g c e).1 % 2 ^ tyWidth o.ty := by
  rw [computed_reg hc, elem_perElem o.ty _ he]

theorem computed_flags (i : Nat) : (computed w o wide sgn f).regs.flags.getLsbD i = true
    ↔ w.regs.flags.getLsbD i = true ∨ ∃ c ∈ w.cells o, (f c).2.getLsbD i = true := by
  rw [computed, writeCells_flags, BitVec.getLsbD_or, Bool.or_eq_true,
    getLsbD_foldl_or (fun r : Machine.Cell × Nat × W32 => r.2.2)]
  simp

theorem setWidth_sext32 (x : Nat) : (sext32 x).setWidth 32 = BitVec.ofNat 32 x := by
  refine BitVec.eq_of_getLsbD_eq fun i hi => ?_
  simp [sext32, BitVec.getLsbD_signExtend, hi]
  omega

/-- The result in G[D] is extended as R147 says. -/
theorem computed_grpExtended (hg : w.guardGrp o.guard = true) :
    grpExtended o (computed w o (ty64 o.ty) (decide (o.ty = 0)) f) := by
  intro hgrp h64
  have hcells : w.cells o = [.grp] := by simp [Wave.cells, hgrp, hg]
  have hG : (computed w o (ty64 o.ty) (decide (o.ty = 0)) f).greg o.d.toNat
      = if o.ty = 0 then sext32 (f .grp).1 else BitVec.ofNat 64 ((f .grp).1 % 2 ^ 32) := by
    simp [computed, hcells, writeCells, Wave.setReg, Wave.greg_setG, h64]
  rw [hG]
  split
  · rw [setWidth_sext32, sext32]
  · exact BitVec.eq_of_toNat_eq (by simp)

end

/-! ## An enabled condition (R61) -/

theorem testBit_arithDetail (en : W32) (grp : Bool) {b : Nat} (hb : b < 5) :
    (arithDetail en grp).testBit b = en.getLsbD b := by
  cases grp
  · rfl
  · rw [arithDetail, if_pos rfl, Nat.add_comm]
    exact Nat.testBit_two_pow_add_gt (i := 7) (by omega) _

/-- One enabled condition in one cell traps the wave, and nothing is written. -/
theorem runCells_traps {α : Type} {o : WOp} {s : State} {k : Nat} {w : Wave} (hat : At s k w)
    {f : Wave → Machine.Cell → α × W32} (wr : Wave → Machine.Cell → α → Wave) {c : Machine.Cell} (hc : c ∈ w.cells o)
    {b : Nat} (hb : b < 5) (hmode : w.regs.mode.getLsbD (8 + b) = true) (hfl : (f w c).2.getLsbD b = true) :
    ∃ detail lanes, runCells o s f wr = .next (takeTrap s k w
      (trapRec w 4 detail 0 s.insn.1 s.insn.2 lanes 0)) ∧ detail.testBit b = true := by
  let rs := (w.cells o).map fun c => (c, f w c)
  let en := rs.foldl (fun acc r => acc ||| enabledOf w.regs.mode r.2.2) 0
  have hen : en.getLsbD b = true :=
    (getLsbD_foldl_or (fun r : Machine.Cell × α × W32 => enabledOf w.regs.mode r.2.2) rs 0 b).2
      (.inr ⟨_, List.mem_map.2 ⟨c, hc, rfl⟩, getLsbD_enabledOf.2 ⟨hb, hmode, hfl⟩⟩)
  have hne : ¬ en = 0 := by
    intro h0
    rw [h0] at hen
    simp at hen
  let bad := (rs.filter fun r => enabledOf w.regs.mode r.2.2 != 0).map (·.1)
  refine ⟨arithDetail en o.grp, cellMask bad, ?_, (testBit_arithDetail en o.grp hb).trans hen⟩
  unfold runCells
  rw [onWave_at hat.cur hat.wave]
  exact if_neg hne

end Sys2Proof.Proofs
end

section
/-! Integer arithmetic, products and dot products (R147-R153, R165). -/

namespace Sys2Proof.Proofs

open Sys2Proof Sys2Proof.Machine Sys2Proof.Claims

/-! ## The rule of SAT (R151) -/

theorem tyRange_le (t : Nat) : (tyRange t).1 ≤ (tyRange t).2 := by
  have h1 : (1 : Int) ≤ 2 ^ (tyWidth t - 1) := one_le_pow₀ (by norm_num)
  have h2 : (1 : Int) ≤ 2 ^ tyWidth t := one_le_pow₀ (by norm_num)
  unfold tyRange
  split <;> dsimp only <;> omega

theorem clampInt_tyRange (t : Nat) (x : Int) : clampInt (tyRange t).1 (tyRange t).2 x = clampTo t x :=
  clampInt_eq (tyRange_le t) x

theorem satRule_value (t : Nat) (sat : Bool) (x : Int) :
    (satRule t sat x).1 = ((if sat then clampTo t x else x) % 2 ^ tyWidth t).toNat := by
  rw [← clampInt_tyRange]
  cases sat <;> rfl

theorem satRule_flags (t : Nat) (sat : Bool) (x : Int) :
    (satRule t sat x).2 = flIf (sat && decide (clampTo t x ≠ x)) flISAT := by
  rw [← clampInt_tyRange]
  cases sat
  · rfl
  · simp [satRule, eq_comm]

theorem satRule_and_not (t : Nat) (sat : Bool) (x : Int) : (satRule t sat x).2 &&& ~~~flISAT = 0 := by
  rw [satRule_flags]
  exact flIf_and_not _ _

/-- `ISAT` is bit 10, set where an exact result was clamped. -/
theorem satRule_isat (t : Nat) (sat : Bool) (x : Int) :
    (satRule t sat x).2.getLsbD 10 = true ↔ sat = true ∧ clampTo t x ≠ x := by
  rw [satRule_flags, getLsbD_flIf_flISAT, Bool.and_eq_true, decide_eq_true_eq]

/-- A code of n bits fits in n bits. -/
theorem toNat_emod_mod (x : Int) (n : Nat) : (x % 2 ^ n).toNat % 2 ^ n = (x % 2 ^ n).toNat := by
  have hpos : (0 : Int) < 2 ^ n := by positivity
  refine Nat.mod_eq_of_lt ?_
  rw [Int.toNat_lt (Int.emod_nonneg _ hpos.ne')]
  exact_mod_cast Int.emod_lt_of_pos x hpos

theorem tyWidth_of_le_three {t : Nat} (h : t ≤ 3) : tyWidth t = if ty64 t then 64 else 32 := by
  interval_cases t <;> rfl

/-! ## Exact results (R151-R153) -/

/-- Each of these instructions gives its exact result to the rule of SAT, element by element. -/
theorem exec_intOp {mk : WOp → Instr} (hmk : mk ∈ intOps) {o : WOp} (hlow : o.m.getLsbD 5 = false) (s : State) :
    exec (mk o) s = runAlu o s (fun w c => perElem o.ty (fun e => satRule o.ty o.sat (exactAt (mk o) o w c e))) := by
  unfold intOps at hmk
  fin_cases hmk
  · rfl
  · rfl
  · rfl
  · have habs : (fun a : Int => (a.natAbs : Int)) = fun a => |a| := funext fun a => (Int.abs_eq_natAbs a).symm
    change intOp1 o s (fun a => a.natAbs) = _
    rw [habs]
    rfl
  · change execImul o s = _
    rw [execImul, hlow]
    rfl
  · have hmin : (fun a b : Int => if b < a then b else a) = fun a b => min a b := by
      funext a b
      split <;> omega
    change intOp2 o s (fun a b => if b < a then b else a) = _
    rw [hmin]
    rfl
  · have hmax : (fun a b : Int => if a < b then b else a) = fun a b => max a b := by
      funext a b
      split <;> omega
    change intOp2 o s (fun a b => if a < b then b else a) = _
    rw [hmax]
    rfl

/-- Settles O1: an element is `satRule` of its exact result, and saturation is never enabled as an exception. -/
theorem integerArithmetic : Obligations.IntegerArithmetic := by
  intro mk hmk o s k w hat _ hlow
  refine ⟨_, retires_computed hat (exec_intOp hmk hlow s) (enabledOf_flISAT _)
    (fun c _ => perElem_and_not o.ty fun e => satRule_and_not _ _ _), fun c hc e he => ?_, ?_, computed_grpExtended⟩
  · rw [computed_elem (g := fun c e => satRule o.ty o.sat (exactAt (mk o) o w c e)) hc he, satRule_value,
      toNat_emod_mod _ _]
  · simp only [computed_flags, getLsbD_perElem, satRule_isat]
    refine or_congr_right ⟨?_, ?_⟩
    · rintro ⟨c, hc, e, he, hsat, hne⟩
      exact ⟨hsat, c, hc, e, he, hne⟩
    · rintro ⟨hsat, c, hc, e, he, hne⟩
      exact ⟨c, hc, e, he, hsat, hne⟩

/-! ## Products and dot products (R152, R165) -/

theorem dotOf_eq_dotExact (o : WOp) (w : Wave) (c : Machine.Cell) :
    dotOf o.ty (o.m.getLsbD 5) (w.opA o c) (w.opB o c) = dotExact o w c := by
  rw [dotOf, dotExact, List.sum_eq_foldl, List.foldl_map]
  refine List.foldl_ext _ _ _ fun acc e _ => ?_
  cases tySigned o.ty <;> cases o.m.getLsbD 5 <;> rfl

section
variable {o : WOp} {s : State} {k : Nat} {w : Wave} (hat : At s k w)
include hat

/-- The high half of the exact product. -/
theorem imul_hi_retires (hty : o.ty ≤ 3) (hhi : o.m.getLsbD 5 = true) :
    ∃ w', Retires (.imul o) o s k w w' (ty64 o.ty) 0 ∧ ∀ c ∈ w.cells o, w'.reg c (ty64 o.ty) o.d.toNat =
      ((elemInt o.ty (w.opA o c) 0 * elemInt o.ty (w.opB o c) 0 / 2 ^ tyWidth o.ty) % 2 ^ tyWidth o.ty).toNat := by
  refine ⟨_, retires_computed_noFlag hat (if_pos hhi), fun c hc => ?_⟩
  rw [computed_reg hc, ← tyWidth_of_le_three hty]
  exact toNat_emod_mod _ _

theorem imad_retires (hty : o.ty ≤ 3) (hnarrow : o.m.getLsbD 6 = false) :
    ∃ w', Retires (.imad o) o s k w w' (ty64 o.ty) flISAT ∧ ∀ c ∈ w.cells o,
      let x := elemInt o.ty (w.opA o c) 0 * elemInt o.ty (w.opB o c) 0 + elemInt o.ty (w.opC o c) 0
      w'.reg c (ty64 o.ty) o.d.toNat = ((if o.sat then clampTo o.ty x else x) % 2 ^ tyWidth o.ty).toNat := by
  refine ⟨_, retires_computed hat (if_neg (Bool.eq_false_iff.1 hnarrow)) (enabledOf_flISAT _)
    fun c _ => satRule_and_not _ _ _, fun c hc => ?_⟩
  rw [computed_reg hc, ← tyWidth_of_le_three hty, satRule_value]
  exact toNat_emod_mod _ _

/-- `IMAD.wide` adds a 64-bit C to the exact product. -/
theorem imad_wide_retires (hwide : o.m.getLsbD 6 = true) :
    ∃ w', Retires (.imad o) o s k w w' true 0 ∧ ∀ c ∈ w.cells o, w'.reg c true o.d.toNat =
      ((elemInt o.ty (w.opA o c) 0 * elemInt o.ty (w.opB o c) 0 + (w.reg c true o.c.toNat : Int)) % 2 ^ 64).toNat := by
  refine ⟨_, retires_computed_noFlag hat (if_pos hwide), fun c hc => ?_⟩
  rw [computed_reg hc]
  exact toNat_emod_mod _ _

theorem idp_retires {i : Instr} (hi : i ∈ [Instr.idp4 o, Instr.idp2 o]) :
    ∃ w', Retires i o s k w w' false flISAT ∧ ∀ c ∈ w.cells o,
      let x := sgnN (w.opC o c) 32 + dotExact o w c
      w'.reg c false o.d.toNat = ((if o.sat then clampTo 0 x else x) % 2 ^ 32).toNat := by
  have hexec : exec i s = idp o s := by fin_cases hi <;> rfl
  refine ⟨_, retires_computed hat hexec (enabledOf_flISAT _) fun c _ => satRule_and_not _ _ _, fun c hc => ?_⟩
  rw [computed_reg hc, satRule_value, dotOf_eq_dotExact]
  exact toNat_emod_mod _ _

end

/-- Settles O5: every result is the code of its exact value, in the width of D. -/
theorem products : Obligations.Products := fun _ _ _ _ hat =>
  ⟨imul_hi_retires hat, imad_retires hat, fun _ => imad_wide_retires hat, fun _ hi _ _ => idp_retires hat hi⟩

end Sys2Proof.Proofs
end

section
/-! Instructions on the bits of operands of one element, and the logic instructions (R154, R155). -/

namespace Sys2Proof.Proofs

open Sys2Proof Sys2Proof.Machine Sys2Proof.Claims

/-! ## Operands and results of one element -/

theorem opA_lt {o : WOp} (hty : o.ty ≤ 3) (w : Wave) (c : Machine.Cell) : w.opA o c < 2 ^ tyWidth o.ty := by
  rw [tyWidth_of_le_three hty]
  exact w.reg_lt _ _ _

theorem opC_lt {o : WOp} (hty : o.ty ≤ 3) (w : Wave) (c : Machine.Cell) : w.opC o c < 2 ^ tyWidth o.ty := by
  rw [tyWidth_of_le_three hty]
  exact w.reg_lt _ _ _

/-- Operand B fits the TYPE in each of its forms: word 1, a broadcast G register, a register (R126, R127). -/
theorem srcB_lt (w : Wave) (o : WOp) (c : Machine.Cell) (w64 : Bool) :
    w.srcB o c w64 < 2 ^ (if w64 then 64 else 32) := by
  unfold Wave.srcB
  split
  · next x _ =>
    cases w64
    · exact Nat.mod_lt _ (by decide)
    · exact x.isLt
  · split <;> exact w.reg_lt _ _ _

theorem opB_lt {o : WOp} (hty : o.ty ≤ 3) (w : Wave) (c : Machine.Cell) : w.opB o c < 2 ^ tyWidth o.ty := by
  rw [tyWidth_of_le_three hty]
  exact srcB_lt w o c _

/-- An instruction on the bits of its operands retires with the low bits of its result in D. -/
theorem retires_bits {i : Instr} {o : WOp} {s : State} {k : Nat} {w : Wave} {g : Nat → Nat → Nat → Nat}
    (hat : At s k w) (hty : o.ty ≤ 3) (hexec : exec i s = bitOp3 o s g) :
    ∃ w', Retires i o s k w w' (ty64 o.ty) 0 ∧ ∀ c ∈ w.cells o,
      w'.reg c (ty64 o.ty) o.d.toNat = g (w.opA o c) (w.opB o c) (w.opC o c) % 2 ^ tyWidth o.ty := by
  refine ⟨_, retires_computed_noFlag hat hexec, fun c hc => ?_⟩
  rw [computed_reg hc, ← tyWidth_of_le_three hty]
  exact Nat.mod_mod _ _

/-! ## Numbers given by their bits -/

/-- The sum of p(j) × 2^j over j below n is the number whose bits are p. -/
theorem foldl_bits_eq_ofBits (p : Nat → Bool) (n : Nat) :
    (List.range n).foldl (fun acc j => acc + (p j).toNat * 2 ^ j) 0 = Nat.ofBits (fun j : Fin n => p j) := by
  induction n with
  | zero => rfl
  | succ n ih =>
    rw [List.range_succ, List.foldl_append, ih]
    refine Nat.eq_of_testBit_eq fun j => ?_
    have hlt := Nat.ofBits_lt_two_pow (fun j : Fin n => p j)
    rw [List.foldl_cons, List.foldl_nil, Nat.add_comm, Nat.mul_comm, Nat.testBit_two_pow_mul_add _ hlt]
    rcases lt_trichotomy j n with h | rfl | h
    · simp [h, Nat.lt_succ_of_lt h]
    · cases hp : p j <;> simp [hp]
    · have h0 : ¬ j - n = 0 := by omega
      simp [Nat.not_lt.2 h.le, Nat.testBit_bool_toNat, h0, show n + 1 ≤ j from h]

/-! ## Logic (R154, R155) -/

theorem testBit_bool3 {t j : Nat} (hj : j < tyWidth t) (f a b c : Nat) :
    (bool3 t f a b c).testBit j
      = f.testBit ((a.testBit j).toNat + 2 * (b.testBit j).toNat + 4 * (c.testBit j).toNat) := by
  unfold bool3
  simp only [← Nat.toNat_testBit]
  rw [foldl_bits_eq_ofBits (fun j =>
    f.testBit ((a.testBit j).toNat + 2 * (b.testBit j).toNat + 4 * (c.testBit j).toNat))]
  exact Nat.testBit_ofBits_lt _ j hj

theorem testBit_xor_onesOf {t j : Nat} (hj : j < tyWidth t) (a : Nat) :
    (a ^^^ onesOf t).testBit j = !a.testBit j := by
  simp [onesOf, hj]

/-- Each logic instruction is a function of its operands' bits, applied at every bit. -/
theorem exec_logicOp {mk : WOp → Instr} (hmk : mk ∈ logicOps) (o : WOp) (s : State) :
    ∃ g, exec (mk o) s = bitOp3 o s g ∧ ∀ a b c, ∀ j < tyWidth o.ty,
      (g a b c).testBit j = logicBit (mk o) (a.testBit j) (b.testBit j) (c.testBit j) := by
  unfold logicOps at hmk
  fin_cases hmk
  · exact ⟨fun a b _ => a &&& b, rfl, fun a b _ j _ => Nat.testBit_and a b j⟩
  · exact ⟨fun a b _ => a ||| b, rfl, fun a b _ j _ => Nat.testBit_or a b j⟩
  · exact ⟨fun a b _ => a ^^^ b, rfl, fun a b _ j _ => Nat.testBit_xor a b j⟩
  · exact ⟨fun a _ _ => a ^^^ onesOf o.ty, rfl, fun a _ _ j hj => testBit_xor_onesOf hj a⟩
  · refine ⟨fun a b _ => a &&& (b ^^^ onesOf o.ty), rfl, fun a b _ j hj => ?_⟩
    rw [Nat.testBit_and, testBit_xor_onesOf hj]
    rfl
  · exact ⟨fun a b c => bool3 o.ty o.table.toNat a b c, rfl, fun a b c j hj => testBit_bool3 hj _ a b c⟩

/-- Settles O2: below the width, the bits of a result are those that its function gives. -/
theorem logicBits : Obligations.LogicBits := by
  intro mk hmk o s k w hat hty
  obtain ⟨g, hexec, hbit⟩ := exec_logicOp hmk o s
  obtain ⟨w', hret, hreg⟩ := retires_bits hat hty hexec
  refine ⟨w', hret, fun c hc j hj => ?_⟩
  rw [hreg c hc, Nat.testBit_mod_two_pow, decide_eq_true hj, Bool.true_and, hbit _ _ _ j hj]

end Sys2Proof.Proofs
end

section
/-! Shifts and field instructions, bit by bit (R156-R159). -/

namespace Sys2Proof.Proofs

open Sys2Proof Sys2Proof.Machine Sys2Proof.Claims

/-! ## Shifts (R156, R157) -/

theorem testBit_shl (w a n : Nat) {j : Nat} (hj : j < w) :
    (if n < w then a * 2 ^ n else 0).testBit j = (decide (n ≤ j) && a.testBit (j - n)) := by
  split
  · exact Nat.testBit_mul_two_pow a j n
  · simp [show ¬ n ≤ j by omega]

theorem testBit_shr {w a : Nat} (ha : a < 2 ^ w) (n j : Nat) :
    (if n < w then a / 2 ^ n else 0).testBit j = (decide (j + n < w) && a.testBit (j + n)) := by
  have hhigh : ¬ j + n < w → a.testBit (j + n) = false := fun h =>
    Nat.testBit_lt_two_pow (ha.trans_le (Nat.pow_le_pow_right two_pos (Nat.not_lt.1 h)))
  split
  · rw [Nat.testBit_div_two_pow]
    by_cases h : j + n < w <;> simp [h, hhigh]
  · simp [show ¬ j + n < w by omega]

theorem sgnN_eq_toInt (x n : Nat) : sgnN x (n + 1) = (BitVec.ofNat (n + 1) x).toInt := by
  rw [BitVec.toInt_eq_toNat_cond, BitVec.toNat_ofNat]
  unfold sgnN
  have htop : x % 2 ^ (n + 1) < 2 ^ n ↔ 2 * (x % 2 ^ (n + 1)) < 2 ^ (n + 1) := by rw [pow_succ]; omega
  simp only [Nat.add_sub_cancel, htop]
  norm_cast

theorem intCode_eq_toNat (w : Nat) (x : Int) : intCode w x = (BitVec.ofInt w x).toNat := by
  rw [intCode, BitVec.toNat_ofInt]
  simp

/-- From the width on, an arithmetic shift gives the sign at every bit. -/
theorem testBit_sarBits {w a : Nat} (n : Nat) {j : Nat} (hj : j < w) :
    (sarBits w a n).testBit j = if j + n < w then a.testBit (j + n) else a.testBit (w - 1) := by
  obtain ⟨v, rfl⟩ : ∃ v, w = v + 1 := ⟨w - 1, by omega⟩
  have hshift : sarBits (v + 1) a n = ((BitVec.ofNat (v + 1) a).sshiftRight (min n (v + 1))).toNat := by
    have hmin : (if n < v + 1 then n else v + 1) = min n (v + 1) := by split <;> omega
    rw [sarBits, intCode_eq_toNat, sgnN_eq_toInt, hmin, BitVec.sshiftRight, Int.shiftRight_eq_div_pow]
    norm_cast
  rw [hshift, BitVec.testBit_toNat, BitVec.getLsbD_sshiftRight, BitVec.msb_eq_getLsbD_last]
  simp only [BitVec.getLsbD_ofNat, show ¬ v + 1 ≤ j by omega]
  by_cases hin : j + n < v + 1
  · simp [show min n (v + 1) = n by omega, hin, Nat.add_comm n j]
  · simp [hin, show ¬ min n (v + 1) + j < v + 1 by omega]

/-- A bit of the pair B:A (R157). -/
theorem testBit_pair {w a b : Nat} (ha : a < 2 ^ w) (hb : b < 2 ^ w) (j : Nat) :
    (b * 2 ^ w + a).testBit j = pairBit w a b j := by
  rw [Nat.mul_comm, Nat.testBit_two_pow_mul_add _ ha, pairBit]
  split
  · rfl
  · by_cases h : j < 2 * w
    · simp [h]
    · have hhigh : b.testBit (j - w) = false :=
        Nat.testBit_lt_two_pow (hb.trans_le (Nat.pow_le_pow_right two_pos (by omega)))
      simp [h, hhigh]

theorem testBit_funnel {w a b j : Nat} (ha : a < 2 ^ w) (hb : b < 2 ^ w) (hj : j < w) (left : Bool) (n : Nat) :
    (funnel w left a b n).testBit j
      = if left then pairBit w a b (j + w - min n w) else pairBit w a b (j + min n w) := by
  have hmin : (if n < w then n else w) = min n w := by split <;> omega
  unfold funnel
  simp only [hmin]
  cases left
  · simp [hj, Nat.testBit_div_two_pow, testBit_pair ha hb]
  · simp [hj, Nat.testBit_div_two_pow, Nat.testBit_mul_two_pow, testBit_pair ha hb, show min n w ≤ j + w by omega]

theorem testBit_brev {w j : Nat} (hj : j < w) (a : Nat) :
    ((List.range w).foldl (fun acc i => acc + a / 2 ^ i % 2 * 2 ^ (w - 1 - i)) 0).testBit j
      = a.testBit (w - 1 - j) := by
  have hsum : ∀ f : Nat → Nat, (List.range w).foldl (fun acc i => acc + f i) 0 = ∑ i ∈ Finset.range w, f i := by
    intro f
    generalize w = n
    induction n with
    | zero => rfl
    | succ n ih => rw [List.range_succ, List.foldl_append, ih, Finset.sum_range_succ]; rfl
  have hrev : ∑ i ∈ Finset.range w, a / 2 ^ i % 2 * 2 ^ (w - 1 - i)
      = ∑ i ∈ Finset.range w, (a.testBit (w - 1 - i)).toNat * 2 ^ i := by
    rw [← Finset.sum_range_reflect]
    refine Finset.sum_congr rfl fun i hi => ?_
    have hi := Finset.mem_range.1 hi
    rw [← Nat.toNat_testBit, show w - 1 - (w - 1 - i) = i by omega]
  rw [hsum, hrev, ← hsum, foldl_bits_eq_ofBits (fun i => a.testBit (w - 1 - i))]
  exact Nat.testBit_ofBits_lt _ j hj

/-! ## Fields (R158) -/

/-- A field of n bits in w bits, extended with its sign. -/
theorem testBit_extend {w n x j : Nat} (hn : n ≠ 0) (hj : j < w) :
    (intCode w (sgnN x n)).testBit j = if j < n then x.testBit j else x.testBit (n - 1) := by
  obtain ⟨m, rfl⟩ := Nat.exists_eq_succ_of_ne_zero hn
  have hext : intCode w (sgnN x (m + 1)) = ((BitVec.ofNat (m + 1) x).signExtend w).toNat := by
    rw [intCode_eq_toNat, sgnN_eq_toInt, BitVec.signExtend]
  rw [Nat.succ_eq_add_one, hext, BitVec.testBit_toNat, BitVec.getLsbD_signExtend, BitVec.msb_eq_getLsbD_last]
  simp only [BitVec.getLsbD_ofNat, hj]
  by_cases h : j < m + 1 <;> simp [h]

theorem testBit_bfe {w a b j : Nat} (sgn : Bool) (hj : j < w) :
    (bfe w sgn a b).testBit j =
      let t := min (b % 256 + b / 256 % 256) w
      if b / 256 % 256 = 0 ∨ w ≤ b % 256 then false
      else if b % 256 + j < t then a.testBit (b % 256 + j) else sgn && a.testBit (t - 1) := by
  have hmin : (if b % 256 + b / 256 % 256 < w then b % 256 + b / 256 % 256 else w)
      = min (b % 256 + b / 256 % 256) w := by split <;> omega
  unfold bfe
  simp only [Nat.reducePow, hmin]
  split
  · exact Nat.zero_testBit j
  · next hfield =>
    generalize ht : min (b % 256 + b / 256 % 256) w = t
    have hn : t - b % 256 ≠ 0 := by omega
    have hbit : ∀ i, (a / 2 ^ (b % 256) % 2 ^ (t - b % 256)).testBit i
        = (decide (i < t - b % 256) && a.testBit (b % 256 + i)) := by
      intro i
      rw [Nat.testBit_mod_two_pow, Nat.testBit_div_two_pow, Nat.add_comm i]
    have hin : b % 256 + j < t ↔ j < t - b % 256 := by omega
    cases sgn
    · by_cases h : j < t - b % 256 <;> simp [hbit, hin, h]
    · have htop : b % 256 + (t - b % 256 - 1) = t - 1 := by omega
      have hlast : t - b % 256 - 1 < t - b % 256 := by omega
      rw [if_pos rfl, testBit_extend hn hj, hbit, hbit, htop]
      by_cases h : j < t - b % 256 <;> simp [hin, h, hlast]

theorem testBit_bfi {w a b c j : Nat} (hj : j < w) :
    (bfi w a b c).testBit j =
      let t := min (b % 256 + b / 256 % 256) w
      if b / 256 % 256 = 0 ∨ w ≤ b % 256 then c.testBit j
      else if b % 256 ≤ j ∧ j < t then a.testBit (j - b % 256) else c.testBit j := by
  have hmin : (if b % 256 + b / 256 % 256 < w then b % 256 + b / 256 % 256 else w)
      = min (b % 256 + b / 256 % 256) w := by split <;> omega
  unfold bfi
  simp only [Nat.reducePow, hmin]
  split
  · rfl
  · simp only [Nat.testBit_or, Nat.testBit_and, Nat.testBit_xor, Nat.testBit_mul_two_pow, Nat.testBit_two_pow_sub_one, hj]
    split
    · next h =>
      simp [h.1, show j - b % 256 < min (b % 256 + b / 256 % 256) w - b % 256 by omega]
    · next h =>
      by_cases h1 : b % 256 ≤ j
      · simp [h1, show ¬ j - b % 256 < min (b % 256 + b / 256 % 256) w - b % 256 by omega]
      · simp [h1]

theorem funnel_mod (w : Nat) (left : Bool) (a b n : Nat) : funnel w left a b n % 2 ^ w = funnel w left a b n := by
  unfold funnel
  dsimp only
  split <;> exact Nat.mod_mod _ _

/-- `SHF` takes its amount from its C field or from register C (R157). -/
theorem exec_shf (o : WOp) (s : State) : exec (.shf o) s = bitOp3 o s (fun a b c =>
    funnel (tyWidth o.ty) (o.m.getLsbD 5) a b (if o.m.getLsbD 6 then o.c.toNat else c % 2 ^ 32)) := by
  unfold bitOp3
  simp only [funnel_mod]
  rfl

/-- Each of these instructions gives the bits of R156-R159, from operands of the TYPE's width. -/
theorem exec_shiftOp {mk : WOp → Instr} (hmk : mk ∈ shiftOps) (o : WOp) (s : State) :
    ∃ g, exec (mk o) s = bitOp3 o s g ∧ ∀ a b c, ∀ j < tyWidth o.ty, a < 2 ^ tyWidth o.ty → b < 2 ^ tyWidth o.ty →
      (g a b c).testBit j = shiftBit (mk o) (tyWidth o.ty) a b c j := by
  unfold shiftOps at hmk
  fin_cases hmk
  · exact ⟨fun a b _ => if shAmount b < tyWidth o.ty then a * 2 ^ shAmount b else 0, rfl,
      fun a b _ j hj _ _ => testBit_shl _ a _ hj⟩
  · exact ⟨fun a b _ => if shAmount b < tyWidth o.ty then a / 2 ^ shAmount b else 0, rfl,
      fun a b _ j _ ha _ => testBit_shr ha _ j⟩
  · exact ⟨fun a b _ => sarBits (tyWidth o.ty) a (shAmount b), rfl, fun a b _ j hj _ _ => testBit_sarBits _ hj⟩
  · exact ⟨_, exec_shf o s, fun a b c j hj ha hb => testBit_funnel ha hb hj _ _⟩
  · exact ⟨fun a _ _ => (List.range (tyWidth o.ty)).foldl (fun acc i =>
      acc + a / 2 ^ i % 2 * 2 ^ (tyWidth o.ty - 1 - i)) 0, rfl, fun a _ _ j hj _ _ => testBit_brev hj a⟩
  · exact ⟨fun a b _ => bfe (tyWidth o.ty) (tySigned o.ty) a b, rfl, fun a b _ j hj _ _ => testBit_bfe _ hj⟩
  · exact ⟨fun a b c => bfi (tyWidth o.ty) a b c, rfl, fun a b c j hj _ _ => testBit_bfi hj⟩

/-- Settles O3: below the width, the bits of a result are those of the operands that the amount or field names. -/
theorem shiftAndFieldBits : Obligations.ShiftAndFieldBits := by
  intro mk hmk o s k w hat hty
  obtain ⟨g, hexec, hbit⟩ := exec_shiftOp hmk o s
  obtain ⟨w', hret, hreg⟩ := retires_bits hat hty hexec
  refine ⟨w', hret, fun c hc j hj => ?_⟩
  rw [hreg c hc, Nat.testBit_mod_two_pow, decide_eq_true hj, Bool.true_and,
    hbit _ _ _ j hj (opA_lt hty w c) (opB_lt hty w c)]

end Sys2Proof.Proofs
end

section
/-! Counts, moves and selection (R159-R161). -/

namespace Sys2Proof.Proofs

open Sys2Proof Sys2Proof.Machine Sys2Proof.Claims

/-! ## Counts (R159) -/

theorem popcount_eq (w a : Nat) : popcount w a = ((List.range w).filter (fun j => a.testBit j)).length := by
  refine congrArg List.length (List.filter_congr fun j _ => ?_)
  rw [bitN, Nat.testBit_eq_decide_div_mod_eq]

theorem popcount_le (w a : Nat) : popcount w a ≤ w :=
  (List.length_filter_le _ _).trans_eq List.length_range

/-- The zeros above the highest one bit of w bits (R159). -/
theorem clz_spec {w a n : Nat} (ha : a < 2 ^ w) (hn : n = if a = 0 then w else w - 1 - Nat.log2 a) :
    n ≤ w ∧ a < 2 ^ (w - n) ∧ (n < w → a.testBit (w - 1 - n) = true) := by
  subst hn
  split
  · next h => simp [h]
  · next h =>
    have hlog : Nat.log2 a < w := (Nat.log2_lt h).2 ha
    have hle := Nat.log2_self_le h
    refine ⟨by omega, ?_, fun _ => ?_⟩
    · rw [show w - (w - 1 - Nat.log2 a) = Nat.log2 a + 1 by omega]
      exact Nat.lt_log2_self
    · rw [show w - 1 - (w - 1 - Nat.log2 a) = Nat.log2 a by omega]
      exact Nat.testBit_log2 h

theorem toNat_signExtend_mod {m v n : Nat} (x : BitVec m) (h : n ≤ v) :
    (x.signExtend v).toNat % 2 ^ n = (x.toInt % 2 ^ n).toNat := by
  have hdvd : (2 : Int) ^ n ∣ 2 ^ v := pow_dvd_pow 2 h
  have hpos : (0 : Int) < 2 ^ v := by positivity
  have hposn : (0 : Int) < 2 ^ n := by positivity
  rw [BitVec.signExtend, BitVec.toNat_ofInt]
  zify
  rw [Int.toNat_of_nonneg (Int.emod_nonneg _ hpos.ne'), Int.toNat_of_nonneg (Int.emod_nonneg _ hposn.ne'),
    Int.emod_emod_of_dvd _ hdvd]

section
variable {o : WOp} {s : State} {k : Nat} {w : Wave} (hat : At s k w)
include hat

theorem popc_retires (hty : o.ty ≤ 3) : ∃ w', Retires (.popc o) o s k w w' (ty64 o.ty) 0 ∧ ∀ c ∈ w.cells o,
    w'.reg c (ty64 o.ty) o.d.toNat
      = ((List.range (tyWidth o.ty)).filter (fun j => (w.opA o c).testBit j)).length := by
  obtain ⟨w', hret, hreg⟩ := retires_bits (i := .popc o)
    (g := fun a _ _ => popcount (tyWidth o.ty) a) hat hty rfl
  refine ⟨w', hret, fun c hc => ?_⟩
  rw [hreg c hc, Nat.mod_eq_of_lt ((popcount_le _ _).trans_lt Nat.lt_two_pow_self), popcount_eq]

theorem clz_retires (hty : o.ty ≤ 3) : ∃ w', Retires (.clz o) o s k w w' (ty64 o.ty) 0 ∧ ∀ c ∈ w.cells o,
    let n := w'.reg c (ty64 o.ty) o.d.toNat
    n ≤ tyWidth o.ty ∧ w.opA o c < 2 ^ (tyWidth o.ty - n)
      ∧ (n < tyWidth o.ty → (w.opA o c).testBit (tyWidth o.ty - 1 - n) = true) := by
  obtain ⟨w', hret, hreg⟩ := retires_bits (i := .clz o)
    (g := fun a _ _ => if a = 0 then tyWidth o.ty else tyWidth o.ty - 1 - Nat.log2 a) hat hty rfl
  refine ⟨w', hret, fun c hc => clz_spec (opA_lt hty w c) ?_⟩
  rw [hreg c hc]
  have := Nat.lt_two_pow_self (n := tyWidth o.ty)
  refine Nat.mod_eq_of_lt ?_
  split <;> omega

/-! ## Moves and selection (R160, R161) -/

/-- An instruction that copies a value of D's width retires with it in D. -/
theorem copy_retires {i : Instr} {f : Wave → Machine.Cell → Nat} (hexec : exec i s = runAlu o s (fun w c => (f w c, 0)))
    (hf : ∀ c, f w c < 2 ^ (if ty64 o.ty then 64 else 32)) :
    ∃ w', Retires i o s k w w' (ty64 o.ty) 0 ∧ ∀ c ∈ w.cells o, w'.reg c (ty64 o.ty) o.d.toNat = f w c :=
  ⟨_, retires_computed_noFlag hat hexec, fun c hc => (computed_reg hc).trans (Nat.mod_eq_of_lt (hf c))⟩

theorem movi_retires (h : o.ty ≤ 3 ∨ o.ext.isSome = true) :
    ∃ w', Retires (.movi o) o s k w w' (ty64 o.ty) 0 ∧ ∀ c ∈ w.cells o, w'.reg c (ty64 o.ty) o.d.toNat =
      match o.ext with
      | some x => x.toNat % 2 ^ (if ty64 o.ty then 64 else 32)
      | none => (o.c.toInt % 2 ^ tyWidth o.ty).toNat := by
  refine ⟨_, retires_computed_noFlag hat rfl, fun c hc => ?_⟩
  rw [computed_reg hc]
  cases hext : o.ext with
  | some x =>
    simp only [Wave.opB, Wave.srcB, hext, Option.isSome_some, if_true]
    cases ty64 o.ty
    · exact Nat.mod_mod _ _
    · rfl
  | none =>
    have hty : o.ty ≤ 3 := by simpa [hext] using h
    have h64 : tyWidth o.ty ≤ 64 := by rw [tyWidth_of_le_three hty]; split <;> decide
    rw [← tyWidth_of_le_three hty]
    simp only [Option.isSome_none, Bool.false_eq_true, if_false, Nat.mod_mod]
    exact toNat_signExtend_mod o.c h64

end

/-- Settles O4: the counts are at most the width, so they fit in D, and the moves copy values of D's width. -/
theorem countsAndMoves : Obligations.CountsAndMoves := by
  intro o s k w hat
  refine ⟨popc_retires hat, clz_retires hat, copy_retires (f := fun w c => w.opB o c) hat rfl fun c => ?_,
    movi_retires hat,
    copy_retires (f := fun w c => if w.srcPC c o.c then w.opA o c else w.opB o c) hat rfl fun c => ?_⟩
  · exact srcB_lt w o c _
  · split
    · exact w.reg_lt _ _ _
    · exact srcB_lt w o c _

end Sys2Proof.Proofs
end

section
/-! Comparisons and predicate logic (R61, R162-R164). -/

namespace Sys2Proof.Proofs

open Sys2Proof Sys2Proof.Machine Sys2Proof.Claims

/-! ## Results in a predicate of each cell -/

/-- The wave once every cell has its predicate and its flags. -/
def computedPred (w : Wave) (d : Nat) (f : Machine.Cell → Bool × W32) (cs : List Machine.Cell) : Wave :=
  cs.foldl (fun x c => (x.setPred c d (f c).1).orFlags (f c).2) w

theorem setPred_regs (w : Wave) (c : Machine.Cell) (d : Nat) (b : Bool) (fl : W32) :
    ∃ R : Regs, (w.setPred c d b).orFlags fl = { w with regs := R } ∧ R.v = w.regs.v ∧ R.g = w.regs.g
      ∧ R.c = w.regs.c ∧ R.q = w.regs.q ∧ R.mode = w.regs.mode ∧ R.flags = w.regs.flags ||| fl := by
  cases c <;> exact ⟨_, rfl, rfl, rfl, rfl, rfl, rfl, rfl⟩

section
variable (d : Nat) (f : Machine.Cell → Bool × W32) (cs : List Machine.Cell)

/-- A predicate result changes predicates and `FLAGS` alone. -/
theorem computedPred_regs (w : Wave) :
    ∃ R : Regs, computedPred w d f cs = { w with regs := R } ∧ R.v = w.regs.v ∧ R.g = w.regs.g
      ∧ R.c = w.regs.c ∧ R.q = w.regs.q ∧ R.mode = w.regs.mode
      ∧ R.flags = cs.foldl (fun a c => a ||| (f c).2) w.regs.flags := by
  induction cs generalizing w with
  | nil => exact ⟨w.regs, rfl, rfl, rfl, rfl, rfl, rfl, rfl⟩
  | cons c cs ih =>
    obtain ⟨R0, h0, v0, g0, c0, q0, m0, fl0⟩ := setPred_regs w c d (f c).1 (f c).2
    obtain ⟨R, h, hv, hg, hc, hq, hm, hfl⟩ := ih ((w.setPred c d (f c).1).orFlags (f c).2)
    rw [h0] at hv hg hc hq hm hfl
    refine ⟨R, ?_, hv.trans v0, hg.trans g0, hc.trans c0, hq.trans q0, hm.trans m0, ?_⟩
    · refine Eq.trans h ?_
      rw [h0]
    · refine hfl.trans ?_
      dsimp only
      rw [fl0]
      rfl

theorem computedPred_preg (w : Wave) (hcs : ∀ l, .lane l ∈ cs → l < 64) (r l : Nat) :
    lane ((computedPred w d f cs).preg r) l
      = if r = d ∧ .lane l ∈ cs then (f (.lane l)).1 else lane (w.preg r) l := by
  induction cs generalizing w with
  | nil => simp [computedPred]
  | cons c cs ih =>
    have hrest := ih ((w.setPred c d (f c).1).orFlags (f c).2) fun m hm => hcs m (List.mem_cons_of_mem _ hm)
    refine hrest.trans ?_
    rw [Wave.preg_orFlags]
    cases c with
    | grp => simp [Wave.setPred]
    | lane m =>
      rw [Wave.setPred, Wave.lane_setPL _ _ _ _ _ _ (hcs m List.mem_cons_self)]
      by_cases hd : r = d <;> by_cases hl : l = m <;> simp [hd, hl]

theorem computedPred_gpred (w : Wave) (hd : .grp ∈ cs → d - 64 < 16) (r : Nat) :
    (computedPred w d f cs).gpred r = if r = d - 64 ∧ .grp ∈ cs then (f .grp).1 else w.gpred r := by
  induction cs generalizing w with
  | nil => simp [computedPred]
  | cons c cs ih =>
    have hrest := ih ((w.setPred c d (f c).1).orFlags (f c).2) fun hm => hd (List.mem_cons_of_mem _ hm)
    refine hrest.trans ?_
    rw [Wave.gpred_orFlags]
    cases c with
    | lane m => simp [Wave.setPred, Wave.setPL, Wave.gpred, Wave.setP, Regs.setP]
    | grp =>
      rw [Wave.setPred, Wave.gpred_setGP]
      by_cases hr : r = d - 64 <;> simp [hr, hd]

end

section
variable {i : Instr} {o : WOp} {s : State} {k : Nat} {w : Wave} {df : W32} {f : Wave → Machine.Cell → Bool × W32}

theorem runPred_next (hat : At s k w) (hf : ∀ c ∈ w.cells o, enabledOf w.regs.mode (f w c).2 = 0) :
    runPred o s f = .next (s.retire k (computedPred w o.d.toNat (f w) (w.cells o)) o.len) := by
  have hnone : ((w.cells o).map (fun c => (c, f w c))).foldl
      (fun acc r => acc ||| enabledOf w.regs.mode r.2.2) 0 = 0 := by
    refine eq_zero_of_getLsbD_ne fun i hi => ?_
    rcases (getLsbD_foldl_or (fun r : Machine.Cell × Bool × W32 => enabledOf w.regs.mode r.2.2) _ 0 i).1 hi with
      h0 | ⟨r, hr, hbit⟩
    · simp at h0
    · obtain ⟨c, hc, rfl⟩ := List.mem_map.1 hr
      simp [hf c hc] at hbit
  unfold runPred runCells computedPred
  rw [onWave_at hat.cur hat.wave]
  dsimp only
  rw [if_pos hnone, List.foldl_map]

/-- D of the cells that are written is a predicate that its form has (R125). -/
theorem pred_of_predDst (hd : predDst o) :
    (∀ l, Machine.Cell.lane l ∈ w.cells o → o.d.toNat < 48)
      ∧ (Machine.Cell.grp ∈ w.cells o → o.d.toNat - 64 < 16) := by
  unfold predDst at hd
  refine ⟨fun l hl => ?_, fun hg => ?_⟩
  · simpa [(cells_lane hl).1] using hd
  · rw [if_pos (cells_grp hg).1] at hd
    omega

theorem onlyRegs_computedPred (hd : predDst o) (hf : ∀ c ∈ w.cells o, (f w c).2 &&& ~~~df = 0) :
    OnlyRegs w (computedPred w o.d.toNat (f w) (w.cells o)) never2 never1 (dstP w o) (dstGP w o) df := by
  obtain ⟨R, heq, hv, hg, hc, hq, hm, hfl⟩ := computedPred_regs o.d.toNat (f w) (w.cells o) w
  refine ⟨by rw [heq], fun r l _ _ => ?_, fun r _ => ?_, fun r l hdp => ?_, fun r hgp => ?_, by rw [heq, hc],
    by rw [heq, hq], by rw [heq, hm], ?_⟩
  · rw [heq]; simp only [Wave.vreg, hv]
  · rw [heq]; simp only [Wave.greg, hg]
  · rw [computedPred_preg _ _ _ _ (fun m hm => w.active_lt (cells_lane hm).2), if_neg]
    rintro ⟨rfl, hl⟩
    exact hdp ⟨(cells_lane hl).1, (cells_lane hl).2, rfl⟩
  · rw [computedPred_gpred _ _ _ _ (pred_of_predDst hd).2, if_neg]
    rintro ⟨rfl, hg⟩
    exact hgp ⟨(cells_grp hg).1, (cells_grp hg).2, rfl⟩
  · refine ⟨(w.cells o).foldl (fun a c => a ||| (f w c).2) 0, ?_, foldl_or_and_not hf⟩
    rw [heq]
    refine hfl.trans (BitVec.eq_of_getLsbD_eq fun i _ => ?_)
    rw [Bool.eq_iff_iff, getLsbD_foldl_or (fun c => (f w c).2), BitVec.getLsbD_or, Bool.or_eq_true,
      getLsbD_foldl_or (fun c => (f w c).2)]
    simp

theorem computedPred_srcP (hd : predDst o) {g : Machine.Cell → Bool × W32} {c : Machine.Cell} (hc : c ∈ w.cells o) :
    (computedPred w o.d.toNat g (w.cells o)).srcP c o.d.toNat = (g c).1 := by
  obtain ⟨hlane, hgrp⟩ := pred_of_predDst (w := w) hd
  cases c with
  | lane l =>
    rw [Wave.srcP, Wave.predAt, if_pos (hlane l hc),
      computedPred_preg _ _ _ _ (fun m hm => w.active_lt (cells_lane hm).2), if_pos ⟨rfl, hc⟩]
  | grp => rw [Wave.srcP, computedPred_gpred _ _ _ _ hgrp, if_pos ⟨rfl, hc⟩]

theorem computedPred_flags {g : Machine.Cell → Bool × W32} (d i : Nat) :
    (computedPred w d g (w.cells o)).regs.flags.getLsbD i = true
      ↔ w.regs.flags.getLsbD i = true ∨ ∃ c ∈ w.cells o, (g c).2.getLsbD i = true := by
  obtain ⟨R, heq, -, -, -, -, -, hfl⟩ := computedPred_regs d g (w.cells o) w
  rw [heq]
  dsimp only
  rw [hfl, getLsbD_foldl_or (fun c => (g c).2)]

/-- A predicate instruction none of whose conditions is enabled retires with its predicate in D. -/
theorem retires_computedPred (hat : At s k w) (hd : predDst o) (hexec : exec i s = runPred o s f)
    (hoff : enabledOf w.regs.mode df = 0) (hf : ∀ c ∈ w.cells o, (f w c).2 &&& ~~~df = 0) :
    RetiresPred i o s k w (computedPred w o.d.toNat (f w) (w.cells o)) df := by
  refine ⟨hexec.trans (runPred_next hat fun c hc => enabledOf_of_and_not hoff (hf c hc)),
    onlyRegs_computedPred hd hf, ⟨fun _ => rfl, rfl, rfl⟩, fun j hj => ?_⟩
  rw [State.retire_waves, Map.find_put_ne _ _ hj]

end

/-! ## Conditions (R162, R163) -/

theorem icond_iff {n : Nat} (hn : n ≤ 5) (a b : Int) : icond n a b = true ↔ intRel n a b := by
  interval_cases n <;> simp [icond, intRel]

/-- A condition's bits are FN[3:0]. -/
theorem toNat_cond (fn : BitVec 5) : (fn.extractLsb' 0 4).toNat = fn.toNat % 16 := by
  simp [BitVec.extractLsb'_toNat]

theorem isSig_iff {a : Fl} : a.isSig = true ↔ a = .nan true := by cases a <;> simp [Fl.isSig]

/-- Of two values that are no NaN the comparison tells less, equal and greater apart by their exact values. -/
theorem flCmp_iff {a b : Fl} (ha : a.isNan = false) (hb : b.isNan = false) :
    (flCmp a b = .lt ↔ fltLess a b) ∧ (flCmp a b = .eq ↔ fltSame a b) ∧ (flCmp a b = .gt ↔ fltLess b a) := by
  cases a with
  | nan => cases ha
  | inf n1 =>
    cases b with
    | nan => cases hb
    | inf n2 => cases n1 <;> cases n2 <;> simp [flCmp, fltLess, fltSame]
    | fin n2 m2 e2 => cases n1 <;> simp [flCmp, fltLess, fltSame]
  | fin n1 m1 e1 =>
    cases b with
    | nan => cases hb
    | inf n2 => cases n2 <;> simp [flCmp, fltLess, fltSame]
    | fin n2 m2 e2 =>
      have hdiff : ((addExact n1 m1 e1 (!n2) m2 e2).1 : ℚ) * 2 ^ (addExact n1 m1 e1 (!n2) m2 e2).2
          = flQ (.fin n1 m1 e1) - flQ (.fin n2 m2 e2) := by
        rw [addExact_value, sub_eq_add_neg]
        exact congrArg _ (flQ_negate (.fin n2 m2 e2))
      have hpos : (0 : ℚ) < 2 ^ (addExact n1 m1 e1 (!n2) m2 e2).2 := zpow_pos two_pos _
      simp only [flCmp, fltLess, fltSame]
      generalize (addExact n1 m1 e1 (!n2) m2 e2).1 = x at hdiff ⊢
      have hlt : flQ (.fin n1 m1 e1) < flQ (.fin n2 m2 e2) ↔ x < 0 := by
        rw [← sub_neg, ← hdiff, mul_neg_iff, Int.cast_lt_zero]
        simp [hpos, hpos.not_gt]
      have heq : flQ (.fin n1 m1 e1) = flQ (.fin n2 m2 e2) ↔ x = 0 := by
        rw [← sub_eq_zero, ← hdiff, mul_eq_zero_iff_right hpos.ne', Int.cast_eq_zero]
      have hgt : flQ (.fin n2 m2 e2) < flQ (.fin n1 m1 e1) ↔ 0 < x := by
        rw [← sub_pos, ← hdiff, mul_pos_iff_of_pos_right hpos, Int.cast_pos]
      rw [hlt, heq, hgt]
      rcases lt_trichotomy x 0 with hx | rfl | hx
      · simp [hx, hx.ne, hx.le]
      · simp
      · simp [hx, hx.ne', hx.le]

/-- A NaN is neither less nor greater than a value, nor equal to it. -/
theorem not_fltLess_of_isNan {a b : Fl} (h : a.isNan = true ∨ b.isNan = true) : ¬ fltLess a b := by
  cases a <;> cases b <;> simp [Fl.isNan] at h <;> simp [fltLess]

theorem not_fltSame_of_isNan {a b : Fl} (h : a.isNan = true ∨ b.isNan = true) : ¬ fltSame a b := by
  cases a <;> cases b <;> simp [Fl.isNan] at h <;> simp [fltSame]

/-- What `FCMP` asks of its operands, in the words of R163. -/
theorem ordered_iff (a b : Fl) :
    ((!(a.isNan || b.isNan) && decide (flCmp a b = .lt)) = true ↔ fltLess a b)
      ∧ ((!(a.isNan || b.isNan) && decide (flCmp a b = .eq)) = true ↔ fltSame a b)
      ∧ ((!(a.isNan || b.isNan) && decide (flCmp a b = .gt)) = true ↔ fltLess b a) := by
  by_cases h : a.isNan = true ∨ b.isNan = true
  · have hun : (a.isNan || b.isNan) = true := by simpa using h
    simp [hun, not_fltLess_of_isNan h, not_fltSame_of_isNan h, not_fltLess_of_isNan h.symm]
  · obtain ⟨ha, hb⟩ := not_or.1 h
    obtain ⟨hlt, heq, hgt⟩ := flCmp_iff (Bool.eq_false_iff.2 ha) (Bool.eq_false_iff.2 hb)
    simp [ha, hb, hlt, heq, hgt]

theorem fcond_iff {n : Nat} (hn : n ≤ 13) (a b : Fl) : (fcond n a b).1 = true ↔ floatRel n a b := by
  obtain ⟨hlt, heq, hgt⟩ := ordered_iff a b
  have hne : (!(!(a.isNan || b.isNan) && decide (flCmp a b = .eq))) = true ↔ ¬ fltSame a b := by
    rw [← heq, Bool.not_eq_true', Bool.not_eq_true]
  have hun : (a.isNan || b.isNan) = true ↔ a.isNan = true ∨ b.isNan = true := Bool.or_eq_true_iff
  have hnum : (!(a.isNan || b.isNan)) = true ↔ ¬ (a.isNan = true ∨ b.isNan = true) := by
    rw [← hun, Bool.not_eq_true', Bool.not_eq_true]
  unfold fcond floatRel
  dsimp only
  generalize (!(a.isNan || b.isNan) && decide (flCmp a b = .lt)) = lt at hlt ⊢
  generalize (!(a.isNan || b.isNan) && decide (flCmp a b = .eq)) = eq at heq hne ⊢
  generalize (!(a.isNan || b.isNan) && decide (flCmp a b = .gt)) = gt at hgt ⊢
  interval_cases n <;> simp only [Bool.or_eq_true, Bool.and_eq_true, hlt, heq, hgt, hne, hun, hnum] <;>
    simp [or_assoc]

theorem fcond_orders {n : Nat} (hn : n ≤ 13) (a b : Fl) :
    (fcond n a b).2 = true ↔ n ∈ [2, 3, 4, 5, 10, 11, 12, 13] := by
  interval_cases n <;> simp [fcond]

/-- The condition of `IV` as the model computes it. -/
def ivOf (n : Nat) (a b : Fl) : Bool := a.isSig || b.isSig || ((fcond n a b).2 && (a.isNan || b.isNan))

theorem ivOf_iff {n : Nat} (hn : n ≤ 13) (a b : Fl) : ivOf n a b = true ↔ fcmpIv n a b := by
  simp only [ivOf, fcmpIv, Bool.or_eq_true, Bool.and_eq_true, fcond_orders hn, isSig_iff, or_assoc]

/-! ## The instructions -/

/-- The predicate and the flag of one cell (R163). -/
theorem exec_fcmp (o : WOp) (s : State) : exec (.fcmp o) s = runPred o s (fun w c =>
    let n := o.fn.toNat % 16
    let a := flOpnd o w (w.opA o c) 0
    let b := flOpnd o w (w.opB o c) 0
    (combine o (fcond n a b).1 (w.srcPC c o.c), flIf (ivOf n a b) flIV)) := by
  simp only [← toNat_cond]
  rfl

section
variable {o : WOp} {s : State} {k : Nat} {w : Wave} (hat : At s k w) (hd : predDst o)
include hat hd

theorem icmp_retires : ∃ w', RetiresPred (.icmp o) o s k w w' 0 ∧ (o.fn.toNat % 16 ≤ 5 →
    ∀ c ∈ w.cells o, ∀ t : Bool,
      (t = true ↔ intRel (o.fn.toNat % 16) (elemInt o.ty (w.opA o c) 0) (elemInt o.ty (w.opB o c) 0)) →
      w'.srcP c o.d.toNat = (if o.fn.getLsbD 4 then t || w.srcPC c o.c else t && w.srcPC c o.c)) := by
  refine ⟨_, retires_computedPred hat hd rfl (enabledOf_zero _) fun _ _ => BitVec.zero_and,
    fun hn c hc t ht => ?_⟩
  rw [computedPred_srcP hd hc, toNat_cond, Bool.eq_iff_iff.2 (ht.trans (icond_iff hn _ _).symm)]
  rfl

theorem pbool_retires : ∃ w', RetiresPred (.pbool o) o s k w w' 0 ∧ ∀ c ∈ w.cells o,
    w'.srcP c o.d.toNat = o.table.getLsbD ((w.srcP c o.a.toNat).toNat
      + 2 * (w.srcP c o.b.toNat).toNat + 4 * (w.srcP c o.c.toNat).toNat) :=
  ⟨_, retires_computedPred hat hd rfl (enabledOf_zero _) fun _ _ => BitVec.zero_and,
    fun _ hc => computedPred_srcP hd hc⟩

theorem fcmp_retires (hie : w.regs.mode.getLsbD 8 = false) :
    ∃ w', RetiresPred (.fcmp o) o s k w w' flIV ∧ (o.fn.toNat % 16 ≤ 13 →
      (∀ c ∈ w.cells o, ∀ t : Bool, (t = true ↔
          floatRel (o.fn.toNat % 16) (flOpnd o w (w.opA o c) 0) (flOpnd o w (w.opB o c) 0)) →
        w'.srcP c o.d.toNat = (if o.fn.getLsbD 4 then t || w.srcPC c o.c else t && w.srcPC c o.c))
      ∧ (w'.regs.flags.getLsbD 0 = true ↔ w.regs.flags.getLsbD 0 = true ∨ ∃ c ∈ w.cells o,
          fcmpIv (o.fn.toNat % 16) (flOpnd o w (w.opA o c) 0) (flOpnd o w (w.opB o c) 0))) := by
  have hoff : enabledOf w.regs.mode flIV = 0 := by
    refine eq_zero_of_getLsbD_ne fun i hi => ?_
    obtain ⟨h5, hmode, hfl⟩ := getLsbD_enabledOf.1 hi
    have h0 : i = 0 := by interval_cases i <;> simp [flIV] at hfl ⊢
    subst h0
    rw [hie] at hmode
    cases hmode
  refine ⟨_, retires_computedPred hat hd (exec_fcmp o s) hoff fun _ _ => flIf_and_not _ _,
    fun hn => ⟨fun c hc t ht => ?_, ?_⟩⟩
  · rw [computedPred_srcP hd hc, Bool.eq_iff_iff.2 (ht.trans (fcond_iff hn _ _).symm)]
    rfl
  · simp only [computedPred_flags, getLsbD_flIf_flIV, ivOf_iff hn]

omit hd in
theorem fcmp_traps (hie : w.regs.mode.getLsbD 8 = true) (hn : o.fn.toNat % 16 ≤ 13)
    (hiv : ∃ c ∈ w.cells o, fcmpIv (o.fn.toNat % 16) (flOpnd o w (w.opA o c) 0) (flOpnd o w (w.opB o c) 0)) :
    ∃ detail lanes, exec (.fcmp o) s = .next (takeTrap s k w
      (trapRec w 4 detail 0 s.insn.1 s.insn.2 lanes 0)) ∧ detail.testBit 0 = true := by
  obtain ⟨c, hc, hfc⟩ := hiv
  rw [exec_fcmp]
  exact runCells_traps hat _ hc (by decide) hie ((getLsbD_flIf_flIV _).trans ((ivOf_iff hn _ _).2 hfc))

end

/-- Settles O6: each form writes one predicate a cell; `FCMP` orders the exact values and sets `IV` alone, which traps
where it is enabled. -/
theorem predicates : Obligations.Predicates := fun _ _ _ _ hat hd =>
  ⟨icmp_retires hat hd, fcmp_retires hat hd, fcmp_traps hat, pbool_retires hat hd⟩

end Sys2Proof.Proofs
end

section
/-! Signs of float values, and a division by zero that traps (R61, R169). -/

namespace Sys2Proof.Proofs

open Sys2Proof Sys2Proof.Machine Sys2Proof.Claims

/-- A value other than zero divided by a zero sets `DZ` alone (R56, R166). -/
theorem flags_flDiv_zero {f : Fmt} {rm : Rm} {ftz n : Bool} {m : Nat} {x : Int} {b : Fl} (hm : m ≠ 0)
    (hb : b.isZero = true) : (flDiv f rm ftz (.fin n m x) b).2 = flDZ := by
  obtain ⟨n', e', rfl⟩ : ∃ n' e', b = .fin n' 0 e' := by
    unfold Fl.isZero at hb
    split at hb
    · exact ⟨_, _, rfl⟩
    · cases hb
  simp [flDiv, hm]

/-! ## Sign (R169) -/

section
variable {o : WOp} {s : State} {k : Nat} {w : Wave} (hat : At s k w)
include hat

/-- A float instruction that sets no flag retires whatever `MODE` enables. -/
theorem floatOp_retires_noFlag {mk : WOp → Instr} (hmk : mk ∈ floatOps)
    (hflag : ∀ c e, (floatElem (mk o) o w c e).2 = 0) :
    ∃ w', Retires (mk o) o s k w w' (ty64 o.ty) 0 ∧ ∀ c ∈ w.cells o, ∀ e < tyCount o.ty,
      elem o.ty (w'.reg c (ty64 o.ty) o.d.toNat) e = (floatElem (mk o) o w c e).1 % 2 ^ tyWidth o.ty := by
  refine ⟨_, retires_computed hat (exec_floatOp hmk o s) (enabledOf_zero _)
    fun c _ => perElem_and_not o.ty fun e => ?_, fun c hc e he => computed_elem hc he⟩
  rw [hflag]
  exact BitVec.zero_and

theorem fneg_retires : ∃ w', Retires (.fneg o) o s k w w' (ty64 o.ty) 0 ∧ ∀ c ∈ w.cells o, ∀ e < tyCount o.ty,
    ∀ j < tyWidth o.ty, (elem o.ty (w'.reg c (ty64 o.ty) o.d.toNat) e).testBit j =
      ((elem o.ty (w.opA o c) e).testBit j ^^ decide (j = tyWidth o.ty - 1)) := by
  obtain ⟨w', hret, helem⟩ := floatOp_retires_noFlag (mk := .fneg) hat (by simp [floatOps]) fun _ _ => rfl
  refine ⟨w', hret, fun c hc e he j hj => ?_⟩
  rw [helem c hc e he, Nat.testBit_mod_two_pow, decide_eq_true hj, Bool.true_and, floatElem, Nat.testBit_xor,
    Nat.testBit_two_pow]
  simp only [eq_comm]

theorem fabs_retires (h8 : 8 ≤ o.ty) (h11 : o.ty ≤ 11) :
    ∃ w', Retires (.fabs o) o s k w w' (ty64 o.ty) 0 ∧ ∀ c ∈ w.cells o, ∀ e < tyCount o.ty,
      (nanAt o (w.opA o c) e → elem o.ty (w'.reg c (ty64 o.ty) o.d.toNat) e = (tyFmt o.ty).nan)
        ∧ (¬ nanAt o (w.opA o c) e → ∀ j < tyWidth o.ty,
          (elem o.ty (w'.reg c (ty64 o.ty) o.d.toNat) e).testBit j =
            ((elem o.ty (w.opA o c) e).testBit j && decide (j < tyWidth o.ty - 1))) := by
  obtain ⟨w', hret, helem⟩ := floatOp_retires_noFlag (mk := .fabs) hat (by simp [floatOps]) fun _ _ => rfl
  refine ⟨w', hret, fun c hc e he => ⟨fun hnan => ?_, fun hnum j hj => ?_⟩⟩
  · have hvalue : (floatElem (.fabs o) o w c e).1 = (tyFmt o.ty).nan := if_pos hnan
    rw [helem c hc e he, hvalue, Nat.mod_eq_of_lt (tyFmt_nan_lt h8 h11)]
  · have hvalue : (floatElem (.fabs o) o w c e).1 = elem o.ty (w.opA o c) e % 2 ^ (tyWidth o.ty - 1) := if_neg hnum
    rw [helem c hc e he, hvalue, Nat.testBit_mod_two_pow, decide_eq_true hj, Bool.true_and,
      Nat.testBit_mod_two_pow, Bool.and_comm]

/-! ## Division by zero (R61) -/

theorem fdiv_traps {c : Machine.Cell} {e : Nat} (hc : c ∈ w.cells o) (he : e < tyCount o.ty)
    (hie : w.regs.mode.getLsbD 9 = true)
    (ha : ∃ n m x, m ≠ 0 ∧ flElem o.ty (modeDaz w.regs.mode) (w.opA o c) e = .fin n m x)
    (hb : (flElem o.ty (modeDaz w.regs.mode) (w.opB o c) e).isZero = true) :
    ∃ detail lanes, exec (.fdiv o) s = .next (takeTrap s k w
      (trapRec w 4 detail 0 s.insn.1 s.insn.2 lanes 0)) ∧ detail.testBit 1 = true := by
  obtain ⟨n, m, x, hm, hax⟩ := ha
  have hdz : (floatElem (.fdiv o) o w c e).2 = flDZ := by
    rw [floatElem, flOpnd, hax]
    exact flags_flDiv_zero hm hb
  rw [exec_floatOp (mk := .fdiv) (by simp [floatOps])]
  refine runCells_traps hat _ hc (by decide) hie ((getLsbD_perElem _ _ _).2 ⟨e, he, ?_⟩)
  rw [hdz]
  decide

end

/-- Settles O8: `FNEG` and `FABS` set no flag, and the quotient of a value other than zero by zero sets `DZ`, which
traps where it is enabled. -/
theorem floatSignAndDivision : Obligations.FloatSignAndDivision :=
  ⟨fun _ _ _ _ hat h8 h11 => ⟨fneg_retires hat, fabs_retires hat h8 h11⟩,
    fun _ _ _ _ _ _ hat _ _ hc he hie ha hb => fdiv_traps hat hc he hie ha hb⟩

end Sys2Proof.Proofs
end

section
/-! Queues as bytes of scratch: headers, and entries that come out in the order in which they were sent (R208,
R210). -/

namespace Sys2Proof.Proofs

open Sys2Proof Sys2Proof.Machine Sys2Proof.Claims

/-! ## Headers (R208) -/

/-- The fields of a queue header fit their bits (R208). -/
structure QueFits (q : Que) : Prop where
  head : q.head < 2 ^ 32
  tail : q.tail < 2 ^ 32
  cap : q.cap < 2 ^ 16
  esz : q.esz < 2 ^ 1
  rsv0 : q.rsv0 < 2 ^ 15
  allow : q.allow < 2 ^ 16
  rsv1 : q.rsv1 < 2 ^ 16
  pwait : q.pwait < 2 ^ 64
  swait : q.swait < 2 ^ 64

theorem queFits_que (g : Gang) (off : Nat) : QueFits (g.que off) :=
  ⟨fld_lt _ _ _, fld_lt _ _ _, fld_lt _ _ _, fld_lt _ _ _, fld_lt _ _ _, fld_lt _ _ _, fld_lt _ _ _, fld_lt _ _ _,
    fld_lt _ _ _⟩

theorem queOfNat_toNat {q : Que} (h : QueFits q) : Que.ofNat (q.toNat % 256 ^ 32) = q := by
  obtain ⟨head, tail, cap, esz, rsv0, allow, rsv1, pwait, swait⟩ := q
  obtain ⟨h1, h2, h3, h4, h5, h6, h7, h8, h9⟩ := h
  simp only [Que.ofNat, Que.toNat, fld, Que.mk.injEq] at *
  omega

/-- A queue header reads back as it was written. -/
theorem que_setQue {q : Que} (h : QueFits q) (g : Gang) (off : Nat) : (g.setQue off q).que off = q := by
  rw [Gang.que, Gang.setQue, scrNat_scrWrite_bytesOf, queOfNat_toNat h]

/-! ## Several values written to ranges that lie apart -/

/-- A value depends on the bytes of its range alone. -/
theorem scrNat_congr {g g' : Gang} {off n : Nat}
    (h : ∀ a, off ≤ a → a < off + n → g'.scratch.getD a 0 = g.scratch.getD a 0) :
    g'.scrNat off n = g.scrNat off n := by
  refine congrArg natOf (List.map_congr_left fun a ha => ?_)
  obtain ⟨i, hi, rfl⟩ := List.mem_map.1 ha
  have := List.mem_range.1 hi
  exact h _ (by omega) (by omega)

/-- Values of `n` bytes written one after another, each at the place of its number. -/
def writeValues (place : Nat → Nat) (n : Nat) (ps : List (Nat × Nat)) (g : Gang) : Gang :=
  ps.foldl (fun x p => x.scrWrite (place p.2) (bytesOf n p.1)) g

theorem writeValues_getD {place : Nat → Nat} {n a : Nat} {ps : List (Nat × Nat)}
    (h : ∀ p ∈ ps, ¬ (place p.2 ≤ a ∧ a < place p.2 + n)) (g : Gang) :
    (writeValues place n ps g).scratch.getD a 0 = g.scratch.getD a 0 := by
  induction ps generalizing g with
  | nil => rfl
  | cons p t ih =>
    refine (ih (fun q hq => h q (List.mem_cons_of_mem _ hq)) _).trans ?_
    rw [scrWrite_getD, bytesOf_length, if_neg (h p List.mem_cons_self)]

/-- Two ranges of n bytes lie apart. -/
def Apart (n a b : Nat) : Prop := a + n ≤ b ∨ b + n ≤ a

theorem writeValues_scrNat {place : Nat → Nat} {n : Nat} {ps : List (Nat × Nat)}
    (hapart : ps.Pairwise (fun p q => Apart n (place p.2) (place q.2))) {p : Nat × Nat} (hp : p ∈ ps) (g : Gang) :
    (writeValues place n ps g).scrNat (place p.2) n = p.1 % 2 ^ (8 * n) := by
  rw [Nat.pow_mul]
  induction ps generalizing g with
  | nil => cases hp
  | cons q t ih =>
    obtain ⟨hq, ht⟩ := List.pairwise_cons.1 hapart
    rcases List.mem_cons.1 hp with rfl | hp
    · rw [← scrNat_scrWrite_bytesOf g (place p.2) n p.1]
      refine scrNat_congr fun a h1 h2 => writeValues_getD (ps := t) (fun r hr h => ?_) _
      rcases hq r hr with h3 | h3 <;> omega
    · exact ih ht hp _

/-! ## Entries (R210) -/

/-- The slots of two of the next CAP entries lie apart. -/
theorem slot_apart (q : Que) (off t : Nat) {i j : Nat} (hij : i ≠ j) (hi : i < q.cap) (hj : j < q.cap) :
    Apart q.ebytes (q.slot off (t + i)) (q.slot off (t + j)) := by
  have hne : (t + i) % q.cap ≠ (t + j) % q.cap := fun h =>
    hij (Nat.ModEq.eq_of_lt_of_lt (Nat.ModEq.add_left_cancel' t h) hi hj)
  unfold Apart Que.slot
  rcases Nat.lt_or_gt_of_ne hne with h | h
  · have := Nat.mul_le_mul_right q.ebytes (Nat.succ_le_of_lt h)
    rw [Nat.succ_mul] at this
    omega
  · have := Nat.mul_le_mul_right q.ebytes (Nat.succ_le_of_lt h)
    rw [Nat.succ_mul] at this
    omega

/-- The header that `QPUSH` leaves: TAIL moved on, allowance taken. -/
def pushedQue (q : Que) (n : Nat) : Que := { q with tail := (q.tail + n) % 2 ^ 32, allow := q.allow - n }

@[simp] theorem slot_pushedQue (q : Que) (n off m : Nat) : (pushedQue q n).slot off m = q.slot off m := rfl
@[simp] theorem ebytes_pushedQue (q : Que) (n : Nat) : (pushedQue q n).ebytes = q.ebytes := rfl
@[simp] theorem head_pushedQue (q : Que) (n : Nat) : (pushedQue q n).head = q.head := rfl

theorem queFits_pushedQue {q : Que} (h : QueFits q) (n : Nat) : QueFits (pushedQue q n) :=
  { h with tail := Nat.mod_lt _ (by decide), allow := lt_of_le_of_lt (Nat.sub_le _ _) h.allow }

/-- The slot of entry i of those sent next. -/
def sendSlot (g : Gang) (off i : Nat) : Nat := (g.que off).slot off ((g.que off).tail + i)

theorem pushEntries_eq (g : Gang) (off : Nat) (es : List Nat) :
    g.pushEntries off es = (writeValues (sendSlot g off) (g.que off).ebytes
      es.zipIdx g).setQue off (pushedQue (g.que off) es.length) := rfl

theorem que_pushEntries (g : Gang) (off : Nat) (es : List Nat) :
    (g.pushEntries off es).que off = pushedQue (g.que off) es.length := by
  rw [pushEntries_eq, que_setQue (queFits_pushedQue (queFits_que g off) _)]

theorem head_eq_tail {q : Que} (hfits : QueFits q) (h : q.count = 0) : q.head = q.tail := by
  obtain ⟨h1, h2⟩ := hfits
  unfold Que.count at h
  omega

/-- An entry sent stands in its slot, if the queue holds all that are sent with it. -/
theorem scrNat_pushEntries {g : Gang} {off : Nat} {es : List Nat} (hcap : es.length ≤ (g.que off).cap) {i : Nat}
    (hi : i < es.length) :
    (g.pushEntries off es).scrNat (sendSlot g off i) (g.que off).ebytes
      = es[i] % 2 ^ (8 * (g.que off).ebytes) := by
  have happart : es.zipIdx.Pairwise (fun p q => Apart (g.que off).ebytes
      (sendSlot g off p.2) (sendSlot g off q.2)) := by
    rw [List.pairwise_iff_getElem]
    intro a b ha hb hab
    simp only [List.length_zipIdx] at ha hb
    simp only [List.getElem_zipIdx, Nat.zero_add]
    exact slot_apart _ _ _ (Nat.ne_of_lt hab) (by omega) (by omega)
  have hmem : (es[i], i) ∈ es.zipIdx := List.mk_mem_zipIdx_iff_getElem?.2 (List.getElem?_eq_getElem hi)
  rw [pushEntries_eq, ← writeValues_scrNat happart hmem g]
  refine scrNat_congr fun a h1 _ => ?_
  have h32 : off + 32 ≤ a := le_trans (by unfold sendSlot Que.slot; omega) h1
  rw [Gang.setQue, scrWrite_getD, bytesOf_length, if_neg (by omega)]

/-- First in, first out: what an empty queue is sent comes out in that order, each at the entry size (R210). -/
theorem peekEntries_pushEntries {g : Gang} {off : Nat} {es : List Nat} (hempty : (g.que off).count = 0)
    (hcap : es.length ≤ (g.que off).cap) : (g.pushEntries off es).peekEntries off es.length
      = es.map (fun x => x % 2 ^ (8 * (g.que off).ebytes)) := by
  refine List.ext_getElem (by simp [Gang.peekEntries]) fun i h1 h2 => ?_
  have hi : i < es.length := by simpa using h2
  simp only [Gang.peekEntries, que_pushEntries, List.getElem_map, List.getElem_range, slot_pushedQue,
    ebytes_pushedQue, head_pushedQue]
  rw [head_eq_tail (queFits_que g off) hempty]
  exact scrNat_pushEntries hcap hi

end Sys2Proof.Proofs
end

section
/-! The queue instructions (R208-R212, R237): each runs on the header that its register names, past its guard and the
wave's earlier accesses. -/

namespace Sys2Proof.Proofs

open Sys2Proof Sys2Proof.Machine Sys2Proof.Claims

section
variable {s : State} {k : Nat} {w : Wave} {g : Gang} {o : WOp} (hat : At s k w) (hgang : inGang s w g)
include hat hgang

/-! ## Binding (R209) -/

theorem exec_qbind (hg : w.guardGrp o.guard = true) {off : Nat} (hoff : w.off32 o.a.toNat = off) :
    exec (.qbind o) s =
      if off % 32 = 0 && g.inBounds off 32 then .next (s.retire k (w.setQ o.d.toNat off) o.len)
      else .next (illegalAt s k w 32) := by
  subst hoff; exact onGang_run hat hgang hg _ _

theorem exec_qbindInit (hg : w.guardGrp o.guard = true) {off : Nat} (hoff : w.off32 o.a.toNat = off) :
    exec (.qbindInit o) s =
      if !(off % 32 = 0 && g.inBounds off 32) then .next (illegalAt s k w 32)
      else match bindOperand (w.greg o.b.toNat).toNat with
        | none => .next (illegalAt s k w 40)
        | some (cap, esz, allow) =>
          if !g.inBounds off (32 + cap * (if esz = 0 then 8 else 16)) then .next (illegalAt s k w 32)
          else if s.redgBusy k || s.queBusy k g off then stall s
          else .next (((s.setGang w.gang (g.setQue off { g.que off with
            head := 0, tail := 0, cap := cap, esz := esz, rsv0 := 0, allow := allow, rsv1 := 0 })).retire k
            (w.setQ o.d.toNat off) o.len).qretry w.gang off) := by
  subst hoff
  refine (onGang_run hat hgang hg _ _).trans ?_
  cases bindOperand (w.greg o.b.toNat).toNat <;> rfl

/-! ## On the header of a queue register -/

variable (hg : o.grp = true → w.guardGrp o.guard = true)
include hg

omit hat hgang in
theorem guard_passes : (o.grp && !w.guardGrp o.guard) = false := by
  cases hgrp : o.grp with
  | false => rfl
  | true => rw [hg hgrp]; rfl

theorem onQueue_of_busy (hbusy : s.queueBusy k w g o.b.toNat = true) (name : String) (sized : Bool)
    (f : Nat → Wave → Gang → Nat → Out) : onQueue s o name sized f = .next s := by
  have h : s.gangs.find w.gang = some g := hgang
  rw [onQueue, onWave_at hat.cur hat.wave]
  simp only [guard_passes hg, h, hbusy, Bool.false_eq_true, if_false, if_true]
  rfl

variable {off : Nat} (hbusy : s.queueBusy k w g o.b.toNat = false)
include hbusy

theorem onQueue_run {sized : Bool} (hbound : boundTo w g o.b.toNat (if sized then some (o.m.toNat % 2) else none) off)
    (name : String) (f : Nat → Wave → Gang → Nat → Out) : onQueue s o name sized f = f k w g off := by
  have h : s.gangs.find w.gang = some g := hgang
  rw [onQueue, onWave_at hat.cur hat.wave]
  simp only [guard_passes hg, h, hbusy, queue_of_boundTo hbound, Bool.false_eq_true, if_false]

theorem exec_qstat (hbound : boundTo w g o.b.toNat none off) : exec (.qstat o) s =
    if s.redgBusy k then stall s
    else .next (s.retire k (w.setG o.d.toNat (BitVec.ofNat 64 ((g.que off).count + (g.que off).allow * 2 ^ 32
      + (g.que off).esz * 2 ^ 48 + Nat.log2 (g.que off).cap * 2 ^ 56))) o.len) :=
  onQueue_run hat hgang hg hbusy (sized := false) hbound _ _

/-! ## Sending and receiving (R210, R211) -/

variable (hbound : boundTo w g o.b.toNat (some (o.m.toNat % 2)) off)
include hbound

theorem exec_qpush : exec (.qpush o) s =
    if (g.que off).never (w.qsources o).length then illegalField s k w 40
    else if s.relBusy k then stall s
    else if w.qsources o = [] then .next ((s.releasePoint k w false).retire k w o.len)
    else if (w.qsources o).length ≤ (g.que off).allow && (s.qblocked w.gang off true).isEmpty then
      .next ((((s.releasePoint k w false).setGang w.gang (g.pushEntries off (w.qsources o))).retire k w
        o.len).qretry w.gang off)
    else .next (((s.releasePoint k w false).setGang w.gang (g.markWait off true w.qbit true)).waitOn k w .push off 0
      (.qpush o)) :=
  onQueue_run hat hgang hg hbusy (sized := true) hbound _ _

theorem exec_qpop : exec (.qpop o) s =
    if (g.que off).never (w.qcount o) then illegalField s k w 40
    else if s.redgBusy k then stall s
    else if w.qcount o = 0 then .next (s.retire k w o.len)
    else if w.qcount o ≤ (g.que off).count && (s.qblocked w.gang off false).isEmpty then
      .next ((((s.setGang w.gang (g.dropEntries off (w.qcount o))).acquirePoint k w).retire k
        (w.qdeliver o (g.peekEntries off (w.qcount o))) o.len).qretry w.gang off)
    else .next ((s.setGang w.gang (g.markWait off false w.qbit true)).waitOn k w .pop off 0 (.qpop o)) :=
  onQueue_run hat hgang hg hbusy (sized := true) hbound _ _

theorem exec_qtry : exec (.qtry o) s =
    if (g.que off).never (w.qcount o) then illegalField s k w 40
    else if s.redgBusy k then stall s
    else if w.qcount o = 0 then .next (s.retire k (w.qtryPred o true) o.len)
    else if w.qcount o ≤ (g.que off).count && (s.qblocked w.gang off false).isEmpty then
      .next ((((s.setGang w.gang (g.dropEntries off (w.qcount o))).acquirePoint k w).retire k
        ((w.qdeliver o (g.peekEntries off (w.qcount o))).qtryPred o true) o.len).qretry w.gang off)
    else .next (s.retire k (w.qtryPred o false) o.len) :=
  onQueue_run hat hgang hg hbusy (sized := true) hbound _ _

end

/-- A count that the allowance and the entries held cover together can be moved some time (R210). -/
theorem never_eq_false {q : Que} {n : Nat} (h : n ≤ q.allow + q.count) : q.never n = false :=
  decide_eq_false (Nat.not_lt.2 h)

/-! ## Vector forms with no active lane (R210) -/

section
variable {w : Wave} {o : WOp} (hgrp : o.grp = false) (hnone : w.active o.guard = [])
include hgrp hnone

theorem qsources_of_no_lane : w.qsources o = [] := by simp [Wave.qsources, hgrp, hnone]

theorem qcount_of_no_lane : w.qcount o = 0 := by simp [Wave.qcount, hgrp, hnone]

theorem qtryPred_of_no_lane (b : Bool) : w.qtryPred o b = w := by
  simp [Wave.qtryPred, Wave.cells, hgrp, hnone]

end

/-! ## The clauses -/

section
variable {s : State} {k : Nat} {w : Wave} {g : Gang} {o : WOp} (hat : At s k w) (hgang : inGang s w g)
include hat hgang

variable {off : Nat} (hbound : boundTo w g o.b.toNat (some (o.m.toNat % 2)) off)
  (hg : o.grp = true → w.guardGrp o.guard = true) (hbusy : s.queueBusy k w g o.b.toNat = false)
include hbound hg hbusy

theorem queue_no_lane (hgrp : o.grp = false) (hnone : w.active o.guard = []) :
    (s.relBusy k = false → exec (.qpush o) s = .next ((s.releasePoint k w false).retire k w o.len))
    ∧ (s.redgBusy k = false → exec (.qpop o) s = .next (s.retire k w o.len)
      ∧ exec (.qtry o) s = .next (s.retire k w o.len)) := by
  have hpush := exec_qpush hat hgang hg hbusy hbound
  have hpop := exec_qpop hat hgang hg hbusy hbound
  have htry := exec_qtry hat hgang hg hbusy hbound
  rw [qsources_of_no_lane hgrp hnone, List.length_nil, never_eq_false (Nat.zero_le _)] at hpush
  rw [qcount_of_no_lane hgrp hnone, never_eq_false (Nat.zero_le _)] at hpop htry
  refine ⟨fun hrel => by simpa [hrel] using hpush, fun hredg => ⟨by simpa [hredg] using hpop, ?_⟩⟩
  simpa [hredg, qtryPred_of_no_lane hgrp hnone] using htry

theorem qpush_with_room (hes : w.qsources o ≠ []) (hrel : s.relBusy k = false)
    (hroom : (w.qsources o).length ≤ (g.que off).allow) (hnone : s.qblocked w.gang off true = []) :
    exec (.qpush o) s = .next ((((s.releasePoint k w false).setGang w.gang
      (g.pushEntries off (w.qsources o))).retire k w o.len).qretry w.gang off) := by
  rw [exec_qpush hat hgang hg hbusy hbound, never_eq_false (by omega)]
  simp [hrel, hes, hroom, hnone]

theorem queue_with_entries (hn : w.qcount o ≠ 0) (hredg : s.redgBusy k = false)
    (hheld : w.qcount o ≤ (g.que off).count) (hnone : s.qblocked w.gang off false = []) :
    exec (.qpop o) s = .next ((((s.setGang w.gang (g.dropEntries off (w.qcount o))).acquirePoint k w).retire k
        (w.qdeliver o (g.peekEntries off (w.qcount o))) o.len).qretry w.gang off)
    ∧ exec (.qtry o) s = .next ((((s.setGang w.gang (g.dropEntries off (w.qcount o))).acquirePoint k w).retire k
        ((w.qdeliver o (g.peekEntries off (w.qcount o))).qtryPred o true) o.len).qretry w.gang off) := by
  rw [exec_qpop hat hgang hg hbusy hbound, exec_qtry hat hgang hg hbusy hbound, never_eq_false (by omega)]
  simp [hredg, hn, hheld, hnone]

theorem queue_too_few (hn : w.qcount o ≠ 0) (hredg : s.redgBusy k = false)
    (hfew : (g.que off).count < w.qcount o) (hcan : w.qcount o ≤ (g.que off).allow + (g.que off).count) :
    exec (.qtry o) s = .next (s.retire k (w.qtryPred o false) o.len)
    ∧ exec (.qpop o) s = .next ((s.setGang w.gang (g.markWait off false w.qbit true)).waitOn k w .pop off 0
        (.qpop o)) := by
  rw [exec_qpop hat hgang hg hbusy hbound, exec_qtry hat hgang hg hbusy hbound, never_eq_false hcan]
  simp [hredg, hn, Nat.not_le.2 hfew]

end

/-- Settles O24: each instruction's checks in their order, and the bytes of a queue's entries. -/
theorem queues : Obligations.Queues := by
  constructor
  · intro o s k w g hat hgang
    refine ⟨fun hg => ?_, fun hbusy hg => ?_, fun off hbound hg hbusy => ?_,
      fun off hbound hg hbusy hredg => ?_⟩
    · have hbind := exec_qbind hat hgang hg rfl
      have hinit := exec_qbindInit hat hgang hg rfl
      constructor
      · intro halign hin
        simp only [halign, hin, decide_true, Bool.and_self, Bool.not_true, Bool.false_eq_true, if_false, if_true]
          at hbind hinit
        refine ⟨hbind, fun cap esz allow hop hfit hredg hque => ?_, fun hop => ?_, fun cap esz allow hop hfit => ?_⟩
        · simpa only [hop, hfit, hredg, hque, Bool.not_true, Bool.or_self, Bool.false_eq_true, if_false] using hinit
        · simpa only [hop] using hinit
        · simpa only [hop, hfit, Bool.not_false, if_true] using hinit
      · intro hbad
        have hcheck : (decide (w.off32 o.a.toNat % 32 = 0) && g.inBounds (w.off32 o.a.toNat) 32) = false := by
          simpa [← imp_iff_not_or] using hbad
        simp only [hcheck, Bool.not_false, Bool.false_eq_true, if_false, if_true] at hbind hinit
        exact ⟨hbind, hinit⟩
    · exact ⟨onQueue_of_busy hat hgang hg hbusy _ _ _, onQueue_of_busy hat hgang hg hbusy _ _ _,
        onQueue_of_busy hat hgang hg hbusy _ _ _, onQueue_of_busy hat hgang hg hbusy _ _ _⟩
    · exact ⟨queue_no_lane hat hgang hbound hg hbusy, qpush_with_room hat hgang hbound hg hbusy,
        queue_with_entries hat hgang hbound hg hbusy, queue_too_few hat hgang hbound hg hbusy⟩
    · rw [exec_qstat hat hgang hg hbusy hbound, if_neg (Bool.eq_false_iff.1 hredg)]
  · intro g off es hempty hcap _
    refine ⟨peekEntries_pushEntries hempty hcap, ?_⟩
    rw [que_pushEntries]
    exact ⟨rfl, rfl, rfl⟩

end Sys2Proof.Proofs
end

section
/-! Starting a copy program and waiting for one (R220-R222, R272). -/

namespace Sys2Proof.Proofs

open Sys2Proof Sys2Proof.Machine Sys2Proof.Claims

/-! ## A program in its slot -/

@[simp] theorem segment_engines (s : State) (k : Nat) : (s.segment k).engines = s.engines := by
  unfold State.segment State.phNote; dsimp only; split <;> rfl

theorem engine_setEngine_self (s : State) (e : Nat) (x : Engine) : (s.setEngine e x).engine e = x := by
  simp [State.engine, Map.getD_put]

@[simp] theorem segment_ctxs (s : State) (k : Nat) : (s.segment k).ctxs = s.ctxs := by
  unfold State.segment State.phNote; dsimp only; split <;> rfl

/-- A footprint's entry is all that its registration adds to the state (R110). -/
theorem registerFp_eq (s : State) (c job g : Nat) (rs : List Range) :
    ∃ cores, s.registerFp c job g rs = { s with cores := cores } := by
  unfold State.registerFp
  dsimp only
  split
  · exact ⟨s.cores, rfl⟩
  · exact ⟨_, rfl⟩

/-- E0-E3 as given, and every other register zero (R272). -/
theorem getE_start (own : Owner) (held : Bool) (pc : W64) (x : Nat → W64) (dbar : W32) (seq job : Nat) (lo : W64)
    (len : Nat) (fblock : BitVec 512) (i : Nat) :
    (Prog.start own held pc ((List.range 4).map x) dbar seq job lo len fblock).getE i
      = if i < 4 then x i else 0 := by
  have he : (Prog.start own held pc ((List.range 4).map x) dbar seq job lo len fblock).e
      = (((Map.set [] 0 0 (x 0)).set 1 0 (x 1)).set 2 0 (x 2)).set 3 0 (x 3) := rfl
  rw [Prog.getE, he]
  simp only [Map.getD_set]
  by_cases hi : i < 4
  · rw [if_pos hi]
    interval_cases i <;> rfl
  · rw [if_neg hi, if_neg (by omega), if_neg (by omega), if_neg (by omega), if_neg (by omega)]
    rfl

/-! ## `CE.START` (R220, R221) -/

/-- The program that `CE.START` starts once its release is made. -/
def startedProg (s : State) (k : Nat) (w : Wave) (g : Gang) (a : Nat) : Prog :=
  let fp := (w.greg (a + 6)).toNat
  let kd := ((s.entry? g.ctx g.launch).map (·.kd)).getD default
  Prog.start (s.ownerOf k w g) (s.holds g.ctx (·.holdCe)) (w.greg a) ((List.range 4).map (fun i => w.greg (a + 1 + i)))
    ((w.greg (a + 5)).extractLsb' 0 32) (s.engine (slotCore k)).starts s.nextJob kd.copy kd.copyLen
    (if fp = 0xFFFFFFFF then 0 else BitVec.ofNat 512 (g.scrNat fp 64))

theorem startedProg_st (s : State) (k : Nat) (w : Wave) (g : Gang) (a : Nat) :
    (startedProg s k w g a).st = if s.holds g.ctx (·.holdCe) then 6 else 1 := rfl

theorem startedProg_getE (s : State) (k : Nat) (w : Wave) (g : Gang) (a i : Nat) :
    (startedProg s k w g a).getE i = if i < 4 then w.greg (a + 1 + i) else 0 := getE_start ..

/-- The state with that program in a slot and its footprint registered. -/
def started (s : State) (k : Nat) (w : Wave) (g : Gang) (a slot : Nat) (ranges : List Range) : State :=
  let eng := s.engine (slotCore k)
  { (s.setEngine (slotCore k) { eng with
      starts := (eng.starts + 1) % 2 ^ 32
      slots := eng.slots.put slot (startedProg s k w g a) }).registerFp (slotCore k) s.nextJob w.gang ranges with
    nextJob := s.nextJob + 1 }

section
variable (s : State) (k : Nat) (w : Wave) (g : Gang) (a slot : Nat) (ranges : List Range)

theorem started_waves : (started s k w g a slot ranges).waves = s.waves := by
  obtain ⟨cores, h⟩ := registerFp_eq (s.setEngine (slotCore k) _) (slotCore k) s.nextJob w.gang ranges
  rw [started, h, State.setEngine_waves]

theorem started_engine : (started s k w g a slot ranges).engine (slotCore k)
    = { s.engine (slotCore k) with
        starts := ((s.engine (slotCore k)).starts + 1) % 2 ^ 32
        slots := (s.engine (slotCore k)).slots.put slot (startedProg s k w g a) } := by
  obtain ⟨cores, h⟩ := registerFp_eq (s.setEngine (slotCore k) _) (slotCore k) s.nextJob w.gang ranges
  rw [started, h]
  exact engine_setEngine_self _ _ _

theorem started_prog? : (started s k w g a slot ranges).prog? (slotCore k) slot = some (startedProg s k w g a) := by
  rw [State.prog?, started_engine]
  exact Map.find_put_self _ _ _

end

theorem releasePoint_engine (s : State) (k : Nat) (w : Wave) (all : Bool) (e : Nat) :
    (s.releasePoint k w all).engine e = s.engine e := by
  have h : (s.release (s.waveObs k w) all).engines = s.engines := by rw [(CachesMoved.release s _ all).rest]
  rw [State.releasePoint, State.engine, segment_engines, h]
  rfl

theorem releasePoint_holds (s : State) (k : Nat) (w : Wave) (all : Bool) (ctx : Nat) (f : CtxRegs → Bool) :
    (s.releasePoint k w all).holds ctx f = s.holds ctx f := by
  have h : (s.release (s.waveObs k w) all).ctxs = s.ctxs := by rw [(CachesMoved.release s _ all).rest]
  rw [State.releasePoint, State.holds, segment_ctxs, h]
  rfl

section
variable {s : State} {k : Nat} {w : Wave} {g : Gang} {o : WOp} (hat : At s k w) (hgang : inGang s w g)
  (hg : w.guardGrp o.guard = true)
include hat hgang hg

theorem exec_ceStart_of_busy (hbusy : s.relBusy k = true) : exec (.ceStart o) s = .next s := by
  refine (onGang_run hat hgang hg _ _).trans ?_
  simp only [hbusy, if_true]
  rfl

variable (hfree : s.relBusy k = false)
include hfree

theorem exec_ceStart_of_held {j : Nat} (hheld : s.blockHeld w (w.greg (o.a.toNat + 6)).toNat = some j) :
    exec (.ceStart o) s = .next (s.waitOn k w .footprint j 0 (.ceStart o)) := by
  refine (onGang_run hat hgang hg _ _).trans ?_
  simp only [hfree, hheld, Bool.false_eq_true, if_false]

variable (hheld : s.blockHeld w (w.greg (o.a.toNat + 6)).toNat = none)
include hheld

theorem exec_ceStart_of_error {r : Nat} (hcheck : startCheck w g o.a.toNat = .error r) :
    exec (.ceStart o) s = .next (illegalAt s k w 32) := by
  refine (onGang_run hat hgang hg _ _).trans ?_
  simp only [hfree, hheld, hcheck, Bool.false_eq_true, if_false]
  rfl

theorem exec_ceStart_of_ok {ranges : List Range} {slot : Nat} (hcheck : startCheck w g o.a.toNat = .ok ranges)
    (hslot : (s.engine (slotCore k)).freeSlot = some slot) (hroom : s.fpRoom (slotCore k) ranges = true) :
    exec (.ceStart o) s = .next ((started (s.releasePoint k w false) k w g o.a.toNat slot ranges).retire k
      (w.setG o.d.toNat (BitVec.ofNat 64 (slot + w.wg * 2 ^ 8 + (s.engine (slotCore k)).starts * 2 ^ 16))) o.len) := by
  rw [← releasePoint_engine s k w false]
  refine (onGang_run hat hgang hg _ _).trans ?_
  simp only [hfree, hheld, hcheck, hslot, hroom, Bool.not_true, Bool.false_eq_true, if_false, handleOf]
  rfl

end

/-! ## `CE.WAIT` (R222) -/

/-- What `CE.WAIT` reports at once of a slot, for a handle with a sequence number. -/
def waitReport (p? : Option Prog) (seq : Nat) : Option Nat :=
  match p? with
  | none => some 3
  | some p => if p.st = 0 || p.seq != seq then some 3 else p.status

theorem waitReport_of_other {p : Prog} {seq : Nat} (h : p.seq ≠ seq) : waitReport (some p) seq = some 3 := by
  simp [waitReport, h]

theorem waitReport_of_named {p : Prog} {seq : Nat} (h : p.seq = seq) (hst : p.st ≠ 0) :
    waitReport (some p) seq = p.status := by simp [waitReport, h, hst]

theorem status_of_halted {p : Prog} (h : p.st = 4) : p.status = some 0 := by simp only [Prog.status, h]

theorem status_of_cancelled {p : Prog} (h : p.st = 7) : p.status = some 2 := by simp only [Prog.status, h]

theorem status_of_faulted {p : Prog} (h : p.st = 3) :
    p.status = some (1 + (p.frec.extractLsb' 0 16).toNat * 2 ^ 16) := by
  simp only [Prog.status, h, BitVec.extractLsb'_toNat, Nat.shiftRight_zero]

/-- A program that has yet to end has nothing to report (R222). -/
theorem status_of_unended {p : Prog} (h : p.st ∈ [1, 2, 5, 6, 8]) : p.status = none := by
  simp only [List.mem_cons, List.not_mem_nil, or_false] at h
  unfold Prog.status
  rcases h with h | h | h | h | h <;> simp only [h]

section
variable {s : State} {k : Nat} {w : Wave} {g : Gang} {o : WOp} {slot wg seq : Nat} (hat : At s k w)
  (hgang : inGang s w g) (hg : w.guardGrp o.guard = true) (hslot : slot ≤ 7) (hwg : wg < g.cores.length) (hwg4 : wg < 4)
  (hseq : seq < 2 ^ 32) (hh : (w.greg o.a.toNat).toNat = slot + wg * 2 ^ 8 + seq * 2 ^ 16)
include hat hgang hg hslot hwg hwg4 hseq hh

theorem exec_ceWait : exec (.ceWait o) s =
    if s.redgBusy k then stall s
    else match waitReport (s.prog? (nth g.cores wg 0) slot) seq with
      | some st => .next ((s.acquirePoint k w).retire k (w.setG o.d.toNat (BitVec.ofNat 64 st)) o.len)
      | none => .next (s.waitOn k w .copy (w.greg o.a.toNat).toNat 0 (.ceWait o)) := by
  have hslotF : fld (w.greg o.a.toNat).toNat 0 8 = slot := by rw [hh, fld]; omega
  have hwgF : fld (w.greg o.a.toNat).toNat 8 2 = wg := by rw [hh, fld]; omega
  have hseqF : fld (w.greg o.a.toNat).toNat 16 32 = seq := by rw [hh, fld]; omega
  have hrsv0 : fld (w.greg o.a.toNat).toNat 10 6 = 0 := by rw [hh, fld]; omega
  have hrsv1 : fld (w.greg o.a.toNat).toNat 48 16 = 0 := by rw [hh, fld]; omega
  have hlegal : (decide (7 < slot) || (0 : Nat) != 0 || (0 : Nat) != 0 || decide (g.cores.length ≤ wg)) = false := by
    simp [hslot, hwg]
  refine (onGang_run hat hgang hg _ _).trans ?_
  simp only [hslotF, hwgF, hseqF, hrsv0, hrsv1, hlegal, Bool.false_eq_true, if_false]
  congr 1
  cases s.prog? (nth g.cores wg 0) slot with
  | none => rfl
  | some p =>
    unfold waitReport
    dsimp only
    split
    · rfl
    · cases p.status <;> rfl

theorem exec_ceWait_of_report {v : Nat} (hredg : s.redgBusy k = false)
    (h : waitReport (s.prog? (nth g.cores wg 0) slot) seq = some v) : exec (.ceWait o) s =
      .next ((s.acquirePoint k w).retire k (w.setG o.d.toNat (BitVec.ofNat 64 v)) o.len) := by
  rw [exec_ceWait hat hgang hg hslot hwg hwg4 hseq hh, hredg, h]
  rfl

end

/-- Settles O26: the checks of `CE.START` in their order and the program that it leaves in its slot, and the report of
`CE.WAIT`. -/
theorem engines : Obligations.Engines := by
  constructor
  · intro o s k w g hat hgang hg a c fp
    refine ⟨exec_ceStart_of_busy hat hgang hg, fun j hfree hheld => exec_ceStart_of_held hat hgang hg hfree hheld,
      fun ranges slot hcheck hfree hheld hslot hroom => ?_,
      fun r hcheck hfree hheld => exec_ceStart_of_error hat hgang hg hfree hheld hcheck⟩
    refine ⟨started (s.releasePoint k w false) k w g a slot ranges, startedProg (s.releasePoint k w false) k w g a,
      exec_ceStart_of_ok hat hgang hg hfree hheld hcheck hslot hroom, ?_, started_prog? .., rfl, fun i hi => ?_,
      fun i hi => ?_, rfl, rfl, rfl, rfl, ?_, ?_⟩
    · rw [started_waves, releasePoint_waves]
    · rw [startedProg_getE, if_pos hi]
    · rw [startedProg_getE, if_neg (Nat.not_lt.2 hi)]
    · rw [startedProg_st, releasePoint_holds]
    · rw [started_engine, releasePoint_engine]
  · intro o s k w g slot wg seq hat hgang hg hslot hwg hwg4 hseq hh
    have hwait := exec_ceWait hat hgang hg hslot hwg hwg4 hseq hh
    refine ⟨fun hredg => hwait.trans (if_pos hredg), fun hredg => ?_⟩
    intro ends e
    have hends : ∀ {v}, waitReport (s.prog? e slot) seq = some v → ends v :=
      exec_ceWait_of_report hat hgang hg hslot hwg hwg4 hseq hh hredg
    refine ⟨fun hnone => hends (by rw [hnone]; rfl), fun p hp => ?_⟩
    rw [hp] at hends
    refine ⟨fun hother => hends (waitReport_of_other hother), fun hs hst => hends ?_, fun hs hst => hends ?_,
      fun hs hst => hends ?_, fun hs hst => ?_⟩
    · rw [waitReport_of_named hs (by omega), status_of_halted hst]
    · rw [waitReport_of_named hs (by omega), status_of_faulted hst]
    · rw [waitReport_of_named hs (by omega), status_of_cancelled hst]
    · have hne : p.st ≠ 0 := fun h0 => by simp [h0] at hst
      rw [hwait, hredg, hp, waitReport_of_named hs hne, status_of_unended hst]
      rfl

end Sys2Proof.Proofs
end

section
/-! `LAUNCH`: its waits, its refusals, and the child or the cancel that it asks for (R228, R343). -/

namespace Sys2Proof.Proofs

open Sys2Proof Sys2Proof.Machine Sys2Proof.Claims

/-! ## A child's place in the device-side queue (R228, R331) -/

/-- A change of a level changes its context's levels alone. -/
theorem find_modLevel {s : State} {ctx : Nat} {c : Ctx} (h : s.ctxs.find ctx = some c) (id : Nat) (f : Level → Level) :
    ∃ levels, (s.modLevel ctx id f).ctxs.find ctx = some { c with levels := levels } := by
  rw [State.modLevel, State.modCtx_some _ _ h, State.setCtx_ctxs, Map.find_put_self]
  split
  · exact ⟨_, rfl⟩
  · exact ⟨c.levels, rfl⟩

theorem find_openLevel {s : State} {ctx : Nat} {c : Ctx} (h : s.ctxs.find ctx = some c) (level dev parent : Nat) :
    (s.openLevel ctx level dev parent).2 = c.nextId
    ∧ ∃ levels, (s.openLevel ctx level dev parent).1.ctxs.find ctx
        = some { c with nextId := c.nextId + 1, levels := levels } := by
  simp only [State.openLevel, h]
  refine ⟨trivial, ?_⟩
  obtain ⟨levels, hlevels⟩ := find_modLevel (s := s.setCtx ctx { c with
    nextId := c.nextId + 1, levels := c.levels.put c.nextId _ }) (Map.find_put_self ..) parent _
  exact ⟨levels, hlevels⟩

/-- The records of a device in the device-side queue of a context. -/
def devqOf (c : Ctx) (dev : Nat) : List Entry := c.devq.filter (fun e => e.dev = dev)

theorem submit_of_full {s : State} {g : Gang} {c : Ctx} (h : s.ctxs.find g.ctx = some c)
    (hfull : 1024 ≤ (devqOf c g.dev).length) (p : Entry) (r : Nat) (x : Resolved) :
    s.submit g p r x = (s, refuseVal 4) := by
  have hq : devqSize ≤ (devqOf c g.dev).length := hfull
  simp only [State.submit, h, Option.map_some, Option.getD_some]
  exact if_pos hq

/-- The child that a record of a parent's wave submits. -/
def childEntry (s : State) (g : Gang) (p : Entry) (r : Nat) (x : Resolved) (id : Nat) : Entry :=
  { mkEntry g.ctx g.dev id p.graph p.phase p.job r x with
    parents := p.id :: p.parents
    prio := if p.prio < rPrio r then p.prio else rPrio r
    queue := p.queue
    child := true
    held := s.holds g.ctx (·.holdChild) }

theorem submit_of_room {s : State} {g : Gang} {c : Ctx} (h : s.ctxs.find g.ctx = some c)
    (hroom : (devqOf c g.dev).length < 1024) (p : Entry) (r : Nat) (x : Resolved) :
    (s.submit g p r x).2 = BitVec.ofNat 64 c.nextId
    ∧ ∃ levels, (s.submit g p r x).1.ctxs.find g.ctx = some { c with
        nextId := c.nextId + 1, levels := levels, devq := c.devq ++ [childEntry s g p r x c.nextId] } := by
  have hq : ¬ devqSize ≤ (devqOf c g.dev).length := Nat.not_le.2 hroom
  obtain ⟨hid, _, hopen⟩ := find_openLevel h 1 g.dev p.graph
  obtain ⟨levels, hmod⟩ := find_modLevel hopen c.nextId
    (fun l => { l with done := if rDone r = 0 then none else some (BitVec.ofNat 64 (rDone r)) })
  have hsubmit : s.submit g p r x = (((s.openLevel g.ctx 1 g.dev p.graph).1.modLevel g.ctx c.nextId
      (fun l => { l with done := if rDone r = 0 then none else some (BitVec.ofNat 64 (rDone r)) })).modCtx g.ctx
        (fun c' => { c' with devq := c'.devq ++ [childEntry s g p r x c.nextId] }), BitVec.ofNat 64 c.nextId) := by
    rw [← hid]
    simp only [State.submit, h, Option.map_some, Option.getD_some]
    exact if_neg hq
  rw [hsubmit]
  refine ⟨rfl, levels, ?_⟩
  rw [State.modCtx_some _ _ hmod, State.setCtx_ctxs, Map.find_put_self]

theorem childEntry_prio (s : State) (g : Gang) (p : Entry) (r : Nat) (x : Resolved) (id : Nat) :
    (childEntry s g p r x id).prio = min p.prio (rPrio r) := by
  unfold childEntry
  dsimp only
  split <;> omega

/-! ## The issue of `LAUNCH` after its release -/

section
variable {s : State} {k : Nat} {w : Wave} {g : Gang} {va : Nat}

theorem launchIssue_of_misaligned (hva : va % 64 ≠ 0) : s.launchIssue k w g va = (s, refuseVal 3, false) :=
  if_pos (bne_iff_ne.2 hva)

variable (hva : va % 64 = 0)
include hva

theorem launchIssue_of_unread {s1 : State} {e : XErr}
    (hread : s.readG (s.waveObs k w) .die false va 128 = (s1, .error e)) :
    s.launchIssue k w g va = (s1, refuseVal 5, false) := by
  simp [State.launchIssue, hva, hread]

variable {s1 : State} {bs : List Byte} (hread : s.readG (s.waveObs k w) .die false va 128 = (s1, .ok bs))
include hread

theorem launchIssue_of_malformed (h : 2 ≤ rKind (natOf bs) ∨ rEG (natOf bs) = true ∨ rEP (natOf bs) = true
    ∨ rEJ (natOf bs) = true ∨ recOk (natOf bs) = false) :
    s.launchIssue k w g va = (s1, refuseVal 3, false) := by
  have hbad : (decide (2 ≤ rKind (natOf bs)) || rEG (natOf bs) || rEP (natOf bs) || rEJ (natOf bs)
      || !recOk (natOf bs)) = true := by simpa [or_assoc] using h
  simp [State.launchIssue, hva, hread, hbad]

variable (heg : rEG (natOf bs) = false) (hep : rEP (natOf bs) = false) (hej : rEJ (natOf bs) = false)
  (hok : recOk (natOf bs) = true)
include heg hep hej hok

theorem launchIssue_of_cancel (hkind : rKind (natOf bs) = 1) (hdone : rDone (natOf bs) = 0) :
    s.launchIssue k w g va = ({ s1 with
        cancels := s1.cancels ++ [⟨s1.servingIo g.ctx g.dev, g.ctx, rLevel (natOf bs), rVa (natOf bs), none⟩] },
      BitVec.ofNat 64 (rVa (natOf bs)), s1.cancelsOwn g (natOf bs)) := by
  simp [State.launchIssue, hva, hread, heg, hep, hej, hok, hkind, hdone]

variable (hkind : rKind (natOf bs) = 0) {s2 : State}
include hkind

theorem launchIssue_of_unresolved {st : Nat}
    (hres : s1.resolve (s.waveObs k w) .die false g.dev (natOf bs) = (s2, .error st)) :
    s.launchIssue k w g va = (s2, refuseVal (launchCode st), false) := by
  simp [State.launchIssue, hva, hread, heg, hep, hej, hok, hkind, hres]

theorem launchIssue_of_resolved {x : Resolved} {p : Entry}
    (hres : s1.resolve (s.waveObs k w) .die false g.dev (natOf bs) = (s2, .ok x))
    (hp : s1.entry? g.ctx g.launch = some p) :
    s.launchIssue k w g va = ((s2.submit g p (natOf bs) x).1, (s2.submit g p (natOf bs) x).2, false) := by
  simp [State.launchIssue, hva, hread, heg, hep, hej, hok, hkind, hres, hp]

end

/-- The code of a refusal by its status (R228, R330). -/
theorem launchCode_eq (st : Nat) :
    launchCode st = if st = 3 then 1 else if st = 4 then 2 else if st = 2 ∨ st = 5 then 3 else 5 := by
  unfold launchCode
  split <;> simp_all

/-- A level covers an entry as R343 says. -/
theorem under_iff_covered (p : Entry) (level target : Nat) : p.under level target = true ↔ covered p level target := by
  unfold covered Entry.under
  split
  · simp
  · simp
  · simp
  · simp
  · next h0 h1 h2 h3 =>
    have h0' : level ≠ 0 := h0
    have h1' : level ≠ 1 := h1
    have h2' : level ≠ 2 := h2
    have h3' : level ≠ 3 := h3
    have h4 : 4 ≤ level := by omega
    simp [h0', h1', h2', h3', h4]

/-! ## The instruction -/

/-- What `LAUNCH` reads, found in the state after its release. -/
def launchRanges (o : WOp) (s : State) (k : Nat) (w : Wave) : List (Nat × Nat) :=
  (s.releasePoint k w false).launchReads ((s.releasePoint k w false).waveObs k w) (w.greg o.a.toNat).toNat

section
variable {o : WOp} {s : State} {k : Nat} {w : Wave} {g : Gang} (hat : At s k w) (hgang : inGang s w g)
  (hg : w.guardGrp o.guard = true)
include hat hgang hg

theorem exec_launch_of_busy (hbusy : s.relBusy k = true) : exec (.launch o) s = .next s := by
  refine (onGang_run hat hgang hg _ _).trans ?_
  simp only [hbusy, if_true]
  rfl

variable (hfree : s.relBusy k = false)
include hfree

theorem exec_launch_of_off (hoff : s.slicesOn (s.waveObs k w) (launchRanges o s k w) = false) :
    exec (.launch o) s = .next s := by
  unfold launchRanges at hoff
  refine (onGang_run hat hgang hg _ _).trans ?_
  simp only [hfree, hoff, Bool.not_false, Bool.false_eq_true, if_false, if_true]
  rfl

variable (hon : s.slicesOn (s.waveObs k w) (launchRanges o s k w) = true)
include hon

theorem exec_launch_of_held {j : Nat}
    (hheld : (launchRanges o s k w).findSome? (fun p => s.heldBy w.gang false false p.1 p.2) = some j) :
    exec (.launch o) s = .next (s.waitOn k w .footprint j 0 (.launch o)) := by
  unfold launchRanges at hon hheld
  refine (onGang_run hat hgang hg _ _).trans ?_
  simp only [hfree, hon, hheld, Bool.not_true, Bool.false_eq_true, if_false]

variable (hnone : ∀ p ∈ launchRanges o s k w, s.heldBy w.gang false false p.1 p.2 = none)
include hnone

theorem exec_launch_of_issue {t : State} {v : W64} {own : Bool}
    (h : (s.releasePoint k w false).launchIssue k w g (w.greg o.a.toNat).toNat = (t, v, own)) :
    exec (.launch o) s = .next (t.retire k { w.setG o.d.toNat v with cancel := w.cancel || own } o.len) := by
  have hheld : (launchRanges o s k w).findSome? (fun p => s.heldBy w.gang false false p.1 p.2) = none :=
    List.findSome?_eq_none_iff.2 hnone
  unfold launchRanges at hon hheld
  refine (onGang_run hat hgang hg _ _).trans ?_
  simp only [hfree, hon, hheld, h, Bool.not_true, Bool.false_eq_true, if_false]

/-- An answer that cancels nothing of the wave's own. -/
theorem exec_launch_gives {t : State} {v : Nat}
    (h : (s.releasePoint k w false).launchIssue k w g (w.greg o.a.toNat).toNat = (t, BitVec.ofNat 64 v, false)) :
    exec (.launch o) s = .next (t.retire k (w.setG o.d.toNat (BitVec.ofNat 64 v)) o.len) := by
  rw [exec_launch_of_issue hat hgang hg hfree hon hnone h, Bool.or_false]
  rfl

end

/-- Settles O46: the waits of `LAUNCH`, each of its refusals, and what it submits. -/
theorem launches : Obligations.Launches := by
  intro o s k w g hat hgang hg s0 va ob rs
  refine ⟨exec_launch_of_busy hat hgang hg, exec_launch_of_off hat hgang hg, fun hfree hon =>
    ⟨fun j => exec_launch_of_held hat hgang hg hfree hon, fun hnone => ?_⟩⟩
  intro gives
  have hgives : ∀ {t : State} {v : Nat}, s0.launchIssue k w g va = (t, BitVec.ofNat 64 v, false) → gives t v :=
    exec_launch_gives hat hgang hg hfree hon hnone
  refine ⟨fun hva => hgives (launchIssue_of_misaligned hva),
    fun s1 e hva hread => hgives (launchIssue_of_unread hva hread), fun s1 bs hva hread => ?_⟩
  intro r
  refine ⟨fun hbad => hgives (launchIssue_of_malformed hva hread hbad), fun heg hep hej hok => ⟨?_, ?_, ?_⟩⟩
  · intro p hkind hdone hp
    refine ⟨p.under (rLevel r) (rVa r), ?_, under_iff_covered ..⟩
    have hown : s1.cancelsOwn g r = p.under (rLevel r) (rVa r) := by rw [State.cancelsOwn, hp]
    rw [← hown]
    exact exec_launch_of_issue hat hgang hg hfree hon hnone
      (launchIssue_of_cancel hva hread heg hep hej hok hkind hdone)
  · intro s2 st hkind hres
    rw [← launchCode_eq]
    exact hgives (launchIssue_of_unresolved hva hread heg hep hej hok hkind hres)
  · intro s2 x p c hkind hres hp hc
    have hissue := launchIssue_of_resolved hva hread heg hep hej hok hkind hres hp
    constructor
    · intro hfull
      rw [submit_of_full hc hfull] at hissue
      exact hgives hissue
    · intro hroom
      obtain ⟨hid, levels, hctx⟩ := submit_of_room hc hroom p r x
      rw [hid] at hissue
      exact ⟨_, _, childEntry s2 g p r x c.nextId, hgives hissue, hctx, rfl, rfl, rfl, rfl, childEntry_prio .., rfl⟩

end Sys2Proof.Proofs
end

section
/-! The start of a gather job in a state that the statement on gather jobs leaves open: two waves in one wave slot
(R12, R44, R215, R224). -/

namespace Sys2Proof.Proofs

open Sys2Proof Sys2Proof.Machine Sys2Proof.Claims

/-! ## The state -/

/-- The operands of the `GTHR`, whose block lies at the offset in G2, which is 0; and of the twin's `BAR.WAIT`. -/
def twinOp : WOp := ⟨true, false, .always, 0, 1, 2, 3, 4, 0, none⟩

/-- A block of one row of one sector, charged to the barrier object at 1,024 (R223). -/
def twinBlock : Nat := 1024 * 2 ^ 288

/-- The gang, with the block at 0 and the object at 1,024: EXPECT is 1, and an error stands in ERR (R214). -/
def twinGang : Gang := (placedGang.scrWrite 0 (bytesOf 64 twinBlock)).setBar 1024 ⟨0, 1, 1, 0, 0, 0, 1, 0⟩

def twinIssuer : Wave := placedWave 0 false false

/-- The second wave of the slot, 64 bytes ahead, waits for the object. -/
def twinWaiter : Wave :=
  { twinIssuer with pc := twinIssuer.pc + 64, wait := some ⟨.barrier, 1024, 0, 0, .barWait twinOp, 0, 0, false⟩ }

/-- Both waves stand in slot 0; a search of the slot finds the first. -/
def twinState : State :=
  { State.reset with
    cur := some 0
    waves := [(0, twinIssuer), (0, twinWaiter)]
    gangs := [(0, twinGang)]
    ctxs := [(1, placedCtx)]
    entries := [placedEntry] }

/-! ## Its premises, and its step -/

theorem twin_at : At twinState 0 twinIssuer := ⟨rfl, rfl⟩

theorem twin_free : twinState.relBusy 0 = false := by decide +kernel

theorem twin_unheld : twinState.blockHeld twinIssuer (twinIssuer.off32 twinOp.a.toNat) = none := by decide +kernel

theorem twin_inBounds : twinGang.inBounds (twinIssuer.off32 twinOp.a.toNat) 64 = true := by decide +kernel

theorem twin_scrNat : twinGang.scrNat (twinIssuer.off32 twinOp.a.toNat) 64 = twinBlock := by decide +kernel

theorem twin_blockOk : gBlockOk twinGang twinBlock false = true := by decide +kernel

theorem twin_room : jobRoom twinState (slotCore 0) 0 twinBlock false := ⟨by decide +kernel, by decide +kernel⟩

/-- The PC of the wave in a slot after a step. -/
def pcAfterStep (out : Out) (k : Nat) : Option W64 :=
  match out with
  | .next t => (t.waves.find k).map (·.pc)
  | _ => none

/-- The charge finds an error in ERR and wakes the waiter (R215), which takes the slot. -/
theorem twin_pcAfterStep : pcAfterStep (exec (.gthr twinOp) twinState) 0 = some (twinWaiter.pc + 8) := by
  decide +kernel

/-- Refutes O33: its clause on the start of a job has the issuing wave go on at its next instruction, but no premise
gives the waves of the state a slot each. In `twinState`, which no run reaches, a second entry of the issuer's slot
waits for the job's barrier object; the charge wakes it, and the slot then holds it, 64 bytes from where the statement
has the issuer. -/
theorem not_gatherJobs : ¬ Obligations.GatherJobs := by
  intro hall
  obtain ⟨-, -, hlegal⟩ := hall.1 twinOp twinState 0 twinIssuer twinGang 0 twin_at rfl rfl rfl (.gthr twinOp, false)
    List.mem_cons_self
  rw [twin_scrNat] at hlegal
  obtain ⟨hstarts, -, -⟩ := hlegal twin_free twin_unheld (by decide) twin_inBounds twin_blockOk
  obtain ⟨t, w', hexec, hfind, hpc, -⟩ := hstarts twin_room
  have hmoved : some w'.pc = some (twinWaiter.pc + 8) := by
    rw [← twin_pcAfterStep, hexec, pcAfterStep, hfind, Option.map_some]
  rw [hpc] at hmoved
  exact absurd hmoved (by decide)

end Sys2Proof.Proofs
end
section
/-! Folds over lanes, cells and bits, and what an instruction changes of a wave, put together from its writes (R8, R61,
R150). -/

namespace Sys2Proof.Proofs

open Sys2Proof Sys2Proof.Machine Sys2Proof.Claims

/-! ## Folds -/

/-- What every step of a fold leaves as it was, the fold does. -/
theorem foldl_keeps {α σ τ : Type} {p : σ → τ} {f : σ → α → σ} (hf : ∀ x a, p (f x a) = p x) (l : List α) (x : σ) :
    p (l.foldl f x) = p x := by
  induction l generalizing x with
  | nil => rfl
  | cons a l ih => exact (ih _).trans (hf x a)

/-- What a step of a fold gives its own element, and every other step keeps, holds after the fold for each element. -/
theorem foldl_reaches {α σ : Type} {f : σ → α → σ} {as : List α} {Q : α → σ → Prop}
    (hset : ∀ x, ∀ a ∈ as, Q a (f x a)) (hkeep : ∀ x, ∀ a ∈ as, ∀ b ∈ as, a ≠ b → Q a x → Q a (f x b)) (x : σ) :
    ∀ a ∈ as, Q a (as.foldl f x) := by
  intro a ha
  have hstays : ∀ bs : List α, (∀ b ∈ bs, b ∈ as) → ∀ x, Q a x → Q a (bs.foldl f x) := fun bs hbs x hx =>
    List.foldlRecOn bs f hx fun y hy b hb => by
      by_cases hab : a = b
      · exact hab ▸ hset y a ha
      · exact hkeep y a ha b (hbs b hb) hab hy
  obtain ⟨bs, cs, rfl⟩ := List.append_of_mem ha
  rw [List.foldl_append, List.foldl_cons]
  exact hstays cs (fun b hb => by simp [hb]) _ (hset _ a ha)

/-! ## Registers -/

section
variable {w w' w'' : Wave} {dv dp : Nat → Nat → Prop} {dg dgp : Nat → Prop} {df : W32}

theorem onlyRegs_refl (w : Wave) : OnlyRegs w w dv dg dp dgp df :=
  ⟨rfl, fun _ _ _ _ => rfl, fun _ _ => rfl, fun _ _ _ => rfl, fun _ _ => rfl, rfl, rfl, rfl, 0, by simp, by simp⟩

theorem onlyRegs_trans (h : OnlyRegs w w' dv dg dp dgp df) (h' : OnlyRegs w' w'' dv dg dp dgp df) :
    OnlyRegs w w'' dv dg dp dgp df := by
  obtain ⟨f, hf, hdf⟩ := h.flags
  obtain ⟨f', hf', hdf'⟩ := h'.flags
  refine ⟨?_, fun r l hl hr => (h'.v r l hl hr).trans (h.v r l hl hr), fun r hr => (h'.g r hr).trans (h.g r hr),
    fun r l hr => (h'.p r l hr).trans (h.p r l hr), fun r hr => (h'.gp r hr).trans (h.gp r hr), h'.c.trans h.c,
    h'.q.trans h.q, h'.mode.trans h.mode, f ||| f', ?_, or_and_not_eq_zero hdf hdf'⟩
  · rw [h'.rest, h.rest]
  · rw [hf', hf, BitVec.or_assoc]

theorem onlyRegs_foldl {α : Type} {f : Wave → α → Wave} {as : List α}
    (h : ∀ x, ∀ a ∈ as, OnlyRegs x (f x a) dv dg dp dgp df) (w : Wave) :
    OnlyRegs w (as.foldl f w) dv dg dp dgp df :=
  List.foldlRecOn as f (onlyRegs_refl w) fun x hx a ha => onlyRegs_trans hx (h x a ha)

theorem onlyRegs_setPL {r l : Nat} (hl : l < 64) (h : dp r l) (b : Bool) :
    OnlyRegs w (w.setPL r l b) dv dg dp dgp df := by
  refine ⟨rfl, fun _ _ _ _ => rfl, fun _ _ => rfl, fun r' l' hne => ?_, fun _ _ => rfl, rfl, rfl, rfl, 0,
    by simp [Wave.setPL, Wave.setP, Regs.setP], by simp⟩
  rw [Wave.lane_setPL _ _ _ _ _ _ hl, if_neg]
  rintro ⟨rfl, rfl⟩
  exact hne h

theorem onlyRegs_setGP {r : Nat} (h : dgp r) (b : Bool) : OnlyRegs w (w.setGP r b) dv dg dp dgp df := by
  refine ⟨rfl, fun _ _ _ _ => rfl, fun _ _ => rfl, fun _ _ _ => rfl, fun r' hne => ?_, rfl, rfl, rfl, 0,
    by simp [Wave.setGP, Regs.setGP], by simp⟩
  rw [Wave.gpred_setGP, if_neg]
  rintro ⟨rfl, -⟩
  exact hne h

theorem onlyRegs_setG {r : Nat} (h : dg r) (v : W64) : OnlyRegs w (w.setG r v) dv dg dp dgp df := by
  refine ⟨rfl, fun _ _ _ _ => rfl, fun r' hne => ?_, fun _ _ _ => rfl, fun _ _ => rfl, rfl, rfl, rfl, 0,
    by simp [Wave.setG, Regs.setG], by simp⟩
  rw [Wave.greg_setG, if_neg]
  rintro rfl
  exact hne h

theorem onlyRegs_setVgrp {n r l : Nat} (hl : l < 64) (h : ∀ r', r ≤ r' → r' < r + n → dv r' l) (x : Nat) :
    OnlyRegs w (w.setVgrp n r l x) dv dg dp dgp df := by
  have hrest := w.setVgrp_rest n r l x
  refine ⟨?_, fun r' l' hl' hne => ?_, fun r' _ => w.greg_setVgrp _ _ _ _ r', fun r' l' _ => ?_,
    fun r' _ => w.gpred_setVgrp _ _ _ _ r', ?_, ?_, ?_, 0, ?_, by simp⟩
  · rw [hrest]
  · rw [Wave.vreg_setVgrp _ _ _ _ _ _ _ hl hl', if_neg]
    rintro ⟨rfl, h1, h2⟩
    exact hne (h r' h1 h2)
  · rw [Wave.preg_setVgrp]
  all_goals rw [hrest]
  simp

end

end Sys2Proof.Proofs
end
section
/-! The walker's operations one after another, and the wave form of an instruction on a cursor (R242, R243). -/

namespace Sys2Proof.Proofs

open Sys2Proof Sys2Proof.Machine Sys2Proof.Claims

/-! ## Operations in turn -/

section
variable {α β : Type} {m : Walk α} {f : α → Walk β} {x y z : WSt} {a : α} {b : β}

theorem walksFrom_pure_iff {v : α} : walksFrom (pure v : Walk α) x a y ↔ a = v ∧ y = x := by
  simp [walksFrom, pure, StateT.pure, Except.pure, StateT.run, eq_comm]

theorem walksFrom_bind (h : walksFrom m x a y) (h' : walksFrom (f a) y b z) : walksFrom (m >>= f) x b z := by
  unfold walksFrom at *
  rw [StateT.run_bind, h]
  exact h'

theorem walksFrom_of_bind (h : walksFrom (m >>= f) x b z) : ∃ a y, walksFrom m x a y ∧ walksFrom (f a) y b z := by
  unfold walksFrom at *
  rw [StateT.run_bind] at h
  cases hm : m.run x with
  | error e => rw [hm] at h; cases h
  | ok p => rw [hm] at h; exact ⟨p.1, p.2, rfl, h⟩

/-- A walk stops where its first operation does. -/
theorem run_bind_of_error {e : WStop} (h : m.run x = .error e) : (m >>= f).run x = .error e := by
  rw [StateT.run_bind, h]
  rfl

/-- A walk whose first operation gives a value stops where the rest of it stops. -/
theorem run_bind_error {e : WStop} (h : walksFrom m x a y) (h' : (f a).run y = .error e) :
    (m >>= f).run x = .error e := by
  rw [StateT.run_bind, h]
  exact h'

end

/-! ## What a read leaves of the walk -/

theorem read_drawn {u : Walker} {kind va n : Nat} {bs : List Byte} {x y : WSt}
    (h : walksFrom (u.read kind va n) x bs y) : y.drawn = x.drawn := by
  unfold walksFrom Walker.read StateT.run at h
  dsimp only at h
  split at h
  · cases h
  · split at h
    · cases h
    · cases h; rfl

theorem num_drawn {u : Walker} {va n v : Nat} {x y : WSt} (h : walksFrom (u.num va n) x v y) : y.drawn = x.drawn := by
  obtain ⟨bs, z, hread, hret⟩ := walksFrom_of_bind h
  rw [(walksFrom_pure_iff.1 hret).2, read_drawn hread]

theorem level_drawn {u : Walker} {addr : Nat} {app : Bool} {l : Lvl} {x y : WSt}
    (h : walksFrom (u.level addr app) x l y) : y.drawn = x.drawn := by
  unfold Walker.level at h
  split at h
  · cases h
  · obtain ⟨bs, z, hread, hret⟩ := walksFrom_of_bind h
    split at hret
    · rw [(walksFrom_pure_iff.1 hret).2, read_drawn hread]
    · cases hret

theorem levelOf_drawn {u : Walker} {c : Cur} {r : Nat} {l : Lvl} {x y : WSt}
    (h : walksFrom (u.levelOf c r) x l y) : y.drawn = x.drawn := by
  unfold Walker.levelOf at h
  split at h
  · rw [(walksFrom_pure_iff.1 h).2]
  · obtain ⟨l', z, hlevel, hret⟩ := walksFrom_of_bind h
    split at hret
    · rw [(walksFrom_pure_iff.1 hret).2, level_drawn hlevel]
    · cases hret

/-! ## The frame of an instruction on a cursor -/

theorem cells_of_grp {w : Wave} {o : WOp} (hgrp : o.grp = true) (hguard : w.guardGrp o.guard = true) :
    w.cells o = [.grp] := by simp [Wave.cells, hgrp, hguard]

section
variable {i : Instr} {o : WOp} {s : State} {k : Nat} {w : Wave} {fs : List (Nat × Nat)} {want addr : Bool}
  {body : Walker → Machine.Cell → Wave → Walk Wave}
  (hat : At s k w)
include hat

theorem onCursor_illegal {lo : Nat} (hcheck : w.curCheck (w.cells o) fs want addr false = some lo) :
    onCursor i o s fs want addr body = .next (illegalAt s k w lo) := by
  refine (onWave_at hat.cur hat.wave _).trans ?_
  simp only [hcheck]
  rfl

variable (hgrp : o.grp = true) (hguard : w.guardGrp o.guard = true)
include hgrp hguard

theorem onCursor_grp (hcheck : w.curCheck [.grp] fs want addr false = none) :
    onCursor i o s fs want addr body = match (body (walkerOf k w .grp) .grp w).run ⟨s, [], []⟩ with
      | .ok (w1, x) => .next (x.s.retire k w1 o.len)
      | .error e => walkStop i s k w e := by
  refine (onWave_at hat.cur hat.wave _).trans ?_
  simp only [cells_of_grp hgrp hguard, hcheck, hgrp, hguard, Bool.not_true, Bool.false_eq_true, if_true, if_false]
  rfl

theorem onCursor_grp_of_walk (hcheck : w.curCheck [.grp] fs want addr false = none) {w1 : Wave} {x : WSt}
    (h : walksFrom (body (walkerOf k w .grp) .grp w) ⟨s, [], []⟩ w1 x) :
    onCursor i o s fs want addr body = .next (x.s.retire k w1 o.len) := by
  rw [onCursor_grp hat hgrp hguard hcheck, h]

theorem onCursor_grp_of_stop (hcheck : w.curCheck [.grp] fs want addr false = none) {e : WStop}
    (h : (body (walkerOf k w .grp) .grp w).run ⟨s, [], []⟩ = .error e) :
    onCursor i o s fs want addr body = walkStop i s k w e := by
  rw [onCursor_grp hat hgrp hguard hcheck, h]

end

end Sys2Proof.Proofs
end
section
/-! Append cursors (R254-R257): the writes of `APP.OPEN`, `APP.PUT` and `APP.CLOSE` in their order, and the faults that
stop them. -/

namespace Sys2Proof.Proofs

open Sys2Proof Sys2Proof.Machine Sys2Proof.Claims

/-! ## Draws that are taken back touch no wave (R243, R357) -/

theorem CachesMoved.foldl_fst {α β : Type} {f : State × β → α → State × β} (hf : ∀ x a, CachesMoved x.1 (f x a).1)
    (l : List α) (x : State × β) : CachesMoved x.1 (l.foldl f x).1 := by
  induction l generalizing x with
  | nil => exact .refl _
  | cons a l ih => exact (hf x a).trans (ih _)

theorem CachesMoved.ddrPush (s : State) (dm sec : Nat) : CachesMoved s (s.ddrPush dm sec) := by
  unfold State.ddrPush
  dsimp only
  split
  · exact (CachesMoved.memSec s sec _ _).trans (.setDie rfl)
  · exact .refl s

theorem CachesMoved.pwrite_die (s : State) (ob : Obs) (lf : Leaf) (pa : Nat) (bs : List Byte) :
    CachesMoved s (s.pwrite ob lf .die pa bs) :=
  CachesMoved.foldl_fst (x := (s, bs)) (fun x ch => .dieSecWrite x.1 ob lf ch.1 _ _) _

theorem CachesMoved.physWrite (s : State) (dm pa : Nat) (bs : List Byte) : CachesMoved s (s.physWrite dm pa bs) := by
  unfold State.physWrite
  split
  · refine (CachesMoved.pwrite_die s _ _ pa bs).trans (CachesMoved.foldl ?_ _ _)
    exact fun x c => .ddrPush x dm c.1
  · exact .refl s

theorem physSeen_waves (s : State) (pa n : Nat) : (s.physSeen pa n).waves = s.waves := by
  unfold State.physSeen; split <;> rfl

theorem drawAt_waves (s : State) (ctx key : Nat) (big : Bool) (n : Nat) :
    (s.drawAt ctx key big n).1.waves = s.waves := by
  induction n generalizing s with
  | zero => rfl
  | succ n ih =>
    unfold State.drawAt
    split
    · rfl
    · dsimp only
      split_ifs
      · rfl
      · rfl
      · rw [State.setCtx_waves, physSeen_waves]
      · rw [ih, State.setCtx_waves, physSeen_waves]

theorem heapReturn_waves (s : State) (ctx die h : Nat) (big : Bool) (va : Nat) :
    (s.heapReturn ctx die h big va).waves = s.waves := by
  unfold State.heapReturn
  split
  · rfl
  · exact (CachesMoved.physWrite _ _ _ _).waves

theorem heapDraw_waves (s : State) (ctx die h : Nat) (big : Bool) : (s.heapDraw ctx die h big).1.waves = s.waves :=
  drawAt_waves _ _ _ _ _

theorem undraw_waves (s : State) (ctx die : Nat) (ds : List (Nat × Bool)) : (s.undraw ctx die ds).waves = s.waves := by
  refine (foldl_keeps (p := State.waves) (fun x d => heapReturn_waves x _ _ _ _ _) _ _).trans ?_
  refine foldl_keeps (p := fun r : State × List (Nat × Bool × Nat) => r.1.waves) (fun r d => ?_) ds (s, [])
  have hdraw := heapDraw_waves r.1 ctx die d.1 d.2
  split <;> next heq => rw [heq] at hdraw; exact hdraw

/-- A fault of a wave form in user mode is a trap of its own cause, and its draws are taken back (R243). -/
theorem walkStop_fault {w : Wave} (hsup : w.sys.sup = false) (i : Instr) (s : State) (k : Nat) (f : LFault)
    (ds : List (Nat × Bool)) (seen : List (Nat × Nat × Need)) :
    walkStop i s k w (.fault f ds seen) =
      let t := s.undraw (s.ctxOf w) (coreDie (slotCore k)) ds
      .next (takeTrap t k w (trapRec w f.cause f.kind 0 t.insn.1 t.insn.2 (BitVec.ofNat 64 f.addr)
        (BitVec.ofNat 64 f.v0))) := by
  simp [walkStop, waveFault, trapWith, hsup]

/-- The draws of a fault that made none leave the state as it was. -/
theorem walkStop_fault_undrawn {w : Wave} (hsup : w.sys.sup = false) (i : Instr) (s : State) (k : Nat) (f : LFault)
    (seen : List (Nat × Nat × Need)) :
    walkStop i s k w (.fault f [] seen) = .next (takeTrap s k w (trapRec w f.cause f.kind 0 s.insn.1 s.insn.2
      (BitVec.ofNat 64 f.addr) (BitVec.ofNat 64 f.v0))) := walkStop_fault hsup i s k f [] seen

/-! ## One entry of `APP.PUT` (R255) -/

theorem zeroTest_iff (z q : Nat) : zeroTest z (fld q 64 64) = true ↔ dropsZero z (q / 2 ^ 64 % 2 ^ 64) := by
  unfold zeroTest dropsZero fld
  split <;> simp_all

section
variable {u : Walker} {l : Lvl} {z q : Nat} {p : Put}

theorem put_of_dropped (hdrop : dropsZero z (q / 2 ^ 64 % 2 ^ 64)) : u.put l z p q = pure p := by
  unfold Walker.put
  rw [if_pos ((zeroTest_iff z q).2 hdrop)]

variable (hkeep : ¬ dropsZero z (q / 2 ^ 64 % 2 ^ 64))
include hkeep

theorem put_of_coord (hcoord : l.dim ≤ q % 2 ^ 64) (x : WSt) : (u.put l z p q).run x =
    .error (.fault ⟨0x0404, 5, 3, 3, l.addr, p.pos, q % 2 ^ 64, 0, 0⟩ x.drawn x.seen) := by
  unfold Walker.put
  have hfld : fld q 0 64 = q % 2 ^ 64 := by simp [fld]
  rw [if_neg (mt (zeroTest_iff z q).1 hkeep), hfld, if_pos hcoord]
  rfl

variable (hcoord : q % 2 ^ 64 < l.dim) {x3 x4 x5 : WSt}
include hcoord

theorem put_in_chunk (hroom : p.used < 252)
    (hslot : walksFrom (u.write (p.tail + 64 + 16 * p.used) (bytesOf 16 q)) x3 () x4)
    (hcount : walksFrom (u.write (p.tail + 16) (bytesOf 4 (p.used + 1))) x4 () x5) :
    walksFrom (u.put l z p q) x3 ⟨p.tail, p.used + 1, p.pos + 1⟩ x5 := by
  unfold Walker.put
  have hfld : fld q 0 64 = q % 2 ^ 64 := by simp [fld]
  rw [if_neg (mt (zeroTest_iff z q).1 hkeep), hfld, if_neg (Nat.not_le.2 hcoord), if_neg hroom.ne]
  exact walksFrom_bind (walksFrom_pure_iff.2 ⟨rfl, rfl⟩)
    (walksFrom_bind hslot (walksFrom_bind hcount (walksFrom_pure_iff.2 ⟨rfl, rfl⟩)))

/-- With the chunk full, the tail moves to a new block before the entry goes to its first slot. -/
theorem put_in_new_chunk {b : Nat} {y1 y2 y3 y4 y5 y6 : WSt} (hfull : p.used = 252)
    (hdraw : walksFrom (u.draw l) x3 b y1) (hhead : walksFrom (u.write b (chunkHeader p.pos)) y1 () y2)
    (hnext : walksFrom (u.write p.tail (bytesOf 8 b)) y2 () y3)
    (htail : walksFrom (u.write (l.addr + tailOff) (bytesOf 8 b)) y3 () y4)
    (hslot : walksFrom (u.write (b + 64) (bytesOf 16 q)) y4 () y5)
    (hcount : walksFrom (u.write (b + 16) (bytesOf 4 1)) y5 () y6) :
    walksFrom (u.put l z p q) x3 ⟨b, 1, p.pos + 1⟩ y6 := by
  unfold Walker.put
  have hfld : fld q 0 64 = q % 2 ^ 64 := by simp [fld]
  rw [if_neg (mt (zeroTest_iff z q).1 hkeep), hfld, if_neg (Nat.not_le.2 hcoord), if_pos hfull]
  refine walksFrom_bind hdraw (walksFrom_bind hhead (walksFrom_bind hnext (walksFrom_bind htail
    (walksFrom_bind (walksFrom_pure_iff.2 ⟨rfl, rfl⟩) ?_))))
  dsimp only
  rw [Nat.mul_zero, Nat.add_zero, Nat.zero_add]
  exact walksFrom_bind hslot (walksFrom_bind hcount (walksFrom_pure_iff.2 ⟨rfl, rfl⟩))

end

theorem walksFrom_putAll_single {u : Walker} {l : Lvl} {z q : Nat} {p p' : Put} {x y : WSt}
    (h : walksFrom (u.put l z p q) x p' y) : walksFrom (u.putAll l z [q] p) x p' y :=
  walksFrom_bind h (walksFrom_pure_iff.2 ⟨rfl, rfl⟩)

section
variable {o : WOp} {s : State} {k : Nat} {w : Wave} (hat : At s k w) (hgrp : o.grp = true)
  (hguard : w.guardGrp o.guard = true)

/-! ## `APP.OPEN` (R254) -/

section
variable {l : Lvl} {ch old : Nat} {x1 x2 x3 x4 x5 x6 : WSt}
  (hopen : walksFrom ((walkerOf k w .grp).openLevel (w.greg o.a.toNat).toNat true) ⟨s, [], []⟩ l x1)
  (hkind : l.kind = 6) (happ : l.appok = true) (hdraw : walksFrom ((walkerOf k w .grp).draw l) x1 ch x2)
  (hhead : walksFrom ((walkerOf k w .grp).write ch (chunkHeader 0)) x2 () x3)
  (hcas : walksFrom ((walkerOf k w .grp).casTail (l.addr + tailOff) ch) x3 old x4)
include hat hgrp hguard hopen hkind happ hdraw hhead hcas

theorem exec_appOpen_of_zero (hold : old = 0)
    (hfirst : walksFrom ((walkerOf k w .grp).write (l.addr + 24) (bytesOf 8 ch)) x4 () x5)
    (hpos : walksFrom ((walkerOf k w .grp).write l.a0 (bytesOf l.pw 0)) x5 () x6) :
    exec (.appOpen o) s = .next (x6.s.retire k (opened w o.d.toNat l
      (BitVec.ofNat 128 (6 + 16 + l.addr / 64 % 2 ^ 42 * 2 ^ 6)) 0) o.len) := by
  refine onCursor_grp_of_walk hat hgrp hguard rfl (walksFrom_bind hopen ?_)
  rw [if_neg (by simp [hkind, happ])]
  refine walksFrom_bind hdraw (walksFrom_bind hhead (walksFrom_bind hcas ?_))
  rw [if_neg (by simp [hold])]
  refine walksFrom_bind hfirst (walksFrom_bind hpos (walksFrom_pure_iff.2 ⟨?_, rfl⟩))
  simp [opened, Wave.keepLevel, Wave.setCur, Cur.toNat, Wave.setC]

theorem exec_appOpen_of_busy (hold : old ≠ 0) (hsup : w.sys.sup = false) :
    ∃ t : State, exec (.appOpen o) s = .next (takeTrap t k w
      (trapRec w 0x040A 5 0 t.insn.1 t.insn.2 (BitVec.ofNat 64 l.addr) 0)) ∧ t.waves = s.waves := by
  refine ⟨s.undraw (s.ctxOf w) (coreDie (slotCore k)) x4.drawn, ?_, undraw_waves _ _ _ _⟩
  refine (onCursor_grp_of_stop hat hgrp hguard rfl (run_bind_error hopen ?_)).trans
    (walkStop_fault hsup _ _ _ ⟨0x040A, 5, 3, 3, l.addr, 0, 0, 0, 0⟩ x4.drawn x4.seen)
  rw [if_neg (by simp [hkind, happ])]
  refine run_bind_error hdraw (run_bind_error hhead (run_bind_error hcas ?_))
  rw [if_pos (by simpa using hold)]
  rfl

end

/-! ## `APP.PUT` and `APP.CLOSE` (R255, R256) -/

/-- An append cursor that is not null passes R242. -/
theorem curCheck_append {lo : Nat} {c : Cur} (hc : c = Cur.ofNat (w.creg o.d.toNat).toNat) (happ : c.app = true)
    (hlive : c.daddr ≠ 0) : w.curCheck [.grp] [(o.d.toNat, lo)] true false false = none := by
  subst hc
  simp [Wave.curCheck, curBad, Wave.curAt, Cur.isNull, happ, hlive]

section
variable {c : Cur} {l : Lvl} {x1 : WSt} (hc : c = Cur.ofNat (w.creg o.d.toNat).toNat) (happ : c.app = true)
  (hlive : c.daddr ≠ 0) (hlevel : walksFrom ((walkerOf k w .grp).levelOf c o.d.toNat) ⟨s, [], []⟩ l x1)
include hat hgrp hguard hc happ hlive hlevel

section
variable {tail used : Nat} {x2 x3 : WSt}
  (htail : walksFrom ((walkerOf k w .grp).num (l.addr + tailOff) 8) x1 tail x2) (hset : tail ≠ 0)
  (hcount : walksFrom ((walkerOf k w .grp).num (tail + 16) 4) x2 used x3) (hused : used ≤ 252)
include htail hset hcount hused

/-- The entries of the active lanes go in as `putAll` says; then `.row` writes a position, or not. -/
theorem exec_appPut_of_walk {qs : List Nat} (hqs : (w.active o.guard).map (w.vgrp 4 o.b.toNat) = qs)
    {p : Put} {x4 : WSt}
    (hput : walksFrom ((walkerOf k w .grp).putAll l (o.m.toNat % 8) qs ⟨tail, used, c.pos⟩) x3 p x4) :
    (o.m.getLsbD 3 = false → exec (.appPut o) s = .next (x4.s.retire k (w.setC o.d.toNat
      (BitVec.ofNat 128 (Cur.toNat { c with pos := p.pos }))) o.len))
    ∧ ∀ x5, o.m.getLsbD 3 = true →
      walksFrom ((walkerOf k w .grp).write (l.a0 + (c.fin + 1) * l.pw) (bytesOf l.pw p.pos)) x4 () x5 →
      exec (.appPut o) s = .next (x5.s.retire k (w.setC o.d.toNat
        (BitVec.ofNat 128 (Cur.toNat { c with pos := p.pos, fin := c.fin + 1 }))) o.len) := by
  have hcheck := curCheck_append (w := w) (lo := 24) hc happ hlive
  subst hc hqs
  have hz : (o.m.extractLsb' 0 3).toNat = o.m.toNat % 8 := by simp
  refine ⟨fun hm => ?_, fun x5 hm hrow => ?_⟩
  all_goals
    refine onCursor_grp_of_walk hat hgrp hguard hcheck (walksFrom_bind hlevel (walksFrom_bind htail ?_))
    rw [if_neg hset]
    refine walksFrom_bind hcount ?_
    rw [if_neg (Nat.not_lt.2 hused), hz]
    refine walksFrom_bind hput ?_
    rw [hm]
  · exact walksFrom_pure_iff.2 ⟨rfl, rfl⟩
  · exact walksFrom_bind hrow (walksFrom_pure_iff.2 ⟨rfl, rfl⟩)

/-- The first lane's entry stops the instruction where its coordinate is not below DIM (R247). -/
theorem exec_appPut_of_coord {q : Nat} (hq : (w.active o.guard).map (w.vgrp 4 o.b.toNat) = [q])
    (hkeep : ¬ dropsZero (o.m.toNat % 8) (q / 2 ^ 64 % 2 ^ 64)) (hcoord : l.dim ≤ q % 2 ^ 64)
    (hsup : w.sys.sup = false) :
    exec (.appPut o) s = .next (takeTrap s k w
      (trapRec w 0x0404 5 0 s.insn.1 s.insn.2 (BitVec.ofNat 64 l.addr) (BitVec.ofNat 64 c.pos))) := by
  have hcheck := curCheck_append (w := w) (lo := 24) hc happ hlive
  have hdrawn : x3.drawn = [] := by rw [num_drawn hcount, num_drawn htail, levelOf_drawn hlevel]
  subst hc
  have hz : (o.m.extractLsb' 0 3).toNat = o.m.toNat % 8 := by simp
  refine (onCursor_grp_of_stop hat hgrp hguard hcheck (run_bind_error hlevel (run_bind_error htail ?_))).trans
    (walkStop_fault_undrawn hsup _ _ _ ⟨0x0404, 5, 3, 3, l.addr, _, q % 2 ^ 64, 0, 0⟩ x3.seen)
  rw [if_neg hset]
  refine run_bind_error hcount ?_
  rw [if_neg (Nat.not_lt.2 hused), hz]
  refine run_bind_of_error ((congrArg (fun es => (Walker.putAll _ l _ es _).run x3) hq).trans (run_bind_of_error ?_))
  rw [put_of_coord hkeep hcoord, hdrawn]
  rfl

end

theorem exec_appClose_of_walk {x2 x3 x4 : WSt} (hsettle : walksFrom (walkerOf k w .grp).settle x1 () x2)
    (hcount : walksFrom ((walkerOf k w .grp).write (l.addr + 40) (bytesOf 8 c.pos)) x2 () x3)
    (htail : walksFrom ((walkerOf k w .grp).write (l.addr + tailOff) (bytesOf 8 0)) x3 () x4) :
    exec (.appClose o) s = .next (x4.s.retire k (w.setC o.d.toNat
      (BitVec.ofNat 128 (Cur.toNat { c with done := true, app := false }))) o.len) := by
  have hcheck := curCheck_append (w := w) (lo := 24) hc happ hlive
  subst hc
  exact onCursor_grp_of_walk hat hgrp hguard hcheck (walksFrom_bind hlevel (walksFrom_bind hsettle
    (walksFrom_bind hcount (walksFrom_bind htail (walksFrom_pure_iff.2 ⟨rfl, rfl⟩)))))

end

end

/-- Settles O39: each instruction is its walker operations in their order; an entry is dropped, stops the wave, or
goes to the tail chunk or to a new one. -/
theorem appendCursors : Obligations.AppendCursors := by
  intro o s k w hat hgrp hguard u
  refine ⟨fun l ch x1 x2 x3 old x4 hopen hkind happ hdraw hhead hcas => ⟨fun x5 x6 hold hfirst hpos => ?_,
    fun hold hsup => ?_⟩, ?_⟩
  · exact exec_appOpen_of_zero hat hgrp hguard hopen hkind happ hdraw hhead hcas hold hfirst hpos
  · exact exec_appOpen_of_busy hat hgrp hguard hopen hkind happ hdraw hhead hcas hold hsup
  intro c happ hlive
  refine ⟨fun l x1 tail x2 used x3 hlevel htail hset hcount hused => ?_,
    fun l x1 x2 x3 x4 hlevel hsettle hcount hclear =>
    exec_appClose_of_walk hat hgrp hguard rfl happ hlive hlevel hsettle hcount hclear⟩
  intro qs
  refine ⟨fun p x4 => exec_appPut_of_walk hat hgrp hguard rfl happ hlive hlevel htail hset hcount hused rfl, ?_⟩
  intro q hq hm x moved drop
  -- the instruction with the one entry put
  have hone := fun p x4 (hput : walksFrom (u.put l (o.m.toNat % 8) ⟨tail, used, c.pos⟩ q) x3 p x4) =>
    (exec_appPut_of_walk hat hgrp hguard rfl happ hlive hlevel htail hset hcount hused hq
      (walksFrom_putAll_single hput)).1 hm
  refine ⟨fun hdrop => ?_, fun hkeep hcoord hsup => ?_, fun x4 x5 hkeep hcoord hroom hslot hcnt => ?_,
    fun b y1 y2 y3 y4 y5 y6 hkeep hcoord hfull hdraw hhead hnext hnewtail hslot hcnt => ?_⟩
  · exact hone ⟨tail, used, c.pos⟩ x3 (by rw [put_of_dropped hdrop]; exact walksFrom_pure_iff.2 ⟨rfl, rfl⟩)
  · exact exec_appPut_of_coord hat hgrp hguard rfl happ hlive hlevel htail hset hcount hused hq hkeep hcoord hsup
  · exact hone ⟨tail, used + 1, c.pos + 1⟩ x5 (put_in_chunk hkeep hcoord hroom hslot hcnt)
  · exact hone ⟨b, 1, c.pos + 1⟩ y6 (put_in_new_chunk hkeep hcoord hfull hdraw hhead hnext hnewtail hslot hcnt)

end Sys2Proof.Proofs
end
section
/-! Null cursors (R240): each cursor instruction on a done cursor of an empty fibre, in both forms. -/

namespace Sys2Proof.Proofs

open Sys2Proof Sys2Proof.Machine Sys2Proof.Claims

/-! ## The checks of R242 -/

theorem isNull_curAt {w : Wave} {c : Machine.Cell} {r : Nat} (h : daddr w c r = 0) :
    (Cur.ofNat (w.curAt c r)).isNull = true := decide_eq_true h

theorem curCheck_eq_none_iff {w : Wave} {cs : List Machine.Cell} {fs : List (Nat × Nat)} {want addr union : Bool} :
    w.curCheck cs fs want addr union = none ↔ ∀ c ∈ cs, ∀ f ∈ fs, curBad (w.curAt c f.1) want addr union = false := by
  unfold Wave.curCheck
  rw [List.findSome?_eq_none_iff]
  constructor
  · intro h c hc f hf
    simpa using h (c, f) (List.mem_flatMap.2 ⟨c, hc, List.mem_map_of_mem hf⟩)
  · intro h q hq
    obtain ⟨c, hc, hq⟩ := List.mem_flatMap.1 hq
    obtain ⟨f, hf, rfl⟩ := List.mem_map.1 hq
    simp [h c hc f hf]

/-- A null cursor is no append cursor: the check names its field. -/
theorem curCheck_append_null {w : Wave} {cs : List Machine.Cell} {d : Nat} (lo : Nat) (h : ∃ c ∈ cs, daddr w c d = 0) :
    w.curCheck cs [(d, lo)] true false false = some lo := by
  obtain ⟨c, hc, hnull⟩ := h
  have hbad : curBad (w.curAt c d) true false false = true := by simp [curBad, isNull_curAt hnull]
  cases hcheck : w.curCheck cs [(d, lo)] true false false with
  | none => simp [curCheck_eq_none_iff.1 hcheck c hc (d, lo) (by simp)] at hbad
  | some lo' =>
    obtain ⟨q, hq, hlo⟩ := List.exists_of_findSome?_eq_some hcheck
    obtain ⟨c', -, hq⟩ := List.mem_flatMap.1 hq
    obtain ⟨f, hf, rfl⟩ := List.mem_map.1 hq
    rw [List.mem_singleton.1 hf] at hlo
    split at hlo
    · exact hlo.symm
    · cases hlo

/-! ## Instructions that walk nothing -/

theorem lanes_of_pure {k : Nat} {w0 : Wave} {body : Walker → Machine.Cell → Wave → Walk Wave} {g : Nat → Wave → Wave}
    (ls : List Nat) (h : ∀ l ∈ ls, ∀ x, body (walkerOf k w0 (.lane l)) (.lane l) x = pure (g l x)) (s : State)
    (x : Wave) :
    ls.foldl (fun (r : WRun) l => r.lane k w0 l body) ⟨s, x, [], none⟩
      = ⟨s, ls.foldl (fun x l => g l x) x, [], none⟩ := by
  induction ls generalizing x with
  | nil => rfl
  | cons l ls ih =>
    rw [List.foldl_cons, List.foldl_cons, ← ih fun m hm => h m (List.mem_cons_of_mem _ hm)]
    congr 1
    simp only [WRun.lane, h l List.mem_cons_self]
    rfl

section
variable {i : Instr} {o : WOp} {s : State} {k : Nat} {w : Wave} (hat : At s k w)
include hat

/-- When each cell changes the wave and walks nothing, both forms retire with the cells' changes. -/
theorem onCursor_of_pure {fs : List (Nat × Nat)} {want addr : Bool} {body : Walker → Machine.Cell → Wave → Walk Wave}
    {g : Machine.Cell → Wave → Wave} (hcheck : w.curCheck (w.cells o) fs want addr false = none)
    (hbody : ∀ c ∈ w.cells o, ∀ x, body (walkerOf k w c) c x = pure (g c x)) :
    onCursor i o s fs want addr body = .next (s.retire k ((w.cells o).foldl (fun x c => g c x) w) o.len) := by
  refine (onWave_at hat.cur hat.wave _).trans ?_
  simp only [hcheck]
  cases hgrp : o.grp with
  | true =>
    cases hguard : w.guardGrp o.guard with
    | false => simp [Wave.cells, hgrp, hguard]
    | true =>
      rw [cells_of_grp hgrp hguard] at hbody ⊢
      simp only [Bool.not_true, Bool.false_eq_true, if_true, if_false, hbody .grp List.mem_cons_self]
      rfl
  | false =>
    have hcells : w.cells o = (w.active o.guard).map .lane := by simp [Wave.cells, hgrp]
    rw [hcells] at hbody ⊢
    rw [List.foldl_map]
    simp only [Bool.false_eq_true, if_false, lanes_of_pure (g := fun l => g (.lane l)) _ fun l hl =>
      hbody (.lane l) (List.mem_map_of_mem hl)]
    rfl

/-- An instruction that gives one predicate value to every cell retires with it. -/
theorem retiresPred_of_setPred (hd : predDst o) {b : Bool} (hexec : exec i s =
      .next (s.retire k ((w.cells o).foldl (fun x c => x.setPred c o.d.toNat b) w) o.len)) :
    ∃ w', RetiresPred i o s k w w' 0 ∧ ∀ c ∈ w.cells o, w'.srcP c o.d.toNat = b := by
  have hf : ∀ c ∈ w.cells o, (b, (0 : W32)).2 &&& ~~~(0 : W32) = 0 := fun _ _ => by simp
  refine ⟨_, retires_computedPred (f := fun _ _ => (b, 0)) hat hd (hexec.trans ?_) (enabledOf_zero _) hf,
    fun c hc => computedPred_srcP hd hc⟩
  rw [runPred_next hat fun _ _ => enabledOf_zero _]
  simp only [computedPred, orFlags_zero]

end

/-! ## Delivering nothing -/

/-- What a cell of `CUR.NEXT` or `CUR.COIT` does when nothing is delivered: predicate 0 for its lanes, and in the
wave form the group predicate that says done. -/
def deliverNone (w0 : Wave) (o : WOp) (gp : Nat) (w : Wave) : Machine.Cell → Wave
  | .grp => ((w0.active o.guard).foldl (fun y n => y.setPL o.c.toNat n false) w).setGP gp true
  | .lane n => w.setPL o.c.toNat n false

/-- The wave to whose cells nothing is delivered. -/
def noneDelivered (w : Wave) (o : WOp) (gp : Nat) : Wave := (w.cells o).foldl (deliverNone w o gp) w

theorem lane_clearLanes {ls : List Nat} (hls : ∀ l ∈ ls, l < 64) (r : Nat) (w : Wave) :
    ∀ l ∈ ls, lane ((ls.foldl (fun y n => y.setPL r n false) w).preg r) l = false := by
  refine foldl_reaches (Q := fun l x => lane (x.preg r) l = false) (fun x l hl => ?_)
    (fun x l _ m hm hne hx => ?_) w
  · rw [Wave.lane_setPL _ _ _ _ _ _ (hls l hl), if_pos ⟨rfl, rfl⟩]
  · rw [Wave.lane_setPL _ _ _ _ _ _ (hls m hm), if_neg fun h => hne h.2, hx]

section
variable {w : Wave} {o : WOp} {gp : Nat}

theorem onlyRegs_noneDelivered : OnlyRegs w (noneDelivered w o gp) never2 never1
    (fun r l => r = o.c.toNat ∧ actsOn w o l) (fun r => actsGrp w o ∧ r = gp) 0 := by
  refine onlyRegs_foldl (fun x c hc => ?_) w
  cases c with
  | lane n =>
    obtain ⟨hgrp, hn⟩ := cells_lane hc
    exact onlyRegs_setPL (w.active_lt hn) ⟨rfl, hn, by simp [hgrp]⟩ _
  | grp =>
    refine onlyRegs_trans (onlyRegs_foldl (fun y n hn => ?_) x) (onlyRegs_setGP ⟨cells_grp hc, rfl⟩ _)
    exact onlyRegs_setPL (w.active_lt hn) ⟨rfl, hn, fun _ => (cells_grp hc).2⟩ _

theorem noneDelivered_preg : ∀ l, actsOn w o l → lane ((noneDelivered w o gp).preg o.c.toNat) l = false := by
  rintro l ⟨hl, hguard⟩
  cases hgrp : o.grp with
  | true =>
    rw [noneDelivered, cells_of_grp hgrp (hguard hgrp)]
    exact lane_clearLanes (fun m hm => w.active_lt hm) _ w l hl
  | false =>
    have hcells : w.cells o = (w.active o.guard).map .lane := by simp [Wave.cells, hgrp]
    rw [noneDelivered, hcells, List.foldl_map]
    exact lane_clearLanes (fun m hm => w.active_lt hm) _ w l hl

theorem noneDelivered_gpred (hgp : o.grp = true → gp < 16) : actsGrp w o → (noneDelivered w o gp).gpred gp = true := by
  rintro ⟨hgrp, hguard⟩
  rw [noneDelivered, cells_of_grp hgrp hguard]
  exact (Wave.gpred_setGP _ _ _ _).trans (if_pos ⟨rfl, hgp hgrp⟩)

end

section
variable {o : WOp} {s : State} {k : Nat} {w : Wave} (hat : At s k w)
include hat

theorem exec_curNext_null (hnull : nullCur w o o.b.toNat 40 (o.m.getLsbD 0) false) :
    exec (.curNext o) s = .next (s.retire k (noneDelivered w o (o.a.toNat - 64)) o.len) := by
  refine onCursor_of_pure hat (g := fun c x => deliverNone w o (o.a.toNat - 64) x c) hnull.2 fun c hc x => ?_
  cases c <;> simp [walkerOf, isNull_curAt (hnull.1 _ hc), deliverNone]

theorem exec_curSeek_null (hnull : nullCur w o o.a.toNat 32 false false) : exec (.curSeek o) s =
    .next (s.retire k ((w.cells o).foldl (fun x c => x.setPred c o.d.toNat false) w) o.len) := by
  refine onCursor_of_pure hat (g := fun c x => x.setPred c o.d.toNat false) hnull.2 fun c hc x => ?_
  simp [walkerOf, isNull_curAt (hnull.1 c hc)]

theorem exec_curTest_null (hzero : ∀ c ∈ w.cells o, daddr w c o.a.toNat = 0) : exec (.curTest o) s =
    .next (s.retire k ((w.cells o).foldl (fun x c => x.setPred c o.d.toNat true) w) o.len) := by
  refine onCursor_of_pure hat (g := fun c x => x.setPred c o.d.toNat true)
    (curCheck_eq_none_iff.2 fun _ _ _ hf => by cases hf) fun c hc x => ?_
  simp [walkerOf, isNull_curAt (hzero c hc)]

theorem exec_curGet_null (hnull : nullCur w o o.a.toNat 32 (o.m.getLsbD 0) false) (hraw : o.m.getLsbD 1 = false) :
    exec (.curGet o) s = .next (s.retire k ((w.cells o).foldl (fun x c => x.setPair c o.d.toNat (2 ^ 128 - 1)) w)
      o.len) := by
  refine onCursor_of_pure hat (g := fun c x => x.setPair c o.d.toNat (2 ^ 128 - 1)) hnull.2 fun c hc x => ?_
  simp only [walkerOf, hraw, isNull_curAt (hnull.1 c hc), Bool.true_or, Bool.false_eq_true, if_true, if_false]

theorem exec_curDesc_null (hnull : nullCur w o o.a.toNat 32 false false) : exec (.curDesc o) s =
    .next (s.retire k ((w.cells o).foldl (fun x c => x.setCur c o.d.toNat 0) w) o.len) := by
  refine onCursor_of_pure hat (g := fun c x => x.setCur c o.d.toNat 0) hnull.2 fun c hc x => ?_
  simp [walkerOf, isNull_curAt (hnull.1 c hc)]

end

/-! ## What is written for a done cursor on an empty fibre -/

section
variable {o : WOp} {w : Wave}

theorem onlyRegs_setPair_cells (x : Nat) :
    OnlyRegs w ((w.cells o).foldl (fun y c => y.setPair c o.d.toNat x) w)
      (fun r l => o.grp = false ∧ l ∈ w.active o.guard ∧ o.d.toNat ≤ r ∧ r < o.d.toNat + 4)
      (fun r => actsGrp w o ∧ (r = o.d.toNat ∨ r = o.d.toNat + 1)) never2 never1 0 := by
  refine onlyRegs_foldl (fun y c hc => ?_) w
  cases c with
  | lane n =>
    obtain ⟨hgrp, hn⟩ := cells_lane hc
    exact onlyRegs_setVgrp (w.active_lt hn) (fun r h1 h2 => ⟨hgrp, hn, h1, h2⟩) x
  | grp => exact onlyRegs_trans (onlyRegs_setG ⟨cells_grp hc, .inl rfl⟩ _) (onlyRegs_setG ⟨cells_grp hc, .inr rfl⟩ _)

/-- Each lane's group of V registers holds what the lane was given. -/
theorem vgrp_of_cells {f : Machine.Cell → Wave → Wave} {n r x : Nat} (hf : ∀ l y, f (.lane l) y = y.setVgrp n r l x)
    (l : Nat) (hl : Machine.Cell.lane l ∈ w.cells o) :
    ((w.cells o).foldl (fun y c => f c y) w).vgrp n r l = x % 2 ^ (32 * n) := by
  refine foldl_reaches (Q := fun c y => ∀ l, c = .lane l → y.vgrp n r l = x % 2 ^ (32 * n)) ?_ ?_ w _ hl l rfl
  · rintro y c hc m rfl
    rw [hf, Wave.vgrp_setVgrp _ _ _ _ _ (w.active_lt (cells_lane hc).2)]
  · rintro y c hc c' hc' hne hy m rfl
    obtain rfl | ⟨m', l', hm', rfl, hml, hm64, hl64⟩ := cells_cases hc hc'
    · exact absurd rfl hne
    · cases hm'
      rw [hf, Wave.vgrp_setVgrp_ne _ _ _ _ _ _ _ _ hl64 hm64 hml]
      exact hy m rfl

theorem vgrp_setPair_cells (x l : Nat) (hl : Machine.Cell.lane l ∈ w.cells o) :
    ((w.cells o).foldl (fun y c => y.setPair c o.d.toNat x) w).vgrp 4 o.d.toNat l = x % 2 ^ (32 * 4) :=
  vgrp_of_cells (f := fun c y => y.setPair c o.d.toNat x) (fun _ _ => rfl) l hl

theorem greg_setPair_ones (h : actsGrp w o) :
    ((w.cells o).foldl (fun y c => y.setPair c o.d.toNat (2 ^ 128 - 1)) w).greg o.d.toNat = BitVec.allOnes 64
      ∧ ((w.cells o).foldl (fun y c => y.setPair c o.d.toNat (2 ^ 128 - 1)) w).greg (o.d.toNat + 1)
        = BitVec.allOnes 64 := by
  rw [cells_of_grp h.1 h.2]
  simp only [List.foldl_cons, List.foldl_nil, Wave.setPair, Wave.greg_setG]
  rw [if_neg (by omega), if_pos trivial, if_pos trivial]
  exact ⟨by decide, by decide⟩

theorem curAt_setCur_null (c : Machine.Cell) (hc : c ∈ w.cells o) :
    ((w.cells o).foldl (fun y c => y.setCur c o.d.toNat 0) w).curAt c o.d.toNat = 0 := by
  cases c with
  | lane l =>
    exact (vgrp_of_cells (f := fun c y => y.setCur c o.d.toNat 0) (fun _ _ => rfl) l hc).trans (Nat.zero_mod _)
  | grp =>
    rw [cells_of_grp (cells_grp hc).1 (cells_grp hc).2]
    simp [Wave.setCur, Wave.curAt, Wave.creg_setC]

end

/-! ## `CUR.COIT` with null sides (R252) -/

theorem side_of_null {w : Wave} {c : Machine.Cell} {r : Nat} (h : daddr w c r = 0) (u : Walker) :
    u.side (w.curAt c r) r = pure none := if_pos (isNull_curAt h)

theorem walksFrom_side_of_live {u : Walker} {w : Wave} {c : Machine.Cell} {r : Nat} {l : Lvl} {x y : WSt}
    (h : daddr w c r ≠ 0) (hlevel : walksFrom (u.levelOf (Cur.ofNat (w.curAt c r)) r) x l y) :
    walksFrom (u.side (w.curAt c r) r) x (some (l, Cur.ofNat (w.curAt c r))) y := by
  have hlive : ¬ (Cur.ofNat (w.curAt c r)).isNull = true := fun hnull => h (of_decide_eq_true hnull)
  unfold Walker.side
  dsimp only
  rw [if_neg hlive]
  exact walksFrom_bind hlevel (walksFrom_pure_iff.2 ⟨rfl, rfl⟩)

/-- With both sides null nothing is delivered, under `.isect` with one. -/
def NothingToDeliver (isUnion : Bool) (a b : CSide) : Prop :=
  (a = none ∧ b = none) ∨ (isUnion = false ∧ (a = none ∨ b = none))

section
variable {isUnion : Bool} {a b : CSide} (h : NothingToDeliver isUnion a b)
include h

theorem coit_of_nothing (u : Walker) : u.coit isUnion a b = pure (none, a, b) := by
  rcases h with ⟨rfl, rfl⟩ | ⟨rfl, rfl | rfl⟩
  · cases isUnion <;> rfl
  · rfl
  · cases a <;> rfl

theorem coitDone_of_nothing : coitDone isUnion a b = true := by
  rcases h with ⟨rfl, rfl⟩ | ⟨rfl, rfl | rfl⟩
  · cases isUnion <;> rfl
  · rfl
  · cases a <;> rfl

end

theorem coitLanes_of_nothing {o : WOp} {a b : CSide} (h : NothingToDeliver (o.m.getLsbD 0) a b) (u : Walker)
    (ls : List Nat) (w : Wave) :
    u.coitLanes o ls a b w = pure (a, b, ls.foldl (fun y n => y.setPL o.c.toNat n false) w) := by
  induction ls generalizing w with
  | nil => rfl
  | cons n ls ih => rw [Walker.coitLanes, coit_of_nothing h, pure_bind, ih]; rfl

/-- The walk of the wave form of `CUR.COIT`. -/
def coitWave (k : Nat) (w : Wave) (o : WOp) : Walk Wave := do
  let u := walkerOf k w .grp
  let a ← u.side (w.curAt .grp o.a.toNat) o.a.toNat
  let b ← u.side (w.curAt .grp o.b.toNat) o.b.toNat
  let r ← u.coitLanes o (w.active o.guard) a b w
  return ((r.2.2.setSide .grp o.a.toNat r.1).setSide .grp o.b.toNat r.2.1).setGP
    (o.m.extractLsb' 4 4).toNat (coitDone (o.m.getLsbD 0) r.1 r.2.1)

section
variable {o : WOp} {s : State} {k : Nat} {w : Wave} (hat : At s k w)
  (hcheck : w.curCheck (w.cells o) [(o.a.toNat, 32), (o.b.toNat, 40)] false false (o.m.getLsbD 0) = none)
include hat hcheck

theorem exec_curCoit_skip (hgrp : o.grp = true) (hguard : w.guardGrp o.guard = false) :
    exec (.curCoit o) s = .next (s.retire k w o.len) := by
  refine (onWave_at hat.cur hat.wave _).trans ?_
  simp only [hcheck]
  rw [if_pos (by simp [hgrp, hguard])]

theorem exec_curCoit_wave (h : actsGrp w o) {w' : Wave} {x : WSt}
    (hwalk : walksFrom (coitWave k w o) ⟨s, [], []⟩ w' x) :
    exec (.curCoit o) s = .next (x.s.retire k w' o.len) := by
  obtain ⟨hgrp, hguard⟩ := h
  refine (onWave_at hat.cur hat.wave _).trans ?_
  simp only [hcheck]
  rw [if_neg (by simp [hguard]), if_pos hgrp]
  change (match (coitWave k w o).run ⟨s, [], []⟩ with
    | .ok (w1, x) => _
    | .error e => _) = _
  rw [hwalk]

theorem exec_curCoit_lanes (hgrp : o.grp = false) {w' : Wave} {x : WSt}
    (hwalk : walksFrom (coitEach k w o (w.active o.guard) w) ⟨s, [], []⟩ w' x) :
    exec (.curCoit o) s = .next (x.s.retire k w' o.len) := by
  refine (onWave_at hat.cur hat.wave _).trans ?_
  simp only [hcheck]
  rw [if_neg (by simp [hgrp]), if_neg (by simp [hgrp])]
  change (match (coitEach k w o (w.active o.guard) w).run ⟨s, [], []⟩ with
    | .ok (w1, x) => _
    | .error e => _) = _
  rw [hwalk]

end

/-- The wave form when nothing is delivered: the sides' cursors are written back as they stand. -/
theorem walksFrom_coitWave_of_nothing {o : WOp} {k : Nat} {w : Wave} {a b : CSide} {x0 x1 x2 : WSt}
    (ha : walksFrom ((walkerOf k w .grp).side (w.curAt .grp o.a.toNat) o.a.toNat) x0 a x1)
    (hb : walksFrom ((walkerOf k w .grp).side (w.curAt .grp o.b.toNat) o.b.toNat) x1 b x2)
    (h : NothingToDeliver (o.m.getLsbD 0) a b) :
    walksFrom (coitWave k w o) x0 (((((w.active o.guard).foldl (fun y n => y.setPL o.c.toNat n false) w).setSide .grp
      o.a.toNat a).setSide .grp o.b.toNat b).setGP (o.m.extractLsb' 4 4).toNat true) x2 := by
  refine walksFrom_bind ha (walksFrom_bind hb ?_)
  rw [coitLanes_of_nothing h, pure_bind, coitDone_of_nothing h]
  exact walksFrom_pure_iff.2 ⟨rfl, rfl⟩

theorem coitEach_null {k : Nat} {w0 : Wave} {o : WOp} {ls : List Nat}
    (h : ∀ n ∈ ls, daddr w0 (.lane n) o.a.toNat = 0 ∧ daddr w0 (.lane n) o.b.toNat = 0) (w : Wave) :
    coitEach k w0 o ls w = pure (ls.foldl (fun y n => y.setPL o.c.toNat n false) w) := by
  induction ls generalizing w with
  | nil => rfl
  | cons n ls ih =>
    obtain ⟨ha, hb⟩ := h n List.mem_cons_self
    simp only [coitEach, side_of_null ha, side_of_null hb, pure_bind, coit_of_nothing (.inl ⟨rfl, rfl⟩)]
    exact ih (fun m hm => h m (List.mem_cons_of_mem _ hm)) _

theorem exec_curCoit_null {o : WOp} {s : State} {k : Nat} {w : Wave} (hat : At s k w)
    (ha : nullCur w o o.a.toNat 32 false (o.m.getLsbD 0)) (hb : nullCur w o o.b.toNat 40 false (o.m.getLsbD 0)) :
    exec (.curCoit o) s = .next (s.retire k (noneDelivered w o (o.m.extractLsb' 4 4).toNat) o.len) := by
  obtain ⟨hazero, hacheck⟩ := ha
  obtain ⟨hbzero, hbcheck⟩ := hb
  have hcheck : w.curCheck (w.cells o) [(o.a.toNat, 32), (o.b.toNat, 40)] false false (o.m.getLsbD 0) = none := by
    rw [curCheck_eq_none_iff] at hacheck hbcheck ⊢
    simp only [List.forall_mem_cons] at hacheck hbcheck ⊢
    exact fun c hc => ⟨(hacheck c hc).1, (hbcheck c hc).1, by simp⟩
  cases hgrp : o.grp with
  | true =>
    cases hguard : w.guardGrp o.guard with
    | false =>
      rw [exec_curCoit_skip hat hcheck hgrp hguard]
      simp [noneDelivered, Wave.cells, hgrp, hguard]
    | true =>
      rw [cells_of_grp hgrp hguard] at hazero hbzero
      rw [noneDelivered, cells_of_grp hgrp hguard]
      refine exec_curCoit_wave hat hcheck ⟨hgrp, hguard⟩ (x := ⟨s, [], []⟩)
        (walksFrom_coitWave_of_nothing (a := none) (b := none) (x1 := ⟨s, [], []⟩) ?_ ?_ (.inl ⟨rfl, rfl⟩))
      · rw [side_of_null (hazero _ List.mem_cons_self)]; exact walksFrom_pure_iff.2 ⟨rfl, rfl⟩
      · rw [side_of_null (hbzero _ List.mem_cons_self)]; exact walksFrom_pure_iff.2 ⟨rfl, rfl⟩
  | false =>
    have hcells : w.cells o = (w.active o.guard).map .lane := by simp [Wave.cells, hgrp]
    rw [hcells] at hazero hbzero
    rw [noneDelivered, hcells, List.foldl_map]
    refine exec_curCoit_lanes hat hcheck hgrp (x := ⟨s, [], []⟩) ?_
    rw [coitEach_null fun n hn => ⟨hazero _ (List.mem_map_of_mem hn), hbzero _ (List.mem_map_of_mem hn)⟩]
    exact walksFrom_pure_iff.2 ⟨rfl, rfl⟩

/-! ### `.isect` with one null side -/

theorem preg_setC (w : Wave) (r : Nat) (v : W128) (r' : Nat) : (w.setC r v).preg r' = w.preg r' := rfl
theorem vreg_setC (w : Wave) (r : Nat) (v : W128) (r' l : Nat) : (w.setC r v).vreg r' l = w.vreg r' l := rfl

section
variable {w : Wave} (c : Machine.Cell) (r : Nat) (a : CSide)

theorem preg_setSide (r' : Nat) : (w.setSide c r a).preg r' = w.preg r' := by
  cases a with
  | none => rfl
  | some q => cases c with
    | grp => exact preg_setC _ _ _ _
    | lane n => exact w.preg_setVgrp _ _ _ _ _

theorem vreg_setSide_grp (r' l : Nat) : (w.setSide .grp r a).vreg r' l = w.vreg r' l := by
  cases a with
  | none => rfl
  | some q => exact vreg_setC _ _ _ _ _

theorem vreg_setSide_lane {n r' l : Nat} (hn : n < 64) (hl : l < 64) (hr : ¬ (r ≤ r' ∧ r' < r + 4)) :
    (w.setSide (.lane n) r a).vreg r' l = w.vreg r' l := by
  cases a with
  | none => rfl
  | some q => exact (Wave.vreg_setVgrp _ _ _ _ _ _ _ hn hl).trans (if_neg fun h => hr h.2)

end

/-- A null side is no side. -/
theorem side_eq_none_of_null {u : Walker} {w : Wave} {c : Machine.Cell} {r : Nat} {a : CSide} {x y : WSt}
    (h : daddr w c r = 0) (ha : walksFrom (u.side (w.curAt c r) r) x a y) : a = none := by
  rw [side_of_null h] at ha
  exact (walksFrom_pure_iff.1 ha).1

section
variable {o : WOp} {k : Nat} {w : Wave} (hm : o.m.getLsbD 0 = false)
include hm

/-- In the lane form each lane gets predicate 0, and its cursors are written back as they stand. -/
theorem coitEach_isect_null {w0 : Wave} {ls : List Nat} (hls : ∀ n ∈ ls, n < 64)
    (hnull : ∀ n ∈ ls, daddr w0 (.lane n) o.a.toNat = 0 ∨ daddr w0 (.lane n) o.b.toNat = 0) {w' : Wave} {x y : WSt}
    (hwalk : walksFrom (coitEach k w0 o ls w) x w' y) :
    (∀ l, l ∈ ls ∨ lane (w.preg o.c.toNat) l = false → lane (w'.preg o.c.toNat) l = false)
      ∧ ∀ r l, l < 64 → ¬ (o.a.toNat ≤ r ∧ r < o.a.toNat + 4) → ¬ (o.b.toNat ≤ r ∧ r < o.b.toNat + 4) →
        w'.vreg r l = w.vreg r l := by
  induction ls generalizing w x with
  | nil =>
    obtain ⟨rfl, rfl⟩ := walksFrom_pure_iff.1 hwalk
    exact ⟨fun l hl => hl.resolve_left List.not_mem_nil, fun _ _ _ _ _ => rfl⟩
  | cons n ls ih =>
    have hn := hls n List.mem_cons_self
    obtain ⟨a, x1, ha, hwalk⟩ := walksFrom_of_bind hwalk
    obtain ⟨b, x2, hb, hwalk⟩ := walksFrom_of_bind hwalk
    have hnone : NothingToDeliver (o.m.getLsbD 0) a b := .inr ⟨hm,
      (hnull n List.mem_cons_self).imp (side_eq_none_of_null · ha) (side_eq_none_of_null · hb)⟩
    rw [coit_of_nothing hnone, pure_bind] at hwalk
    obtain ⟨hpreg, hvreg⟩ := ih (fun m hm => hls m (List.mem_cons_of_mem _ hm))
      (fun m hm => hnull m (List.mem_cons_of_mem _ hm)) hwalk
    refine ⟨fun l hl => hpreg l ?_, fun r l hl har hbr => ?_⟩
    · rw [preg_setSide, preg_setSide, Wave.setOctet, Wave.lane_setPL _ _ _ _ _ _ hn]
      by_cases hln : l = n
      · exact .inr (if_pos ⟨rfl, hln⟩)
      · rw [if_neg fun h => hln h.2]
        exact hl.imp_left fun hl => (List.mem_cons.1 hl).resolve_left hln
    · rw [hvreg r l hl har hbr, vreg_setSide_lane _ _ hn hl hbr, vreg_setSide_lane _ _ hn hl har]
      rfl

/-- In the wave form every active lane gets predicate 0, and the group predicate says done. -/
theorem exec_curCoit_isect_null {s : State} (hat : At s k w) (hact : actsGrp w o)
    (hnull : daddr w .grp o.a.toNat = 0 ∨ daddr w .grp o.b.toNat = 0)
    (hcheck : w.curCheck (w.cells o) [(o.a.toNat, 32), (o.b.toNat, 40)] false false false = none)
    {a b : CSide} {x1 x2 : WSt}
    (ha : walksFrom ((walkerOf k w .grp).side (w.curAt .grp o.a.toNat) o.a.toNat) ⟨s, [], []⟩ a x1)
    (hb : walksFrom ((walkerOf k w .grp).side (w.curAt .grp o.b.toNat) o.b.toNat) x1 b x2) :
    ∃ w', exec (.curCoit o) s = .next (x2.s.retire k w' o.len)
      ∧ ((∀ l, actsOn w o l → lane (w'.preg o.c.toNat) l = false)
        ∧ (actsGrp w o → w'.gpred (o.m.extractLsb' 4 4).toNat = true))
      ∧ ∀ r l, w'.vreg r l = w.vreg r l := by
  have hnone : NothingToDeliver (o.m.getLsbD 0) a b := .inr ⟨hm,
    hnull.imp (side_eq_none_of_null · ha) (side_eq_none_of_null · hb)⟩
  refine ⟨_, exec_curCoit_wave hat (hm.symm ▸ hcheck) hact (walksFrom_coitWave_of_nothing ha hb hnone),
    ⟨fun l hl => ?_, fun _ => ?_⟩, fun r l => ?_⟩
  · rw [Wave.preg_setGP, preg_setSide, preg_setSide]
    exact lane_clearLanes (fun n hn => w.active_lt hn) _ w l hl.1
  · rw [Wave.gpred_setGP, if_pos ⟨rfl, (o.m.extractLsb' 4 4).isLt⟩]
  · rw [Wave.vreg_setGP, vreg_setSide_grp, vreg_setSide_grp]
    exact foldl_keeps (p := fun y : Wave => y.vreg r l) (f := fun y n => y.setPL o.c.toNat n false) (fun _ _ => rfl) _ w

end

/-! ### `.union` with one null side -/

section
variable {u : Walker} {l : Lvl} {c c' : Cur} {v p : Nat} {x1 x2 x3 x4 : WSt} (hlive : c.done = false)
  (hcoord : walksFrom (u.coord l c true) x1 v x2) (hplace : walksFrom (u.entryPos l c false) x2 p x3)
  (hstep : walksFrom (u.advance l c) x3 c' x4)
include hlive hcoord

theorem sideCoord_of_live : walksFrom (u.sideCoord (some (l, c))) x1 (some v) x2 := by
  unfold Walker.sideCoord
  dsimp only
  rw [hlive, if_neg (by decide)]
  exact walksFrom_bind hcoord (walksFrom_pure_iff.2 ⟨rfl, rfl⟩)

omit hlive hcoord in
include hplace hstep in
theorem sideTake_of_held : walksFrom (u.sideTake (some (l, c)) (some v) v) x2 (some (l, c'), some p) x4 := by
  unfold Walker.sideTake
  dsimp only
  rw [if_pos rfl]
  exact walksFrom_bind hplace (walksFrom_bind hstep (walksFrom_pure_iff.2 ⟨rfl, rfl⟩))

include hplace hstep

theorem union_of_right_null :
    walksFrom (u.union (some (l, c)) none) x1 (some (octet v p allOnes64 1), some (l, c'), none) x4 :=
  walksFrom_bind (sideCoord_of_live hlive hcoord) (walksFrom_bind (walksFrom_pure_iff.2 ⟨rfl, rfl⟩)
    (walksFrom_bind (sideTake_of_held hplace hstep) (walksFrom_bind (walksFrom_pure_iff.2 ⟨rfl, rfl⟩)
      (walksFrom_pure_iff.2 ⟨rfl, rfl⟩))))

theorem union_of_left_null :
    walksFrom (u.union none (some (l, c))) x1 (some (octet v allOnes64 p 2), none, some (l, c')) x4 :=
  walksFrom_bind (walksFrom_pure_iff.2 ⟨rfl, rfl⟩) (walksFrom_bind (sideCoord_of_live hlive hcoord)
    (walksFrom_bind (walksFrom_pure_iff.2 ⟨rfl, rfl⟩) (walksFrom_bind (sideTake_of_held hplace hstep)
      (walksFrom_pure_iff.2 ⟨rfl, rfl⟩))))

end

theorem octet_eq_result8 {a b : Nat} (ha : a < 2 ^ 64) (hb : b < 2 ^ 64) (x pres : Nat) :
    octet x a b pres = result8 x a b pres := by
  rw [octet, result8, Nat.mod_eq_of_lt ha, Nat.mod_eq_of_lt hb]

/-- The result of a union whose other side is null: all ones for the position of the null side. -/
def unionResult (w : Wave) (cell : Machine.Cell) (a v p : Nat) : Nat :=
  if daddr w cell a = 0 then result8 v (2 ^ 64 - 1) p 2 else result8 v p (2 ^ 64 - 1) 1

/-- Both sides of a union of cursors in registers ra and rb, of which one is null: the walk of its one result, what is
written back, and done. -/
theorem walksFrom_union_of_null {u : Walker} {w : Wave} {cell : Machine.Cell} {ra rb r q v p : Nat} {l : Lvl} {c' : Cur}
    {x0 x1 x2 x3 x4 : WSt} (hrq : (r, q) ∈ [(ra, rb), (rb, ra)]) (hnull : daddr w cell q = 0) (hr : daddr w cell r ≠ 0)
    (hlevel : walksFrom (u.levelOf (Cur.ofNat (w.curAt cell r)) r) x0 l x1)
    (hlive : (Cur.ofNat (w.curAt cell r)).done = false)
    (hcoord : walksFrom (u.coord l (Cur.ofNat (w.curAt cell r)) true) x1 v x2)
    (hplace : walksFrom (u.entryPos l (Cur.ofNat (w.curAt cell r)) false) x2 p x3) (hp : p < 2 ^ 64)
    (hstep : walksFrom (u.advance l (Cur.ofNat (w.curAt cell r))) x3 c' x4) :
    ∃ a b a' b' y, walksFrom (u.side (w.curAt cell ra) ra) x0 a y ∧ walksFrom (u.side (w.curAt cell rb) rb) y b x1
      ∧ walksFrom (u.union a b) x1 (some (unionResult w cell ra v p), a', b') x4
      ∧ (∀ w1 : Wave, (w1.setSide cell ra a').setSide cell rb b' = w1.setCur cell r c'.toNat)
      ∧ coitDone true a' b' = c'.done := by
  have hside := walksFrom_side_of_live hr hlevel
  have hones : allOnes64 < 2 ^ 64 := by decide
  simp only [List.mem_cons, Prod.mk.injEq, List.not_mem_nil, or_false] at hrq
  obtain ⟨rfl, rfl⟩ | ⟨rfl, rfl⟩ := hrq
  · refine ⟨_, none, some (l, c'), none, x1, hside, ?_, ?_, fun _ => rfl, by simp [coitDone, sideDone]⟩
    · rw [side_of_null hnull]
      exact walksFrom_pure_iff.2 ⟨rfl, rfl⟩
    · rw [unionResult, if_neg hr]
      exact octet_eq_result8 hp hones v 1 ▸ union_of_right_null hlive hcoord hplace hstep
  · refine ⟨none, _, none, some (l, c'), x0, ?_, hside, ?_, fun _ => rfl, by simp [coitDone, sideDone]⟩
    · rw [side_of_null hnull]
      exact walksFrom_pure_iff.2 ⟨rfl, rfl⟩
    · rw [unionResult, if_pos hnull]
      exact octet_eq_result8 hones hp v 2 ▸ union_of_left_null hlive hcoord hplace hstep

/-- One lane takes the one result of a union, in either form. -/
theorem exec_curCoit_union_null {o : WOp} {s : State} {k n : Nat} {w : Wave} (hat : At s k w)
    (hm : o.m.getLsbD 0 = true) (hone : w.active o.guard = [n]) (hguard : o.grp = true → w.guardGrp o.guard = true)
    {cell : Machine.Cell} (hcell : cell = if o.grp then Machine.Cell.grp else .lane n)
    (hcheck : w.curCheck [cell] [(o.a.toNat, 32), (o.b.toNat, 40)] false false true = none) {r e : Nat} {c' : Cur}
    {a b a' b' : CSide} {y x1 x4 : WSt}
    (ha : walksFrom ((walkerOf k w cell).side (w.curAt cell o.a.toNat) o.a.toNat) ⟨s, [], []⟩ a y)
    (hb : walksFrom ((walkerOf k w cell).side (w.curAt cell o.b.toNat) o.b.toNat) y b x1)
    (hunion : walksFrom ((walkerOf k w cell).union a b) x1 (some e, a', b') x4)
    (hback : ∀ w1 : Wave, (w1.setSide cell o.a.toNat a').setSide cell o.b.toNat b' = w1.setCur cell r c'.toNat)
    (hdone : coitDone true a' b' = c'.done) :
    let w1 := ((w.setVgrp 8 o.d.toNat n e).setPL o.c.toNat n true).setCur cell r c'.toNat
    exec (.curCoit o) s = .next (x4.s.retire k
      (if o.grp then w1.setGP (o.m.extractLsb' 4 4).toNat c'.done else w1) o.len) := by
  intro w1
  have hcoit : (walkerOf k w cell).coit (o.m.getLsbD 0) a b = (walkerOf k w cell).union a b := by rw [hm]; rfl
  cases hgrp : o.grp with
  | true =>
    rw [hgrp, if_pos rfl] at hcell
    subst hcell
    have hcells := cells_of_grp hgrp (hguard hgrp)
    refine exec_curCoit_wave hat (by rw [hcells, hm, hcheck]) ⟨hgrp, hguard hgrp⟩
      (walksFrom_bind ha (walksFrom_bind hb ?_))
    rw [hone]
    refine walksFrom_bind (a := (a', b', w.setOctet o n (some e))) (walksFrom_bind (hcoit ▸ hunion)
      (walksFrom_pure_iff.2 ⟨rfl, rfl⟩)) (walksFrom_pure_iff.2 ⟨?_, rfl⟩)
    rw [hback, hm, hdone]
    rfl
  | false =>
    rw [hgrp, if_neg (by decide)] at hcell
    subst hcell
    have hcells : w.cells o = [.lane n] := by simp [Wave.cells, hgrp, hone]
    refine exec_curCoit_lanes hat (by rw [hcells, hm, hcheck]) hgrp ?_
    rw [hone]
    refine walksFrom_bind ha (walksFrom_bind hb (walksFrom_bind (hcoit ▸ hunion) (walksFrom_pure_iff.2 ⟨?_, rfl⟩)))
    exact (hback _).symm

/-- Settles O37: where the cursors are null an instruction walks nothing, so that both forms retire with each cell's
result; `CUR.COIT` with one null side walks the other alone; the append instructions fail R242. -/
theorem nullCursors : Obligations.NullCursors := by
  intro o s k w hat
  refine ⟨fun hnull ha => ?_, fun hd hnull => ?_, fun hd hzero => ?_, fun hnull hraw => ?_, fun hnull => ?_,
    fun ha hb => ?_, fun hm hnull hcheck => ?_, ?_, fun hnull => ?_⟩
  · exact ⟨_, exec_curNext_null hat hnull, onlyRegs_noneDelivered, noneDelivered_preg,
      noneDelivered_gpred fun hgrp => by have := ha hgrp; omega⟩
  · exact retiresPred_of_setPred hat hd (exec_curSeek_null hat hnull)
  · exact retiresPred_of_setPred hat hd (exec_curTest_null hat hzero)
  · exact ⟨_, exec_curGet_null hat hnull hraw, onlyRegs_setPair_cells _,
      fun l hl => (vgrp_setPair_cells _ l hl).trans (by decide), greg_setPair_ones⟩
  · exact ⟨_, exec_curDesc_null hat hnull, curAt_setCur_null⟩
  · exact ⟨_, exec_curCoit_null hat ha hb, onlyRegs_noneDelivered, noneDelivered_preg,
      noneDelivered_gpred fun _ => (o.m.extractLsb' 4 4).isLt⟩
  · intro nothing
    refine ⟨fun a b x1 x2 hact ha hb => ?_, fun w' x hgrp hwalk => ?_⟩
    · have hcell : Machine.Cell.grp ∈ w.cells o := by simp [cells_of_grp hact.1 hact.2]
      exact exec_curCoit_isect_null hm hat hact (hnull _ hcell) hcheck ha hb
    · have hcell : ∀ n ∈ w.active o.guard, Machine.Cell.lane n ∈ w.cells o := fun n hn => by
        simp [Wave.cells, hgrp, hn]
      obtain ⟨hpreg, hvreg⟩ := coitEach_isect_null hm (fun n hn => w.active_lt hn) (fun n hn => hnull _ (hcell n hn))
        hwalk
      exact ⟨exec_curCoit_lanes hat (hm.symm ▸ hcheck) hgrp hwalk,
        ⟨fun l hl => hpreg l (.inl hl.1), fun hact => absurd hact.1 (by simp [hgrp])⟩, hvreg⟩
  · intro hm n cell r q hone hguard hcell hcheck hrq hnull hr u c l c' v p x1 x2 x3 x4 hlevel hlive hcoord hplace hp
      hstep
    obtain ⟨a, b, a', b', y, ha, hb, hunion, hback, hdone⟩ :=
      walksFrom_union_of_null hrq hnull hr hlevel hlive hcoord hplace hp hstep
    exact exec_curCoit_union_null hat hm hone hguard hcell hcheck ha hb hunion hback hdone
  · have hcheck := curCheck_append_null 24 hnull
    exact ⟨onCursor_illegal hat hcheck, onCursor_illegal hat hcheck⟩

end Sys2Proof.Proofs
end
section
/-! Filigree's array: what it does with the command at the head of its list (R265-R267, R270). -/

namespace Sys2Proof.Proofs

open Sys2Proof Sys2Proof.Machine Sys2Proof.Claims

/-! ## The head of the list -/

theorem finish_of_head {f : Filigree} {c : FgCmd} {rest : List FgCmd} (h : f.cmds = c :: rest) (st detail : Nat) :
    f.finish st detail = filDone f c rest st detail := by
  unfold Filigree.finish
  rw [h]
  rfl

/-- Every step of the array is `onFg` with its FN. -/
theorem exec_filOp {mk : Nat → Instr} {fn : Nat} (h : (mk, fn) ∈ filOps) (die : Nat) (s : State) :
    ∃ name g, exec (mk die) s = onFg s die fn name g := by
  simp only [filOps, List.mem_cons, Prod.mk.injEq, List.not_mem_nil, or_false] at h
  obtain ⟨rfl, rfl⟩ | ⟨rfl, rfl⟩ | ⟨rfl, rfl⟩ | ⟨rfl, rfl⟩ | ⟨rfl, rfl⟩ | ⟨rfl, rfl⟩ | ⟨rfl, rfl⟩ | ⟨rfl, rfl⟩ := h
  exacts [⟨_, _, (rfl : _ = execFilExecCfg die s)⟩, ⟨_, _, (rfl : _ = execFilExecLoad die s)⟩,
    ⟨_, _, (rfl : _ = execFilExecSeed die s)⟩, ⟨_, _, (rfl : _ = execFilExecClamp die s)⟩,
    ⟨_, _, (rfl : _ = execFilExecFree die s)⟩, ⟨_, _, (rfl : _ = execFilSweepColour die s)⟩,
    ⟨_, _, (rfl : _ = execFilExecRead die s)⟩, ⟨_, _, (rfl : _ = execFilExecCnt die s)⟩]

section
variable {s : State} {die fn : Nat} {c : FgCmd} {rest : List FgCmd} (h : AtFil s die fn c rest)
include h

theorem onFg_run (hcfg : fn = 0 ∨ (s.die die).fil.nb ≠ 0) (name : String) (g : Filigree → FgCmd → Out) :
    onFg s die fn name g = g (s.die die).fil c := by
  obtain ⟨hhead, hfn, hopen, hgoes, hon⟩ := h
  unfold onFg
  simp only [hhead]
  rw [if_pos (by simp [hfn, hopen, hgoes, hon]), if_neg (by simpa using hcfg.resolve_left)]

theorem onFg_unconfigured (hfn0 : fn ≠ 0) (hnb : (s.die die).fil.nb = 0) (name : String) (g : Filigree → FgCmd → Out) :
    onFg s die fn name g = .next (filIs s die (filDone (s.die die).fil c rest 1 0)) := by
  have hfinish := finish_of_head h.head
  obtain ⟨hhead, hfn, hopen, hgoes, hon⟩ := h
  unfold onFg
  simp only [hhead, hfinish]
  rw [if_pos (by simp [hfn, hopen, hgoes, hon]), if_pos (by simp [hfn0, hnb])]
  rfl

end

/-! ## The bits -/

theorem bit_setBit (f : Filigree) (i : Nat) (b : PBit) (j : Nat) :
    (f.setBit i b).bit j = if j = i then b else f.bit j := Map.getD_set _ _ _ _ _

/-- A fold over distinct bits whose steps change one bit each. -/
theorem bit_foldl {step : Filigree → Nat → Filigree} {g : PBit → PBit}
    (hstep : ∀ x i j, (step x i).bit j = if j = i then g (x.bit i) else x.bit j) {l : List Nat} (hl : l.Nodup)
    (f : Filigree) (j : Nat) : (l.foldl step f).bit j = if j ∈ l then g (f.bit j) else f.bit j := by
  induction l generalizing f with
  | nil => rfl
  | cons i l ih =>
    obtain ⟨hi, hl⟩ := List.nodup_cons.1 hl
    rw [List.foldl_cons, ih hl, hstep]
    by_cases hj : j = i
    · subst hj
      rw [if_neg hi, if_pos rfl, if_pos List.mem_cons_self]
    · simp [hj]

/-- The table's bits as a map hold each bit at its index. -/
theorem getD_foldl_zipIdx {bits : List PBit} {i : Nat} {b : PBit} (h : bits[i]? = some b) :
    Map.getD ((bits.zipIdx).foldl (fun (m : Map PBit) p => m.set p.2 PBit.init p.1) []) i PBit.init = b := by
  refine foldl_reaches (Q := fun p m => Map.getD m p.2 PBit.init = p.1) (fun m p _ => Map.getD_set_self _ _ _ _)
    (fun m p hp q hq hne hm => ?_) [] (b, i) (List.mem_zipIdx_iff_getElem?.2 h)
  have hidx : p.2 ≠ q.2 := fun heq => hne (Prod.ext (Option.some.inj
    ((List.mem_zipIdx_iff_getElem?.1 hp).symm.trans (heq ▸ List.mem_zipIdx_iff_getElem?.1 hq))) heq)
  rw [Map.getD_set_ne _ _ _ hidx, hm]

/-- Bit j of the bytes that hold bits, eight to a byte, lowest first (R270). -/
theorem getLsbD_packed {p : Nat → Bool} {n j : Nat} (hj : j < 8 * n) :
    (nth ((List.range n).map (fun i => BitVec.ofNat 8
      (((List.range 8).map (fun b => if p (8 * i + b) then 2 ^ b else 0)).foldl (· + ·) 0))) (j / 8) 0).getLsbD (j % 8)
      = p j := by
  have hlen : j / 8 < (List.range n).length := by rw [List.length_range]; omega
  have hsum : ∀ q : Nat → Bool, ((List.range 8).map (fun b => if q b then 2 ^ b else 0)).foldl (· + ·) 0
      = Nat.ofBits (fun b : Fin 8 => q b) := fun q => by
    rw [List.foldl_map, ← foldl_bits_eq_ofBits]
    congr 1
    funext acc b
    cases q b <;> simp
  rw [nth_map _ _ hlen 0, hsum fun b => p (8 * nth (List.range n) (j / 8) 0 + b)]
  have hnth : nth (List.range n) (j / 8) 0 = j / 8 := by simp [nth, List.length_range ▸ hlen]
  have hmod : j % 8 < 8 := Nat.mod_lt _ (by decide)
  rw [hnth, BitVec.getLsbD_ofNat, Nat.testBit_ofBits_lt _ _ hmod, Nat.div_add_mod]
  simp [hmod]

/-! ## Operand words (R266, R270) -/

theorem ite_eq_toNat_mul (b : Bool) (n : Nat) : (if b then n else 0) = b.toNat * n := by cases b <;> simp

theorem bitN_eq_of_mod {x i : Nat} {b : Bool} (h : x / 2 ^ i % 2 = b.toNat) : bitN x i = b := by
  rw [bitN, h]
  cases b <;> rfl

theorem fgConfig_eq {x nb nc : Nat} {det : Bool} {beta : BitVec 16} (hnb : nb ≠ 0) (hle : nb ≤ 65536) (hnc : nc < 16)
    (hx : x = nb + nc * 2 ^ 17 + (if det then 2 ^ 21 else 0) + beta.toNat * 2 ^ 32) :
    fgConfig x = some (nb, nc + 1, det, beta) := by
  have hbeta := beta.isLt
  have hbit := det.toNat_le
  rw [ite_eq_toNat_mul] at hx
  have hdet : bitN x 21 = det := bitN_eq_of_mod (by omega)
  obtain ⟨hfnb, hfnc, hfbeta, hlow, hhigh⟩ : fld x 0 17 = nb ∧ fld x 17 4 = nc ∧ fld x 32 16 = beta.toNat
      ∧ fld x 22 10 = 0 ∧ fld x 48 16 = 0 := by unfold fld; omega
  simp only [fgConfig, hfnb, hfnc, hdet, hfbeta, hlow, hhigh]
  rw [if_neg (by simpa [hnb] using hle)]
  simp

theorem fgRange_eq {nb x first n : Nat} (hn : n ≠ 0) (hle : n ≤ 65536) (hfirst : first < 65536) (hnb : first + n ≤ nb)
    (hx : x = first + n * 2 ^ 16) : fgRange nb x = some (first, n) := by
  obtain ⟨hffirst, hfn, hhigh⟩ : fld x 0 16 = first ∧ fld x 16 17 = n ∧ fld x 33 31 = 0 := by unfold fld; omega
  simp only [fgRange, hffirst, hfn, hhigh]
  rw [if_neg (by simpa [hn, hle] using hnb)]

/-! ## The commands -/

section
variable {s : State} {die : Nat} {c : FgCmd} {rest : List FgCmd}

theorem exec_filExecCfg (h : AtFil s die 0 c rest) {nb nc : Nat} {det : Bool} {beta : BitVec 16} (hnb : nb ≠ 0)
    (hle : nb ≤ 65536) (hnc : nc < 16)
    (hx : c.ga.toNat = nb + nc * 2 ^ 17 + (if det then 2 ^ 21 else 0) + beta.toNat * 2 ^ 32) :
    exec (.filExecCfg die) s = .next (filIs s die (filDone { (s.die die).fil with
      nb := nb, ncol := nc + 1, det := det, beta := beta, sweep := 0, bits := [] } c rest 0 0)) := by
  change execFilExecCfg die s = _
  rw [execFilExecCfg, onFg_run h (.inl rfl)]
  simp only [fgConfig_eq hnb hle hnc hx, finish_of_head h.head]
  rfl

theorem exec_filExecSeed (h : AtFil s die 2 c rest) (hcfg : (s.die die).fil.nb ≠ 0) :
    exec (.filExecSeed die) s =
      .next (filIs s die (filDone { (s.die die).fil with key := c.ga, sweep := 0 } c rest 0 0)) := by
  change execFilExecSeed die s = _
  rw [execFilExecSeed, onFg_run h (.inr hcfg)]
  simp only [finish_of_head h.head]
  rfl

theorem exec_filExecFree (h : AtFil s die 4 c rest) (hcfg : (s.die die).fil.nb ≠ 0) :
    exec (.filExecFree die) s = .next (filIs s die (filDone { (s.die die).fil with
      nb := 0, ncol := 0, det := false, beta := 0, sweep := 0, bits := [] } c rest 0 0)) := by
  change execFilExecFree die s = _
  rw [execFilExecFree, onFg_run h (.inr hcfg)]
  simp only [finish_of_head h.head]
  rfl

theorem exec_filExecClamp (h : AtFil s die 3 c rest) {i : Nat} {v set : Bool} (hi : i < (s.die die).fil.nb)
    (hlt : i < 65536) (hx : c.ga.toNat = i + (if v then 2 ^ 16 else 0) + (if set then 2 ^ 17 else 0)) :
    exec (.filExecClamp die) s = .next (filIs s die (filDone ((s.die die).fil.setBit i
      (if set then { (s.die die).fil.bit i with s := v, clamp := true }
        else { (s.die die).fil.bit i with clamp := false })) c rest 0 0)) := by
  have hbv := v.toNat_le
  have hbset := set.toNat_le
  rw [ite_eq_toNat_mul, ite_eq_toNat_mul] at hx
  have hfv : bitN c.ga.toNat 16 = v := bitN_eq_of_mod (by omega)
  have hfset : bitN c.ga.toNat 17 = set := bitN_eq_of_mod (by omega)
  obtain ⟨hfi, hhigh⟩ : fld c.ga.toNat 0 16 = i ∧ fld c.ga.toNat 18 46 = 0 := by unfold fld; omega
  change execFilExecClamp die s = _
  rw [execFilExecClamp, onFg_run h (.inr (by omega))]
  simp only [hfi, hfv, hfset, hhigh, finish_of_head h.head]
  rw [if_neg (by simpa using hi)]
  rfl

section
variable (h : AtFil s die 1 c rest) (hcfg : (s.die die).fil.nb ≠ 0) {s1 : State} {bs : List Byte}
  (hread : s.readG (s.fgObs die c) .die false c.ga.toNat (128 * (s.die die).fil.nb) = (s1, .ok bs))
include h hcfg hread

theorem exec_filExecLoad_ok {bits : List PBit}
    (htab : fgTable (s.die die).fil.nb (s.die die).fil.ncol (fgRecords (s.die die).fil.nb bs) = .ok bits) :
    exec (.filExecLoad die) s = .next (s1.setFil die (filDone { (s.die die).fil with
      bits := (bits.zipIdx).foldl (fun (m : Map PBit) p => m.set p.2 PBit.init p.1) [] } c rest 0 0)) := by
  change execFilExecLoad die s = _
  rw [execFilExecLoad, onFg_run h (.inr hcfg)]
  simp only [hread, htab, finish_of_head h.head]
  rfl

theorem exec_filExecLoad_error {i : Nat}
    (htab : fgTable (s.die die).fil.nb (s.die die).fil.ncol (fgRecords (s.die die).fil.nb bs) = .error i) :
    exec (.filExecLoad die) s = .next (filIs s1 die (filDone (s.die die).fil c rest 3 i)) := by
  change execFilExecLoad die s = _
  rw [execFilExecLoad, onFg_run h (.inr hcfg)]
  simp only [hread, htab, finish_of_head h.head]
  rfl

end

/-- The bytes that `FG.READ` stores: bits FIRST on, as many as COUNT says, zeros behind them (R270). -/
def readBytes (f : Filigree) (first n : Nat) : List Byte :=
  (List.range ((n + 63) / 64 * 8)).map (fun i => BitVec.ofNat 8 (((List.range 8).map (fun b =>
    if decide (8 * i + b < n) && (f.bit (first + (8 * i + b))).s then 2 ^ b else 0)).foldl (· + ·) 0))

theorem exec_filExecRead (h : AtFil s die 6 c rest) (hcfg : (s.die die).fil.nb ≠ 0) {first n : Nat}
    (hrange : fgRange (s.die die).fil.nb c.gc.toNat = some (first, n)) {s1 : State}
    (hwrite : s.writeG (s.fgObs die c) .engine false c.ga.toNat (readBytes (s.die die).fil first n) = (s1, none)) :
    exec (.filExecRead die) s = .next (filIs s1 die (filDone (s.die die).fil c rest 0 0)) := by
  change execFilExecRead die s = _
  rw [execFilExecRead, onFg_run h (.inr hcfg)]
  simp only [hrange]
  rw [readBytes] at hwrite
  simp only [hwrite, finish_of_head h.head]
  rfl

/-- The counts of a range of bits cleared. -/
def clearCounts (f : Filigree) (first n : Nat) : Filigree :=
  (Machine.span first n).foldl (fun x i => x.setBit i { x.bit i with count := 0 }) f

theorem clearCounts_bit (f : Filigree) (first n j : Nat) :
    (clearCounts f first n).bit j = if first ≤ j ∧ j < first + n then { f.bit j with count := 0 } else f.bit j := by
  have hnodup : (Machine.span first n).Nodup := List.nodup_range.map (fun a b hab => by omega)
  have hmem : j ∈ Machine.span first n ↔ first ≤ j ∧ j < first + n := by
    simp only [Machine.span, List.mem_map, List.mem_range]
    exact ⟨by rintro ⟨a, ha, rfl⟩; omega, fun hj => ⟨j - first, by omega, by omega⟩⟩
  refine (bit_foldl (g := fun b => { b with count := 0 }) (fun x i q => ?_) hnodup f j).trans (if_congr hmem rfl rfl)
  rw [bit_setBit]

theorem clearCounts_eq (f : Filigree) (first n : Nat) :
    clearCounts f first n = { f with bits := (clearCounts f first n).bits } :=
  List.foldlRecOn (motive := fun x : Filigree => x = { f with bits := x.bits }) _ _ rfl fun x hx i _ => by
    rw [hx]
    rfl

theorem exec_filExecCnt (h : AtFil s die 7 c rest) (hcfg : (s.die die).fil.nb ≠ 0) {first n : Nat}
    (hrange : fgRange (s.die die).fil.nb c.gc.toNat = some (first, n)) {s1 : State}
    (hwrite : s.writeG (s.fgObs die c) .engine false c.ga.toNat
      ((List.range n).flatMap (fun j => bytesOf 2 ((s.die die).fil.bit (first + j)).count)) = (s1, none)) :
    exec (.filExecCnt die) s = .next (s1.setFil die (if c.clr then
      clearCounts (filDone (s.die die).fil c rest 0 0) first n else filDone (s.die die).fil c rest 0 0)) := by
  change execFilExecCnt die s = _
  rw [execFilExecCnt, onFg_run h (.inr hcfg)]
  simp only [hrange, hwrite, finish_of_head h.head]
  rfl

end

end Sys2Proof.Proofs
end
section
/-! A colour's update, the end of a sweep (R268, R269), and the commands of Filigree's array. -/

namespace Sys2Proof.Proofs

open Sys2Proof Sys2Proof.Machine Sys2Proof.Claims

/-! ## A colour's update -/

/-- What the random number of a bit may be: the generator's in DET mode, any sample in ENTROPY mode (R268, log 12). -/
def IsDraw (f : Filigree) (colour i u : Nat) : Prop :=
  if f.det then u = fgRandom f.key.toNat f.sweep.toNat i colour else u < 2 ^ 16

theorem isDraw_fgDraw (s : State) (f : Filigree) (colour i : Nat) : IsDraw f colour i (s.fgDraw f colour i).2 := by
  unfold IsDraw State.fgDraw
  split
  · rfl
  · exact (Config.entropy s.free).isLt

/-- The bit after its update with a random number. -/
def redrawn (f : Filigree) (i u : Nat) : PBit := { f.bit i with s := f.update (f.bit i) u }

/-- The bits of a colour that no clamp holds. -/
def actsAt (f : Filigree) (colour i : Nat) : Prop := (f.bit i).colour = colour ∧ (f.bit i).clamp = false

section
variable (s : State) (f : Filigree) (colour : Nat)

/-- The bits that a colour's update goes through. -/
def actors : List Nat := (List.range f.nb).filter (fun i => (f.bit i).colour = colour && !(f.bit i).clamp)

theorem mem_actors (i : Nat) : i ∈ actors f colour ↔ i < f.nb ∧ actsAt f colour i := by
  simp [actors, actsAt]

/-- The update of one bit. -/
def redrawAt (acc : State × Filigree) (i : Nat) : State × Filigree :=
  ((acc.1.fgDraw f colour i).1, acc.2.setBit i (redrawn f i (acc.1.fgDraw f colour i).2))

theorem fgColourPass_eq : s.fgColourPass f colour = (actors f colour).foldl (redrawAt f colour) (s, f) := rfl

theorem fgColourPass_of_acts {i : Nat} (hi : i < f.nb) (hact : actsAt f colour i) :
    ∃ u, IsDraw f colour i u ∧ (s.fgColourPass f colour).2.bit i = redrawn f i u := by
  rw [fgColourPass_eq]
  refine foldl_reaches (Q := fun i (acc : State × Filigree) => ∃ u, IsDraw f colour i u ∧ acc.2.bit i = redrawn f i u)
    (fun acc i _ => ⟨_, isDraw_fgDraw acc.1 f colour i, ?_⟩) (fun acc i _ j _ hne hacc => ?_) _ i
    ((mem_actors f colour i).2 ⟨hi, hact⟩)
  · rw [redrawAt, bit_setBit, if_pos rfl]
  · rw [redrawAt, bit_setBit, if_neg hne]
    exact hacc

theorem fgColourPass_of_not_acts {i : Nat} (hact : ¬ actsAt f colour i) :
    (s.fgColourPass f colour).2.bit i = f.bit i := by
  rw [fgColourPass_eq]
  refine List.foldlRecOn (motive := fun acc : State × Filigree => acc.2.bit i = f.bit i) _ _ rfl fun acc hacc j hj => ?_
  have hne : i ≠ j := fun hij => hact (hij ▸ ((mem_actors f colour j).1 hj).2)
  rw [redrawAt, bit_setBit, if_neg hne, hacc]

/-- An update changes bits alone, and takes free values alone. -/
theorem fgColourPass_frame :
    (s.fgColourPass f colour).2 = { f with bits := (s.fgColourPass f colour).2.bits }
      ∧ (s.fgColourPass f colour).1 = { s with free := (s.fgColourPass f colour).1.free } := by
  rw [fgColourPass_eq]
  refine List.foldlRecOn (motive := fun acc : State × Filigree => acc.2 = { f with bits := acc.2.bits }
    ∧ acc.1 = { s with free := acc.1.free }) _ _ ⟨rfl, rfl⟩ ?_
  rintro acc ⟨hfil, hstate⟩ i -
  refine ⟨?_, ?_⟩
  · rw [redrawAt, hfil]; rfl
  · rw [redrawAt, State.fgDraw]
    split
    · exact hstate
    · dsimp only
      rw [hstate]
      rfl

@[simp] theorem fgColourPass_nb : (s.fgColourPass f colour).2.nb = f.nb := by rw [(fgColourPass_frame s f colour).1]
@[simp] theorem fgColourPass_ncol : (s.fgColourPass f colour).2.ncol = f.ncol := by
  rw [(fgColourPass_frame s f colour).1]
@[simp] theorem fgColourPass_key : (s.fgColourPass f colour).2.key = f.key := by rw [(fgColourPass_frame s f colour).1]
@[simp] theorem fgColourPass_sweep : (s.fgColourPass f colour).2.sweep = f.sweep := by
  rw [(fgColourPass_frame s f colour).1]
@[simp] theorem fgColourPass_cmds : (s.fgColourPass f colour).2.cmds = f.cmds := by
  rw [(fgColourPass_frame s f colour).1]

variable {f} in
/-- DET mode takes no free value. -/
theorem fgColourPass_det (hdet : f.det = true) : (s.fgColourPass f colour).1 = s := by
  rw [fgColourPass_eq]
  refine List.foldlRecOn (motive := fun acc : State × Filigree => acc.1 = s) _ _ rfl fun acc hacc i _ => ?_
  rw [redrawAt, State.fgDraw, if_pos hdet, hacc]

end

/-! ## The end of a sweep -/

/-- A bit that stands at 1 counts, up to 65,535. -/
def counted (b : PBit) : PBit := if b.s then { b with count := min (b.count + 1) 65535 } else b

/-- The end of a sweep at one bit. -/
def countAt (x : Filigree) (i : Nat) : Filigree :=
  if (x.bit i).s then
    x.setBit i { x.bit i with count := if (x.bit i).count < 65535 then (x.bit i).count + 1 else 65535 }
  else x

theorem endSweep_eq_foldl (f : Filigree) :
    f.endSweep = { (List.range f.nb).foldl countAt f with sweep := ((List.range f.nb).foldl countAt f).sweep + 1 } :=
  rfl

theorem countAt_bit (x : Filigree) (i j : Nat) :
    (countAt x i).bit j = if j = i then counted (x.bit i) else x.bit j := by
  have hmin : ∀ n : Nat, (if n < 65535 then n + 1 else 65535) = min (n + 1) 65535 := fun n => by split <;> omega
  rw [countAt, counted, ← hmin]
  split
  · rw [bit_setBit]
  · split
    · next hj => rw [hj]
    · rfl

theorem foldl_countAt (f : Filigree) (l : List Nat) :
    l.foldl countAt f = { f with bits := (l.foldl countAt f).bits } :=
  List.foldlRecOn (motive := fun x : Filigree => x = { f with bits := x.bits }) l _ rfl fun x hx i _ => by
    rw [countAt]
    split
    · rw [hx]; rfl
    · exact hx

theorem endSweep_bit (f : Filigree) {i : Nat} (hi : i < f.nb) : f.endSweep.bit i = counted (f.bit i) :=
  (bit_foldl countAt_bit List.nodup_range f i).trans (if_pos (List.mem_range.2 hi))

theorem endSweep_eq (f : Filigree) : f.endSweep = { f with bits := f.endSweep.bits, sweep := f.sweep + 1 } := by
  rw [endSweep_eq_foldl, foldl_countAt]

@[simp] theorem endSweep_key (f : Filigree) : f.endSweep.key = f.key := by rw [endSweep_eq]
@[simp] theorem endSweep_sweep (f : Filigree) : f.endSweep.sweep = f.sweep + 1 := by rw [endSweep_eq]
@[simp] theorem endSweep_cmds (f : Filigree) : f.endSweep.cmds = f.cmds := by rw [endSweep_eq]

/-! ## The sweep at the head -/

theorem modHead_of_head {f : Filigree} {c : FgCmd} {rest : List FgCmd} (h : f.cmds = c :: rest) (g : FgCmd → FgCmd) :
    f.modHead g = { f with cmds := g c :: rest } := by
  unfold Filigree.modHead
  rw [h]

section
variable {s : State} {die : Nat} {c : FgCmd} {rest : List FgCmd} (h : AtFil s die 5 c rest)
  (hcfg : (s.die die).fil.nb ≠ 0) (hlt : c.ga.toNat < 2 ^ 32) (hne : c.ga.toNat ≠ 0)
include h hcfg hlt hne

theorem exec_filSweepColour : exec (.filSweepColour die) s =
    let r := s.fgColourPass (s.die die).fil c.colour
    if c.colour + 1 < r.2.ncol then
      .next (r.1.setFil die (r.2.modHead (fun x => { x with colour := c.colour + 1 })))
    else
      let f2 := r.2.endSweep.modHead (fun x => { x with left := c.left - 1, colour := 0 })
      .next (r.1.setFil die (if c.left ≤ 1 then f2.finish 0 0 else f2)) := by
  change execFilSweepColour die s = _
  rw [execFilSweepColour, onFg_run h (.inr hcfg), if_neg]
  rw [Nat.div_eq_of_lt hlt, Nat.mod_eq_of_lt hlt]
  simpa using hne

/-- Before the last colour the command goes on to the next one. -/
theorem exec_filSweepColour_mid (hmid : c.colour + 1 < (s.die die).fil.ncol) :
    ∃ f' : Filigree, exec (.filSweepColour die) s = .next (filIs (s.fgColourPass (s.die die).fil c.colour).1 die f')
      ∧ f'.cmds = { c with colour := c.colour + 1 } :: rest ∧ f'.sweep = (s.die die).fil.sweep
      ∧ f'.key = (s.die die).fil.key ∧ ∀ i, f'.bit i = (s.fgColourPass (s.die die).fil c.colour).2.bit i := by
  rw [exec_filSweepColour h hcfg hlt hne]
  dsimp only
  rw [if_pos (by simpa using hmid), modHead_of_head (rest := rest) (by rw [fgColourPass_cmds, h.head])]
  exact ⟨_, rfl, rfl, fgColourPass_sweep _ _ _, fgColourPass_key _ _ _, fun _ => rfl⟩

/-- After the last colour the bits count, S rises, and the command completes or begins its next sweep. -/
theorem exec_filSweepColour_last (hlast : (s.die die).fil.ncol = c.colour + 1) :
    ∃ f' : Filigree, exec (.filSweepColour die) s = .next (filIs (s.fgColourPass (s.die die).fil c.colour).1 die f')
      ∧ f'.sweep = (s.die die).fil.sweep + 1 ∧ f'.key = (s.die die).fil.key
      ∧ f'.cmds = (if c.left ≤ 1 then { c with left := c.left - 1, colour := 0, status := some (0, 0) } :: rest
        else { c with left := c.left - 1, colour := 0 } :: rest)
      ∧ ∀ i < (s.die die).fil.nb,
        f'.bit i = counted ((s.fgColourPass (s.die die).fil c.colour).2.bit i) := by
  have hcmds : (s.fgColourPass (s.die die).fil c.colour).2.endSweep.cmds = c :: rest := by simp [h.head]
  have hsweep : (s.fgColourPass (s.die die).fil c.colour).2.endSweep.sweep = (s.die die).fil.sweep + 1 := by simp
  have hkey : (s.fgColourPass (s.die die).fil c.colour).2.endSweep.key = (s.die die).fil.key := by simp
  have hbits := fun i (hi : i < (s.die die).fil.nb) => endSweep_bit (s.fgColourPass (s.die die).fil c.colour).2
    (i := i) (by simpa using hi)
  rw [exec_filSweepColour h hcfg hlt hne]
  dsimp only
  rw [if_neg (by simp [hlast]), modHead_of_head hcmds, finish_of_head rfl]
  split
  · exact ⟨_, rfl, hsweep, hkey, rfl, hbits⟩
  · exact ⟨_, rfl, hsweep, hkey, rfl, hbits⟩

end

/-- Settles O42: each step of the array is `onFg` of its command's effect; a colour's update redraws the bits that act
and no other, and its end counts them. -/
theorem filigreeCommands : Obligations.FiligreeCommands := by
  refine ⟨fun s die fn c rest hat => ?_, fun s die c rest hat => ?_⟩
  · intro f done
    refine ⟨fun mk hmk hfn hnb => ?_, ?_, ?_, ?_, ?_, ?_, fun hcfg first n hn hle hfirst hsum hx => ⟨?_, ?_⟩⟩
    · obtain ⟨name, g, hexec⟩ := exec_filOp hmk die s
      exact hexec.trans (onFg_unconfigured hat hfn hnb name g)
    · rintro rfl nb nc hnb hle hnc det beta hx
      exact exec_filExecCfg hat hnb hle hnc hx
    · rintro rfl hcfg
      exact exec_filExecSeed hat hcfg
    · rintro rfl hcfg i v set hi hlt hx
      exact ⟨_, exec_filExecClamp hat hi hlt hx, rfl, rfl, rfl, bit_setBit f i _⟩
    · rintro rfl hcfg
      exact exec_filExecFree hat hcfg
    · rintro rfl hcfg s1 bs hread
      exact ⟨fun bits htab => ⟨_, exec_filExecLoad_ok hat hcfg hread htab, fun i b hb => getD_foldl_zipIdx hb⟩,
        fun i htab => exec_filExecLoad_error hat hcfg hread htab⟩
    · rintro rfl
      refine ⟨readBytes f first n, by simp [readBytes], fun j hj => ?_, fun s1 hwrite =>
        exec_filExecRead hat hcfg (fgRange_eq hn hle hfirst hsum hx) hwrite⟩
      refine getLsbD_packed (p := fun j => decide (j < n) && (f.bit (first + j)).s) ?_
      simpa [readBytes] using hj
    · rintro rfl s1 hwrite
      have hexec := exec_filExecCnt hat hcfg (fgRange_eq hn hle hfirst hsum hx) hwrite
      cases hclr : c.clr with
      | false =>
        rw [hclr, if_neg (by decide)] at hexec
        exact ⟨f, hexec, fun j => (if_neg fun h => Bool.noConfusion h.1).symm⟩
      | true =>
        rw [hclr, if_pos rfl, clearCounts_eq] at hexec
        refine ⟨{ f with bits := (clearCounts (filDone f c rest 0 0) first n).bits }, hexec, fun j => ?_⟩
        exact (clearCounts_bit (filDone f c rest 0 0) first n j).trans (if_congr (by simp) rfl rfl)
  · intro f hcfg hlt hne acts limit now
    have hkept : ∀ i, ¬ acts i → (s.fgColourPass f c.colour).2.bit i = f.bit i := fun i =>
      fgColourPass_of_not_acts s f c.colour
    -- the bits after the update, in DET mode
    have hnow : f.det = true → ∀ i < f.nb, (s.fgColourPass f c.colour).2.bit i = now i := fun hdet i hi => by
      by_cases hact : acts i
      · obtain ⟨u, hu, hbit⟩ := fgColourPass_of_acts s f c.colour hi hact
        rw [IsDraw, if_pos hdet] at hu
        rw [hbit, hu]
        exact (if_pos hact).symm
      · exact (hkept i hact).trans (if_neg hact).symm
    refine ⟨fun hdet hmid => ?_, fun hdet hlast => ?_, fun hdet hmid => ?_⟩
    · obtain ⟨f', hexec, hcmds, hsweep, hkey, hbits⟩ := exec_filSweepColour_mid hat hcfg hlt hne hmid
      rw [fgColourPass_det s c.colour hdet] at hexec
      exact ⟨f', hexec, hcmds, hsweep, hkey, fun i hi => (hbits i).trans (hnow hdet i hi)⟩
    · obtain ⟨f', hexec, hsweep, hkey, hcmds, hbits⟩ := exec_filSweepColour_last hat hcfg hlt hne hlast
      rw [fgColourPass_det s c.colour hdet] at hexec
      exact ⟨f', hexec, hsweep, hkey, hcmds, fun i hi => (hbits i hi).trans (congrArg counted (hnow hdet i hi))⟩
    · obtain ⟨f', hexec, hcmds, hsweep, -, hbits⟩ := exec_filSweepColour_mid hat hcfg hlt hne hmid
      rw [(fgColourPass_frame s f c.colour).2] at hexec
      refine ⟨f', _, hexec, hcmds, hsweep, fun i hi => ?_⟩
      split
      · next hact =>
        obtain ⟨u, hu, hbit⟩ := fgColourPass_of_acts s f c.colour hi hact
        rw [IsDraw, if_neg (by simp [hdet])] at hu
        exact ⟨u, hu, (hbits i).trans hbit⟩
      · next hact => exact (hbits i).trans (hkept i hact)

end Sys2Proof.Proofs
end

section
/-! Words of the copy commands (R274-R290): the fields of a word and the word of the fields undo each other, and a
command and its fields determine each other. -/

namespace Sys2Proof.Proofs

open Sys2Proof Sys2Proof.Machine Sys2Proof.Claims

/-! ## Fields and words (R274) -/

/-- The fields are those of some words: without X there is no extension word, and its field is zero (R274). -/
def OfCeWords (r : RawC) : Prop := r.x = false → r.ext = 0

theorem ofCeWords_rawC (w0 w1 : W32) : OfCeWords (rawC w0 w1) := fun hx => if_neg (Bool.eq_false_iff.1 hx)

/-- Every bit of a command word lies in one field, and the fields stand in `word0` in their order. -/
theorem word0_rawC (w0 w1 : W32) : (rawC w0 w1).word0 = w0 := by
  simp only [RawC.word0, rawC, bit1_getLsbD]
  repeat rw [BitVec.extractLsb'_append_extractLsb'_eq_extractLsb' (by decide)]
  exact BitVec.extractLsb'_eq_self

/-- Each field is read back from where `word0` puts it. -/
theorem rawC_word0 {r : RawC} (h : OfCeWords r) : rawC r.word0 r.ext = r := by
  have hext : (if r.x = true then r.ext else 0) = r.ext := by
    cases hx : r.x
    · exact (h hx).symm
    · rfl
  simp (disch := decide) only [rawC, RawC.word0, BitVec.extractLsb'_append_eq_of_le,
    BitVec.extractLsb'_append_eq_of_add_le, BitVec.getLsbD_append, Nat.reduceLT, Nat.reduceSub, if_true, if_false,
    bit1_getLsbD_zero, BitVec.extractLsb'_eq_self, hext]

/-! ## Narrow operands in wider fields -/

@[simp] theorem loopField_low (k : BitVec 2) : (0#3 ++ k : BitVec 5).extractLsb' 0 2 = k := by decide +revert

@[simp] theorem loopField_high (k : BitVec 2) : (0#3 ++ k : BitVec 5).extractLsb' 2 3 = 0#3 := by decide +revert

@[simp] theorem dRegField_low (k : BitVec 3) : (0#2 ++ k : BitVec 5).extractLsb' 0 3 = k := by decide +revert

@[simp] theorem dRegField_high (k : BitVec 3) : (0#2 ++ k : BitVec 5).extractLsb' 3 2 = 0#2 := by decide +revert

@[simp] theorem codeField_low (f : BitVec 5) : (0#4 ++ f : BitVec 9).extractLsb' 0 5 = f := by decide +revert

@[simp] theorem codeField_high (f : BitVec 5) : (0#4 ++ f : BitVec 9).extractLsb' 5 4 = 0#4 := by decide +revert

/-- The immediate of a scalar access holds its size code, `SX` and `SP`, and zeros above (R280). -/
theorem accessField (z : BitVec 2) (sx sp : Bool) :
    let imm : BitVec 9 := 0#5 ++ bit1 sp ++ bit1 sx ++ z
    imm.extractLsb' 0 2 = z ∧ imm.getLsbD 2 = sx ∧ imm.getLsbD 3 = sp ∧ imm.extractLsb' 4 5 = 0#5 := by
  decide +revert

@[simp] theorem spField_bit (sp : Bool) : (0#5 ++ bit1 sp ++ 0#3 : BitVec 9)[3] = sp := by decide +revert

@[simp] theorem lowBitField_bit (b : Bool) : (0#8 ++ bit1 b : BitVec 9)[0] = b := by decide +revert

@[simp] theorem immOnly_spField (op : BitVec 6) (x i : Bool) (rd ra rb : BitVec 5) (sp : Bool) (ext : W32) :
    (RawC.mk op x i rd ra rb (0#5 ++ bit1 sp ++ 0#3) ext).immOnly 8#9 = true :=
  decide_eq_true (show 0#5 ++ bit1 sp ++ 0#3 &&& ~~~8#9 = 0#9 by decide +revert)

@[simp] theorem immOnly_lowBitField (op : BitVec 6) (x i : Bool) (rd ra rb : BitVec 5) (b : Bool) (ext : W32) :
    (RawC.mk op x i rd ra rb (0#8 ++ bit1 b) ext).immOnly 1#9 = true :=
  decide_eq_true (show 0#8 ++ bit1 b &&& ~~~1#9 = 0#9 by decide +revert)

@[simp] theorem offset_low (high : BitVec 9) (low : BitVec 5) : (high ++ low : BitVec 14).extractLsb' 0 5 = low :=
  BitVec.extractLsb'_append_eq_right

@[simp] theorem offset_high (high : BitVec 9) (low : BitVec 5) : (high ++ low : BitVec 14).extractLsb' 5 9 = high :=
  BitVec.extractLsb'_append_eq_left

@[simp] theorem offset_eq (off : BitVec 14) : (off.extractLsb' 5 9 ++ off.extractLsb' 0 5 : BitVec 14) = off := by
  rw [BitVec.extractLsb'_append_extractLsb'_eq_extractLsb' (by decide)]
  exact BitVec.extractLsb'_eq_self

theorem loopField_eq {x : BitVec 5} (h : x.extractLsb' 2 3 = 0#3) : 0#3 ++ x.extractLsb' 0 2 = x := by
  decide +revert

theorem dRegField_eq {x : BitVec 5} (h : x.extractLsb' 3 2 = 0#2) : 0#2 ++ x.extractLsb' 0 3 = x := by
  decide +revert

theorem codeField_eq {x : BitVec 9} (h : x.extractLsb' 5 4 = 0#4) : 0#4 ++ x.extractLsb' 0 5 = x := by
  decide +revert

theorem accessField_eq {x : BitVec 9} (h : x.extractLsb' 4 5 = 0#5) :
    0#5 ++ bit1 (x.getLsbD 3) ++ bit1 (x.getLsbD 2) ++ x.extractLsb' 0 2 = x := by
  decide +revert

theorem spField_eq {x : BitVec 9} (h : x &&& ~~~8#9 = 0) : 0#5 ++ bit1 (x.getLsbD 3) ++ 0#3 = x := by
  decide +revert

theorem lowBitField_cases {x : BitVec 9} (h : x &&& ~~~1#9 = 0) : x = 0 ∨ x = 1 := by decide +revert

theorem spField_cases {x : BitVec 9} (h : x &&& ~~~8#9 = 0) : x = 0 ∨ x = 8 := by decide +revert

/-! ## Decoding a command's own fields -/

theorem ceIf_eq_ok_iff {ok : Bool} {i j : Instr} : ceIf ok i = .ok j ↔ ok = true ∧ i = j := by
  cases ok <;> simp [ceIf]

theorem ceBranch_toRaw (o : CeBr) (op : BitVec 6) (i : Bool) (reg im : CeBr → Instr) (ex : CeBrX → Instr) :
    ceBranch (o.toRaw op i) reg im ex = .ok ((if i then im else reg) o) := by
  simp only [ceBranch, CeBr.toRaw, offset_eq]
  rfl

theorem mem_toRaw (o : CeMem) (op : BitVec 6) : (o.toRaw op).mem = o := by
  obtain ⟨hz, hsx, hsp, -⟩ := accessField o.z o.sx o.sp
  obtain ⟨_, _, b, _, _, _, x⟩ := o
  cases b <;> cases x <;> simp only [CeMem.toRaw, RawC.mem, hz, hsx, hsp] <;> rfl

theorem dldOp_toRaw (o : CeDld) (op : BitVec 6) : (o.toRaw op).dldOp = o := by
  obtain ⟨_, _, b, sp, x⟩ := o
  cases b <;> cases x <;> cases sp <;> simp only [CeDld.toRaw, RawC.dldOp, dRegField_low] <;> rfl

/-- The form of a scalar access is the one that its operands name, and the unused fields are zero (R280). -/
theorem ceMemory_toRaw {o : CeMem} {index disp store : Bool} (hwf : o.wf index disp store = true) (op : BitVec 6)
    (idx base dsp : CeMem → Instr) :
    ceMemory (o.toRaw op) store idx base dsp = .ok ((if disp then dsp else if index then idx else base) o) := by
  obtain ⟨-, hsx, -, hhigh⟩ := accessField o.z o.sx o.sp
  rw [ceMemory, mem_toRaw, ceIf_eq_ok_iff]
  obtain ⟨_, _, b, _, sx, _, x⟩ := o
  cases b <;> cases x <;> cases index <;> simp_all [CeMem.wf, CeMem.toRaw]

/-- As `ceMemory_toRaw`, of a descriptor load (R281). -/
theorem decodeRawC_dld_toRaw {o : CeDld} {index disp : Bool} (hwf : o.wf index disp = true) :
    decodeRawC (o.toRaw 34#6) = .ok ((if disp then Instr.dldDisp else if index then .dld else .dldBase) o) := by
  refine ceIf_eq_ok_iff.2 ?_
  rw [dldOp_toRaw]
  obtain ⟨_, _, b, _, x⟩ := o
  cases b <;> cases x <;> cases index <;> simp_all [CeDld.wf, CeDld.toRaw]

/-- Form by form; without fields to check, by evaluation. -/
theorem decodeRawC_of_ce? {i : Instr} {r : RawC} (hwf : i.wf = true) (h : i.ce? = some r) :
    decodeRawC r = .ok i := by
  cases i <;> cases h
  case beq o | bne o | blt o | bge o | bltu o | bgeu o => exact ceBranch_toRaw o _ false _ _ _
  case beqImm o | bneImm o | bltImm o | bgeImm o | bltuImm o | bgeuImm o => exact ceBranch_toRaw o _ true _ _ _
  case ld | ldBase | ldDisp | st | stBase | stDisp => exact ceMemory_toRaw hwf _ _ _ _
  case dld | dldBase | dldDisp => exact decodeRawC_dld_toRaw hwf
  case getl | jmp | loop | loopImm | endl | dset | dsetExt | addr | xfer | gsub =>
    refine ceIf_eq_ok_iff.2 ⟨?_, ?_⟩ <;> simp [rawC0]
  case waitx | waitxCur | arrive | arriveN =>
    refine ceIf_eq_ok_iff.2 ⟨?_, ?_⟩ <;> simp [rawC0, RawC.immOnly, Ce3.toRaw]
  all_goals rfl

/-! ## The fields of a decoded command -/

/-- What decoding answers for the fields, if it is a command, is well formed and has those fields. -/
inductive Carries (r : RawC) : CeDecoded → Prop
  | unimpl : Carries r .unimpl
  | illegal : Carries r .illegal
  | ok (i : Instr) (wf : i.wf = true) (fields : i.ce? = some r) : Carries r (.ok i)

theorem carries_ceIf_of {r : RawC} {ok : Bool} {i : Instr} (h : ok = true → Carries r (.ok i)) :
    Carries r (ceIf ok i) := by
  cases ok
  · exact .illegal
  · exact h rfl

theorem carries_ceIf {r q : RawC} {ok : Bool} {i : Instr} (hwf : ok = true → i.wf = true) (hq : i.ce? = some q)
    (hfields : ok = true → q = r) : Carries r (ceIf ok i) :=
  carries_ceIf_of fun hok => .ok i (hwf hok) (hfields hok ▸ hq)

theorem carries_ceArith {r : RawC} {reg : Ce3 → Instr} {im : CeI → Instr} {ex : CeX → Instr} (hr : OfCeWords r)
    (hreg : ∀ o, (reg o).wf = true ∧ (reg o).ce? = some (o.toRaw r.op))
    (him : ∀ o, (im o).wf = true ∧ (im o).ce? = some (o.toRaw r.op))
    (hex : ∀ o, (ex o).wf = true ∧ (ex o).ce? = some (o.toRaw r.op)) : Carries r (ceArith r reg im ex) := by
  obtain ⟨op, x, i, rd, ra, rb, imm, ext⟩ := r
  cases i <;> cases x
  · refine carries_ceIf (fun _ => (hreg _).1) (hreg _).2 fun hok => ?_
    simp_all [Ce3.toRaw, rawC0, OfCeWords]
  · exact .illegal
  · refine carries_ceIf (fun _ => (him _).1) (him _).2 fun hok => ?_
    simp_all [CeI.toRaw, OfCeWords]
  · refine carries_ceIf (fun _ => (hex _).1) (hex _).2 fun hok => ?_
    simp_all [CeX.toRaw]

theorem carries_ceBranch {r : RawC} {reg im : CeBr → Instr} {ex : CeBrX → Instr} (hr : OfCeWords r)
    (hreg : ∀ o, (reg o).wf = true ∧ (reg o).ce? = some (o.toRaw r.op false))
    (him : ∀ o, (im o).wf = true ∧ (im o).ce? = some (o.toRaw r.op true))
    (hex : ∀ o, (ex o).wf = true ∧ (ex o).ce? = some (o.toRaw r.op)) : Carries r (ceBranch r reg im ex) := by
  obtain ⟨op, x, i, rd, ra, rb, imm, ext⟩ := r
  cases x
  · obtain rfl : ext = 0 := hr rfl
    cases i
    · refine .ok _ (hreg _).1 ((hreg _).2.trans ?_)
      simp only [CeBr.toRaw, offset_low, offset_high]
    · refine .ok _ (him _).1 ((him _).2.trans ?_)
      simp only [CeBr.toRaw, offset_low, offset_high]
  · refine carries_ceIf (fun _ => (hex _).1) (hex _).2 fun hok => ?_
    simp_all [CeBrX.toRaw]

theorem toRaw_mem {r : RawC} (hr : OfCeWords r) (hrb : r.i = false ∨ r.rb = 0) (himm : r.imm.extractLsb' 4 5 = 0#5) :
    r.mem.toRaw r.op = r := by
  have haccess := accessField_eq himm
  obtain ⟨op, x, i, rd, ra, rb, imm, ext⟩ := r
  cases x <;> cases i <;> simp_all [CeMem.toRaw, RawC.mem, OfCeWords]

theorem toRaw_dldOp {r : RawC} (hr : OfCeWords r) (hrb : r.i = false ∨ r.rb = 0) (hrd : r.rd.extractLsb' 3 2 = 0#2)
    (himm : r.imm &&& ~~~8#9 = 0) : r.dldOp.toRaw r.op = r := by
  have hdesc := dRegField_eq hrd
  have hsp := spField_eq himm
  obtain ⟨op, x, i, rd, ra, rb, imm, ext⟩ := r
  cases x <;> cases i <;> simp_all [CeDld.toRaw, RawC.dldOp, OfCeWords]

theorem carries_ceMemory {r : RawC} {store : Bool} {idx base disp : CeMem → Instr} (hr : OfCeWords r)
    (hidx : ∀ o, (idx o).wf = o.wf true false store ∧ (idx o).ce? = some (o.toRaw r.op))
    (hbase : ∀ o, (base o).wf = o.wf false false store ∧ (base o).ce? = some (o.toRaw r.op))
    (hdisp : ∀ o, (disp o).wf = o.wf false true store ∧ (disp o).ce? = some (o.toRaw r.op)) :
    Carries r (ceMemory r store idx base disp) := by
  have hce : ((if r.x then disp else if r.i then base else idx) r.mem).ce? = some (r.mem.toRaw r.op) := by
    cases r.x <;> cases r.i
    exacts [(hidx _).2, (hbase _).2, (hdisp _).2, (hdisp _).2]
  refine carries_ceIf (fun hok => ?_) hce fun hok => ?_
  · cases hx : r.x <;> cases hi : r.i <;> simp_all [CeMem.wf, RawC.mem]
  · simp only [Bool.and_eq_true, Bool.or_eq_true, Bool.not_eq_true', decide_eq_true_eq] at hok
    obtain ⟨⟨himm, -⟩, hrb⟩ := hok
    exact toRaw_mem hr hrb himm

theorem carries_dld {r : RawC} (hr : OfCeWords r) (hop : r.op = 34#6) :
    Carries r (ceIf (r.immOnly 8#9 && r.rd.extractLsb' 3 2 = 0 && (!r.i || r.rb = 0))
      ((if r.x then Instr.dldDisp else if r.i then .dldBase else .dld) r.dldOp)) := by
  have hce : ((if r.x then Instr.dldDisp else if r.i then .dldBase else .dld) r.dldOp).ce?
      = some (r.dldOp.toRaw r.op) := by
    rw [hop]
    cases r.x <;> cases r.i <;> rfl
  refine carries_ceIf (fun _ => ?_) hce fun hok => ?_
  · cases hx : r.x <;> cases hi : r.i <;> simp only [RawC.dldOp, hx, hi] <;> rfl
  · simp only [Bool.and_eq_true, Bool.or_eq_true, Bool.not_eq_true', decide_eq_true_eq, RawC.immOnly] at hok
    obtain ⟨⟨himm, hrd⟩, hrb⟩ := hok
    exact toRaw_dldOp hr hrb hrd himm

theorem opcode_eq_of_toNat_eq {n : Nat} {op : BitVec 6} (h : op.toNat = n) : op = BitVec.ofNat 6 n := by
  rw [← h, BitVec.ofNat_toNat, BitVec.setWidth_eq]

/-- Opcode by opcode, in the order of `decodeRawC`. -/
theorem carries_decodeRawC {r : RawC} (hr : OfCeWords r) : Carries r (decodeRawC r) := by
  obtain ⟨op, x, i, rd, ra, rb, imm, ext⟩ := r
  unfold decodeRawC
  split
  any_goals obtain rfl := opcode_eq_of_toNat_eq ‹op.toNat = _›
  -- the integer commands (R276)
  case h_1 | h_2 | h_3 | h_4 | h_5 | h_6 | h_7 | h_8 | h_9 | h_10 | h_11 =>
    exact carries_ceArith hr (fun _ => ⟨rfl, rfl⟩) (fun _ => ⟨rfl, rfl⟩) (fun _ => ⟨rfl, rfl⟩)
  -- the branches (R278)
  case h_15 | h_16 | h_17 | h_18 | h_19 | h_20 =>
    exact carries_ceBranch hr (fun _ => ⟨rfl, rfl⟩) (fun _ => ⟨rfl, rfl⟩) (fun _ => ⟨rfl, rfl⟩)
  -- the scalar accesses (R280) and the descriptor load (R281)
  case h_24 | h_25 =>
    exact carries_ceMemory hr (fun _ => ⟨rfl, rfl⟩) (fun _ => ⟨rfl, rfl⟩) (fun _ => ⟨rfl, rfl⟩)
  case h_26 => exact carries_dld hr rfl
  -- the opcodes of no command (R275)
  case h_37 => split <;> constructor
  -- `ADDR` and `GSUB`, `XFER`, and the forms of `WAITX` and `ARRIVE`: one bit of IMM9 may be set
  case h_28 | h_30 =>
    refine carries_ceIf_of fun hok => .ok _ rfl (congrArg some ?_)
    simp only [Bool.and_eq_true, Bool.not_eq_true', decide_eq_true_eq, RawC.immOnly] at hok
    obtain rfl | rfl := lowBitField_cases hok.2 <;> simp_all [OfCeWords, rawC0, dRegField_eq, bit1]
  case h_29 =>
    refine carries_ceIf_of fun hok => .ok _ rfl (congrArg some ?_)
    simp only [Bool.and_eq_true, Bool.not_eq_true', decide_eq_true_eq, RawC.immOnly] at hok
    obtain rfl | rfl := spField_cases hok.2 <;> simp_all [OfCeWords, rawC0, bit1]
  case h_31 | h_32 =>
    refine carries_ceIf_of fun hok => ?_
    simp only [Bool.and_eq_true, Bool.not_eq_true', decide_eq_true_eq, RawC.immOnly] at hok
    obtain rfl | rfl := lowBitField_cases hok.1.2
    all_goals
      split <;> refine .ok _ rfl (congrArg some ?_) <;> simp_all [OfCeWords, rawC0, Ce3.toRaw]
  -- the others: each form by its bits X and I
  all_goals
    cases x <;> cases i
    all_goals refine carries_ceIf (fun _ => rfl) rfl fun hok => ?_
    all_goals simp_all [OfCeWords, rawC0, loopField_eq, dRegField_eq, codeField_eq]

/-! ## Decoding and encoding agree -/

theorem eq_zero_of_isSome_eq_false {x : Option W32} (h : x.isSome = false) : x.getD 0 = 0 := by
  cases x
  · rfl
  · cases h

/-- The fields of a command are those of some words. -/
theorem ofCeWords_of_ce? {i : Instr} {r : RawC} (h : i.ce? = some r) : OfCeWords r := by
  cases i <;> cases h <;> intro hx
  case ld | ldBase | ldDisp | st | stBase | stDisp | dld | dldBase | dldDisp => exact eq_zero_of_isSome_eq_false hx
  all_goals simp_all [Ce3.toRaw, CeI.toRaw, CeX.toRaw, CeBr.toRaw, CeBrX.toRaw, rawC0]

theorem encodeCe_of_ce? {i : Instr} {r : RawC} (h : i.ce? = some r) : encodeCe i = some (r.word0, r.ext) := by
  rw [encodeCe, h]; rfl

/-- A well-formed command is decoded from its own words. -/
theorem decodeCe_of_encodeCe {i : Instr} {w0 w1 : W32} (hwf : i.wf = true) (h : encodeCe i = some (w0, w1)) :
    decodeCe w0 w1 = .ok i := by
  obtain ⟨r, hr, hwords⟩ := Option.map_eq_some_iff.1 h
  cases hwords
  rw [decodeCe, rawC_word0 (ofCeWords_of_ce? hr), decodeRawC_of_ce? hwf hr]

/-- The words of a command that decodes are its own, and it is well formed. -/
theorem encodeCe_of_decodeCe {w0 w1 : W32} {i : Instr} (h : decodeCe w0 w1 = .ok i) :
    i.wf = true ∧ encodeCe i = some (w0, if w0.getLsbD 6 then w1 else 0) := by
  have hcarries : Carries (rawC w0 w1) (decodeCe w0 w1) := carries_decodeRawC (ofCeWords_rawC w0 w1)
  rw [h] at hcarries
  cases hcarries with
  | ok _ wf fields =>
    refine ⟨wf, (encodeCe_of_ce? fields).trans ?_⟩
    rw [word0_rawC]
    rfl

/-- Settles O57: `decodeCe_of_encodeCe` one way, `encodeCe_of_decodeCe` the other. -/
theorem commandRoundTrip : Obligations.CommandRoundTrip :=
  ⟨fun _ _ _ => decodeCe_of_encodeCe, fun _ _ _ => encodeCe_of_decodeCe⟩

end Sys2Proof.Proofs
end

section
/-! Integer commands of the copy engines (R276, R277): each sets E[d] to the exact result of its operands, modulo
2⁶⁴. -/

namespace Sys2Proof.Proofs

open Sys2Proof Sys2Proof.Machine Sys2Proof.Claims

/-! ## A command at its turn -/

/-- At the engine's turn a command runs on the program there. -/
theorem onProg_run {s : State} {e slot : Nat} {p : Prog} (hat : AtProg s e slot p) (f : Nat → Nat → Prog → Out) :
    onProg s f = f e slot p := by
  obtain ⟨hcur, hprog⟩ := hat
  simp only [onProg, hcur, hprog]

theorem ceSet_run {s : State} {e slot : Nat} {p : Prog} (hat : AtProg s e slot p) (d : BitVec 5) (len : Nat)
    {f : Prog → W64} {v : Int} (hv : f p = BitVec.ofInt 64 v) :
    ceSet s d len f = .next (setsE s e slot p d.toNat len v) := by
  rw [ceSet, onProg_run hat, hv]
  rfl

theorem getE_setE (p : Prog) (d r : Nat) (v : W64) : (p.setE d v).getE r = if r = d then v else p.getE r :=
  Map.getD_set p.e d r 0 v

/-! ## Exact results (R276) -/

theorem eq_ofInt_of_toNat_eq {x : W64} {n : Nat} (h : x.toNat = n % 2 ^ 64) : x = BitVec.ofInt 64 n := by
  rw [BitVec.ofInt_natCast]
  exact BitVec.eq_of_toNat_eq (h.trans (BitVec.toNat_ofNat ..).symm)

theorem ofInt_coe_toNat (a : W64) : BitVec.ofInt 64 a.toNat = a :=
  (eq_ofInt_of_toNat_eq (Nat.mod_eq_of_lt a.isLt).symm).symm

theorem sub_exact (a b : W64) : a - b = BitVec.ofInt 64 ((a.toNat : Int) - b.toNat) := by
  rw [Int.sub_eq_add_neg, BitVec.ofInt_add, BitVec.ofInt_neg, ofInt_coe_toNat, ofInt_coe_toNat,
    BitVec.sub_eq_add_neg]

/-- A left shift by the width or more leaves nothing. -/
theorem shl64_exact (a b : W64) :
    shl64 a b = BitVec.ofInt 64 (if b.toNat < 64 then a.toNat * 2 ^ b.toNat else 0) := by
  by_cases h : b.toNat < 64
  · rw [shl64, if_neg (Nat.not_le.2 h), if_pos h]
    exact_mod_cast eq_ofInt_of_toNat_eq (n := a.toNat * 2 ^ b.toNat)
      (by rw [BitVec.toNat_shiftLeft, Nat.shiftLeft_eq])
  · rw [shl64, if_pos (Nat.not_lt.1 h), if_neg h]
    rfl

theorem shr64_exact (a b : W64) :
    shr64 a b = BitVec.ofInt 64 (if b.toNat < 64 then a.toNat / 2 ^ b.toNat else 0) := by
  by_cases h : b.toNat < 64
  · rw [shr64, if_neg (Nat.not_le.2 h), if_pos h]
    have hlt : a.toNat / 2 ^ b.toNat < 2 ^ 64 := lt_of_le_of_lt (Nat.div_le_self _ _) a.isLt
    exact_mod_cast eq_ofInt_of_toNat_eq (n := a.toNat / 2 ^ b.toNat)
      (by rw [BitVec.toNat_ushiftRight, Nat.shiftRight_eq_div_pow, Nat.mod_eq_of_lt hlt])
  · rw [shr64, if_pos (Nat.not_lt.1 h), if_neg h]
    rfl

/-- From the width on the sign fills every bit. -/
theorem sar64_exact (a b : W64) : sar64 a b = BitVec.ofInt 64
    (if b.toNat < 64 then a.toInt / 2 ^ b.toNat else if a.toInt < 0 then -1 else 0) := by
  rw [sar64, BitVec.sshiftRight, Int.shiftRight_eq_div_pow]
  congr 1
  by_cases h : b.toNat < 64
  · rw [if_neg (Nat.not_le.2 h), if_pos h]
    norm_cast
  · rw [if_pos (Nat.not_lt.1 h), if_neg h]
    have hlt := BitVec.toInt_lt (x := a)
    have hle := BitVec.le_toInt a
    omega

theorem min64_exact (a b : W64) : min64 a b = BitVec.ofInt 64 (min a.toInt b.toInt) := by
  rw [min64, BitVec.slt_eq_decide]
  by_cases h : b.toInt < a.toInt
  · rw [if_pos (decide_eq_true h), min_eq_right h.le, BitVec.ofInt_toInt]
  · rw [if_neg (by simpa using h), min_eq_left (not_lt.1 h), BitVec.ofInt_toInt]

theorem max64_exact (a b : W64) : max64 a b = BitVec.ofInt 64 (max a.toInt b.toInt) := by
  rw [max64, BitVec.slt_eq_decide]
  by_cases h : a.toInt < b.toInt
  · rw [if_pos (decide_eq_true h), max_eq_right h.le, BitVec.ofInt_toInt]
  · rw [if_neg (by simpa using h), max_eq_left (not_lt.1 h), BitVec.ofInt_toInt]

/-! ## The commands -/

/-- The three forms of an integer command compute one function, which gives the exact result modulo 2⁶⁴. -/
structure Computes (x : CeOp) (f : W64 → W64 → W64) : Prop where
  reg : ∀ o s, exec (x.reg o) s = ce3 o s f
  imm : ∀ o s, exec (x.imm o) s = ceImm o s f
  ext : ∀ o s, exec (x.ext o) s = ceExt o s f
  exact : ∀ a b, f a b = BitVec.ofInt 64 (x.val a b)

theorem exists_computes : ∀ x ∈ ceOps, ∃ f, Computes x f := by
  simp only [ceOps, List.forall_mem_cons, List.not_mem_nil, false_imp_iff, implies_true, and_true]
  refine ⟨⟨fun a b => a + b, ?_, ?_, ?_, fun a b => ?add⟩, ⟨fun a b => a - b, ?_, ?_, ?_, sub_exact⟩,
    ⟨fun a b => a * b, ?_, ?_, ?_, fun a b => ?mul⟩, ⟨fun a b => a &&& b, ?_, ?_, ?_, fun a b => ?and⟩,
    ⟨fun a b => a ||| b, ?_, ?_, ?_, fun a b => ?or⟩, ⟨fun a b => a ^^^ b, ?_, ?_, ?_, fun a b => ?xor⟩,
    ⟨shl64, ?_, ?_, ?_, shl64_exact⟩, ⟨shr64, ?_, ?_, ?_, shr64_exact⟩, ⟨sar64, ?_, ?_, ?_, sar64_exact⟩,
    ⟨min64, ?_, ?_, ?_, min64_exact⟩, ⟨max64, ?_, ?_, ?_, max64_exact⟩⟩
  case add => exact_mod_cast eq_ofInt_of_toNat_eq (BitVec.toNat_add a b)
  case mul => exact_mod_cast eq_ofInt_of_toNat_eq (BitVec.toNat_mul a b)
  case and => exact (ofInt_coe_toNat (a &&& b)).symm.trans (by rw [BitVec.toNat_and])
  case or => exact (ofInt_coe_toNat (a ||| b)).symm.trans (by rw [BitVec.toNat_or])
  case xor => exact (ofInt_coe_toNat (a ^^^ b)).symm.trans (by rw [BitVec.toNat_xor])
  all_goals intros; rfl

section
variable {s : State} {e slot : Nat} {p : Prog} (hat : AtProg s e slot p) {x : CeOp} {f : W64 → W64 → W64}
  (hx : Computes x f)
include hat hx

theorem exec_ceOp_reg (o : Ce3) : exec (x.reg o) s
    = .next (setsE s e slot p o.d.toNat 4 (x.val (p.getE o.a.toNat) (p.getE o.b.toNat))) :=
  (hx.reg o s).trans (ceSet_run hat o.d 4 (hx.exact _ _))

theorem exec_ceOp_imm (o : CeI) : exec (x.imm o) s
    = .next (setsE s e slot p o.d.toNat 4 (x.val (p.getE o.a.toNat) (BitVec.ofInt 64 o.i.toInt))) :=
  (hx.imm o s).trans (ceSet_run hat o.d 4 (hx.exact _ _))

theorem exec_ceOp_ext (o : CeX) : exec (x.ext o) s
    = .next (setsE s e slot p o.d.toNat 8 (x.val (p.getE o.a.toNat) (BitVec.ofInt 64 o.x.toInt))) :=
  (hx.ext o s).trans (ceSet_run hat o.d 8 (hx.exact _ _))

end

/-- `LIH` puts its word above the low half of the register (R277). -/
theorem lih_exact (x : W32) (v : W64) :
    x ++ v.extractLsb' 0 32 = BitVec.ofInt 64 (v.toNat % 2 ^ 32 + x.toNat * 2 ^ 32) := by
  have happend : (x ++ v.extractLsb' 0 32).toNat = (v.toNat % 2 ^ 32 + x.toNat * 2 ^ 32) % 2 ^ 64 := by
    rw [BitVec.toNat_append, ← Nat.shiftLeft_add_eq_or_of_lt (BitVec.isLt _), BitVec.extractLsb'_toNat,
      Nat.shiftRight_zero, Nat.shiftLeft_eq]
    have hx := x.isLt
    omega
  exact_mod_cast eq_ofInt_of_toNat_eq happend

/-- `GETL` reads the low half, INDEX (R277). -/
theorem getl_exact (v : W64) : (v.extractLsb' 0 32).setWidth 64 = BitVec.ofInt 64 (v.toNat % 2 ^ 32 : Nat) :=
  eq_ofInt_of_toNat_eq (by simp)

/-- Settles O27: each form computes its function of the operands, whose value is exact modulo 2⁶⁴. -/
theorem commandArithmetic : Obligations.CommandArithmetic := by
  intro s e slot p hat
  refine ⟨fun x hmem => ?_, fun d i => ceSet_run hat d 4 rfl, fun d x => ceSet_run hat d 8 rfl,
    fun d x => ceSet_run hat d 8 (lih_exact x _), fun d k => ceSet_run hat d 4 (getl_exact _),
    fun d v => ⟨by rw [getE_setE, if_pos rfl], fun r hr => by rw [getE_setE, if_neg hr]⟩⟩
  obtain ⟨f, hx⟩ := exists_computes x hmem
  exact ⟨exec_ceOp_reg hat hx, exec_ceOp_imm hat hx, exec_ceOp_ext hat hx⟩

end Sys2Proof.Proofs
end

section
/-! A state that the statements on copy programs leave open: two programs in one slot of an engine. The fault of
the one that is found there (R294) wakes the other (R44, R215), which takes the slot. -/

namespace Sys2Proof.Proofs

open Sys2Proof Sys2Proof.Machine Sys2Proof.Claims

/-! ## The state -/

/-- A program of the gang whose default barrier is the object at scratch offset 0. E0 is the gang's allocation size,
so that an access at it is out of bounds. -/
def sharedProg : Prog := Prog.start ⟨1, 0, some 0, none, 1⟩ false (BitVec.ofNat 64 placedVa) [65536] 0 0 0
  (BitVec.ofNat 64 placedVa) 16 0

/-- The second program of the slot waits for that object in `WAITX`. -/
def sharedWaiter : Prog := { sharedProg with st := 2 }

/-- Both programs stand in slot 0 of engine 0; a search of the slot finds the first. -/
def sharedState : State :=
  { State.reset with
    gangs := [(0, placedGang)]
    engines := [(0, { starts := 2, slots := [(0, sharedProg), (0, sharedWaiter)], last := 0 })]
    curE := some (0, 0) }

theorem shared_at : AtProg sharedState 0 0 sharedProg := ⟨rfl, rfl⟩

/-! ## A fault there -/

/-- The state of the program in the slot after a step. -/
def slotAfterStep (out : Out) : Option Nat :=
  match out with
  | .next t => (t.prog? 0 0).map (·.st)
  | _ => none

/-- A slot whose program runs holds no stopped program. -/
theorem not_stopped_of_slotAfterStep {out : Out} (h : slotAfterStep out = some 1) {c : CeCause} {fa : Nat} :
    ¬ ∃ t : State, out = .next t ∧ Stopped t 0 0 sharedProg c fa := by
  rintro ⟨t, rfl, q, hq, hst, -⟩
  have hrun : q.st = 1 := by simpa [slotAfterStep, hq] using h
  rcases hst with hst | ⟨hst, -⟩ <;> omega

/-! ## Commands that fault there -/

/-- Refutes O28: its last clause has the program of a faulting `ENDL` stopped in its slot, but no premise gives the
programs of an engine a slot each. In `sharedState`, which no run reaches, the fault sets CEF in the object at 0, which
wakes the second program of the slot; the slot then holds it, running. -/
theorem not_commandBranches : ¬ Obligations.CommandBranches := by
  intro hall
  obtain ⟨-, -, -, -, -, -, hfault⟩ := hall sharedState 0 0 sharedProg shared_at
  exact not_stopped_of_slotAfterStep (by decide +kernel) (hfault 0 0 0 (.endl 0 0) (by simp))

/-- A load of four bytes of scratch at E0, which is out of bounds. -/
def sharedLoad : CeMem := ⟨0, 0, none, 2, false, true, none⟩

/-- Refutes O29: its clause on a load whose check fails has the program stopped in its slot. In `sharedState`, which no
run reaches, the slot then holds the second program, as for O28. -/
theorem not_commandMemory : ¬ Obligations.CommandMemory := by
  intro hall
  obtain ⟨haccess, -⟩ := hall sharedState 0 0 sharedProg shared_at
  obtain ⟨-, -, hload, -⟩ := haccess sharedLoad 65536 4 rfl (by decide +kernel)
  obtain ⟨-, hfault⟩ := hload (.ldBase sharedLoad) (by simp) ⟨by decide +kernel, by decide +kernel⟩
  exact not_stopped_of_slotAfterStep (by decide +kernel) (hfault sharedState .bound 65536 (by decide +kernel))

/-- Refutes O31: its last clause has the program of an illegal command stopped in its slot. In `sharedState`, which no
run reaches, the slot then holds the second program, as for O28. -/
theorem not_commandSync : ¬ Obligations.CommandSync := by
  intro hall
  obtain ⟨-, -, -, -, -, -, -, -, hillegal⟩ := hall sharedState 0 0 sharedProg shared_at
  exact not_stopped_of_slotAfterStep (by decide +kernel) (hillegal .illegal 0 0 0)

/-- Refutes O32: its clause on an `XFER` whose block cannot be read has the program stopped in its slot. In
`sharedState`, which no run reaches, the slot then holds the second program, as for O28. -/
theorem not_transfers : ¬ Obligations.Transfers := by
  intro hall
  obtain ⟨hissue, -⟩ := hall sharedState 0 0 sharedProg
  obtain ⟨-, -, hfault, -⟩ := hissue shared_at 0 true
  exact not_stopped_of_slotAfterStep (by decide +kernel)
    (hfault sharedState .bound 65536 (by decide +kernel) (by decide +kernel))

end Sys2Proof.Proofs
end

section
/-! A state that the statement on the events of a context leaves open: an event ring that runs out of HBM (R322,
R374). -/

namespace Sys2Proof.Proofs

open Sys2Proof Sys2Proof.Machine Sys2Proof.Claims

/-! ## The state -/

/-- The last 64 bytes of the four-die window of HBM (R322). `EVBASE` as the host writes it is a multiple of 128. -/
def edgePa : Nat := 384 * gib - 64

/-- The registers of a ring of one record there. -/
def edgeRegs : CtxRegs := { CtxRegs.init with evBase := BitVec.ofNat 64 edgePa }

/-- A context for whose ring a record of a kind waits. -/
def edgeCtx (kind : Nat) : Ctx := { placedCtx with events := [⟨kind, 0, 0, 0, 0, 0, []⟩], regs := edgeRegs }

def edgeState (kind : Nat) : State := { State.reset with ctxs := [(1, edgeCtx kind)] }

theorem edge_base : edgeRegs.evBase ≠ 0 := by decide +kernel

theorem edge_room : (edgeRegs.evTail - edgeRegs.evHead).toNat < 2 ^ edgeRegs.evLog.toNat := by decide +kernel

theorem edge_pa : edgeRegs.evBase.toNat + 128 * (edgeRegs.evTail.toNat % 2 ^ edgeRegs.evLog.toNat) = edgePa := by
  decide +kernel

theorem edge_desc (kind : Nat) : descAt (edgeState kind) edgePa := ⟨by decide +kernel, [0, 1, 2, 3], rfl⟩

/-! ## What is written there -/

/-- The record runs past the end of HBM, where no memory is. -/
theorem edge_physOk (t : State) : t.physOk edgePa 128 = false := rfl

/-- The number of the next free value after a step. -/
def freeAfterStep (out : Out) : Option Nat :=
  match out with
  | .next t => some t.free
  | _ => none

theorem edge_freeAfterStep : ∀ kind < 2, freeAfterStep (exec (.eventRecordWrite 1) (edgeState kind)) = some 2 := by
  decide +kernel

/-- A read there finds the free bytes of absent addresses (log 74), so that the first is the record's kind. -/
theorem edge_kind (h : Obligations.ContextEvents) {kind : Nat} (hkind : kind < 2) :
    Config.absentByte 2 edgePa = BitVec.ofNat 8 kind := by
  obtain ⟨-, hctx, -⟩ := h
  obtain ⟨-, hring⟩ := hctx (edgeState kind) 1 (edgeCtx kind) rfl
  obtain ⟨t, c', hexec, -, -, -, -, hrecord⟩ := hring ⟨kind, 0, 0, 0, 0, 0, []⟩ [] rfl edge_base edge_room rfl
  rw [show (edgeCtx kind).regs = edgeRegs from rfl, edge_pa] at hrecord
  obtain ⟨bs, hbs, hread⟩ := hrecord (edge_desc kind) (hkind.trans (by decide))
  have hfree : t.free = 2 := by simpa [hexec, freeAfterStep] using edge_freeAfterStep kind hkind
  have hfirst : bs.getD 0 0 = Config.absentByte 2 edgePa := by
    rw [← hread, State.physRead, edge_physOk, hfree]
    rfl
  exact hfirst.symm.trans hbs.kind

/-- Refutes O50: its clause on the event ring has a record stand in the ring's next 128 bytes where those start in HBM
at a multiple of 64, but no premise keeps their end in HBM. In `edgeState`, whose `EVBASE` no host can write, they run
past it, so that a record of kind 0 and one of kind 1 would leave the same byte. -/
theorem not_contextEvents : ¬ Obligations.ContextEvents := by
  intro hall
  exact absurd ((edge_kind hall (kind := 0) (by decide)).symm.trans (edge_kind hall (kind := 1) (by decide)))
    (by decide)

end Sys2Proof.Proofs
end
